-- ==== Sys2Proof/Word.lean ====
section
/-! DEFINITION. The word types of the machine: the 64-bit register word (13 R123), the 32-bit lane and instruction word
(11 R106, 15 R147) and the byte (00 R7). -/

namespace Sys2Proof

/-- A byte of memory. -/
abbrev Byte := BitVec 8
/-- A vector lane, an accumulator element, an instruction word. -/
abbrev Lane := BitVec 32
/-- A scalar register, an address, a control and status register. -/
abbrev Word := BitVec 64

end Sys2Proof
end

