-- ==== Sys2Proof/Syntax.lean ====
section
/-! DEFINITION. The instructions and the steps of the machine: one constructor per row of the opcode table. The first 286 are
instruction words (11 R106-R122), with their operand fields as the encoding gives them; the other 119 are the machine's
events (95), with what the outside or the schedule gives them as operands. -/

namespace Sys2Proof

/-- Which CSR instruction performs an access (35 R338): CSRR, CSRW, CSRS or CSRC. -/
inductive CsrFn where
  | read | write | set | clear
  deriving DecidableEq, Repr

/-- The size of an access to a device register (19 R194): the low or the high word of a doubleword, or the whole. -/
inductive DevSize where
  | wordLow | wordHigh | dword
  deriving DecidableEq, Repr

/-- An operand list that an admin command names by a bus address (41 R370): read, or its read faulted (status 4). -/
inductive Operand where
  | fault
  | list (xs : List Nat)
  deriving DecidableEq, Repr

/-- What the barrier network brings from another package (03 R28, R35): its EXEND alone, or its arrival with value and abort code. -/
structure Arrival where
  arrived : Bool
  value : BitVec 64
  code : BitVec 8
  deriving DecidableEq, Repr

/-- What a sweep gathers from the other packages of a launch (03 R48). -/
structure FarSweep where
  sent : BitVec 64
  received : BitVec 64
  idle : Bool
  deriving DecidableEq, Repr

/-- What bring-up finds (43 R378): signatures good, stage digests for MEAS0-MEAS7, position, skew, links trained. -/
structure Boot where
  signed : Bool
  digests : List (BitVec 384)
  dgrp : BitVec 6
  pkg : BitVec 5
  fskew : BitVec 32
  linksUp : List (BitVec 7)
  deriving DecidableEq, Repr

/-- A contribution arriving at a home meeting (33 R314): sending package, member, tag, elements, and the meeting that
sent it, to which results return. -/
structure Contribution where
  pkg : BitVec 11
  member : BitVec 11
  tag : BitVec 32
  vals : List (BitVec 32)
  fromMeeting : BitVec 14
  deriving DecidableEq, Repr

/-- Algorithms that a NEGOTIATE_ALGORITHMS offers (33 R324): the four that are supported, and any other. -/
inductive SpdmAlgorithm where
  | ecdsaP384 | sha384 | secp384r1 | aes256Gcm | other
  deriving DecidableEq, Repr

/-- An SPDM request reaching the security controller (33 R324): the package it comes from over the fabric (none: PCIe DOE), its session, if
any, what it offers, and its body. -/
structure SpdmRequest where
  peer : Option (BitVec 11)
  session : Option (BitVec 32)
  offer : List SpdmAlgorithm
  body : List (BitVec 8)
  deriving DecidableEq, Repr

/-- What the SPDM session with another member of an enclave that forms has brought (33 R325): the eight measurements that the member reports,
and whether it accepts this package's own. -/
structure MemberAnswer where
  pkg : BitVec 11
  meas : List (BitVec 384)
  accepts : Bool
  deriving DecidableEq, Repr

/-- What the other members bring to the formation of an enclave, and, where another package leads, the secret G_1 that it sends. -/
structure Formation where
  answers : List MemberAnswer
  secret : Option (BitVec 384)
  deriving DecidableEq, Repr

/-- A launch queue's doorbell, in the BAR0 of a function: 0 the physical one (41 R362, R363). -/
structure Doorbell where
  fn : BitVec 4
  queue : BitVec 6
  deriving DecidableEq, Repr

/-- A flit whose CRC has failed: its port and its link sequence number (25 R237). -/
structure FailedFlit where
  port : BitVec 7
  seq : BitVec 16
  deriving DecidableEq, Repr

/-- A keep-alive beat on a port (25 R246): the neighbour's, with its totals by channel, or, with none, this package's own. -/
structure KeepAliveBeat where
  port : BitVec 7
  totals : Option (List (BitVec 16))
  deriving DecidableEq, Repr

/-- A fabric packet: the header flit of 25 R238 and its payload. -/
structure Packet where
  kind : BitVec 8
  vc : BitVec 2
  hopClass : BitVec 2
  of : Bool
  enc : Bool
  lane : BitVec 2
  src : BitVec 16
  dst : BitVec 16
  ctx : BitVec 16
  lseq : BitVec 16
  oseq : BitVec 32
  addr : BitVec 56
  op : BitVec 8
  win : BitVec 8
  kgen : BitVec 8
  cidx : BitVec 16
  spid : BitVec 16
  rnd : BitVec 16
  lcnt : List (BitVec 16)
  via : BitVec 8
  hops : BitVec 8
  dkind : BitVec 8
  tag : BitVec 128
  payload : List (BitVec 8)
  /-- The lens whose codes a reduction contribution carries, zero for none (27 R261): the header has no field for it (log 69). -/
  lens : BitVec 32
  /-- Of the model, not of the header (log 161): the port of this package that it leaves or came by, the member that sealed it last, the
  job of the launch that issued it, and its domain (log 138), each zero for none. -/
  port : BitVec 7
  sealer : BitVec 11
  job : BitVec 32
  domain : BitVec 16
  deriving DecidableEq, Repr

/-- The rows of the opcode table. -/
inductive Instr where
  /-- ADD (R132): Sets rd to the wrapping 64-bit sum of ra and rb. -/
  | add (d : BitVec 5) (a : BitVec 5) (b : BitVec 5)
  /-- SUB (R132): Sets rd to the wrapping 64-bit difference ra minus rb. -/
  | sub (d : BitVec 5) (a : BitVec 5) (b : BitVec 5)
  /-- AND (R132): Sets rd to the bitwise AND of ra and rb. -/
  | and (d : BitVec 5) (a : BitVec 5) (b : BitVec 5)
  /-- OR (R132): Sets rd to the bitwise OR of ra and rb. -/
  | or (d : BitVec 5) (a : BitVec 5) (b : BitVec 5)
  /-- XOR (R132): Sets rd to the bitwise XOR of ra and rb. -/
  | xor (d : BitVec 5) (a : BitVec 5) (b : BitVec 5)
  /-- ANDN (R132): Sets rd to ra AND NOT rb. -/
  | andn (d : BitVec 5) (a : BitVec 5) (b : BitVec 5)
  /-- ORN (R132): Sets rd to ra OR NOT rb. -/
  | orn (d : BitVec 5) (a : BitVec 5) (b : BitVec 5)
  /-- XNOR (R132): Sets rd to NOT (ra XOR rb). -/
  | xnor (d : BitVec 5) (a : BitVec 5) (b : BitVec 5)
  /-- SLL (R132): Shifts ra left by rb[5:0] into rd. -/
  | sll (d : BitVec 5) (a : BitVec 5) (b : BitVec 5)
  /-- SRL (R132): Shifts ra logically right by rb[5:0] into rd. -/
  | srl (d : BitVec 5) (a : BitVec 5) (b : BitVec 5)
  /-- SRA (R132): Shifts ra arithmetically right by rb[5:0] into rd. -/
  | sra (d : BitVec 5) (a : BitVec 5) (b : BitVec 5)
  /-- ROL (R132): Rotates ra left by rb[5:0] into rd. -/
  | rol (d : BitVec 5) (a : BitVec 5) (b : BitVec 5)
  /-- ROR (R132): Rotates ra right by rb[5:0] into rd. -/
  | ror (d : BitVec 5) (a : BitVec 5) (b : BitVec 5)
  /-- MIN (R132): Sets rd to the signed minimum of ra and rb. -/
  | min (d : BitVec 5) (a : BitVec 5) (b : BitVec 5)
  /-- MAX (R132): Sets rd to the signed maximum of ra and rb. -/
  | max (d : BitVec 5) (a : BitVec 5) (b : BitVec 5)
  /-- MINN (R132): Sets rd to the unsigned minimum of ra and rb. -/
  | minn (d : BitVec 5) (a : BitVec 5) (b : BitVec 5)
  /-- MAXN (R132): Sets rd to the unsigned maximum of ra and rb. -/
  | maxn (d : BitVec 5) (a : BitVec 5) (b : BitVec 5)
  /-- SLT (R132): Sets rd to 1 if ra is less than rb signed, else 0. -/
  | slt (d : BitVec 5) (a : BitVec 5) (b : BitVec 5)
  /-- SLTN (R132): Sets rd to 1 if ra is less than rb unsigned, else 0. -/
  | sltn (d : BitVec 5) (a : BitVec 5) (b : BitVec 5)
  /-- SEQ (R132): Sets rd to 1 if ra equals rb, else 0. -/
  | seq (d : BitVec 5) (a : BitVec 5) (b : BitVec 5)
  /-- SNE (R132): Sets rd to 1 if ra differs from rb, else 0. -/
  | sne (d : BitVec 5) (a : BitVec 5) (b : BitVec 5)
  /-- MUL (R132): Sets rd to the low 64 bits of the signed product. -/
  | mul (d : BitVec 5) (a : BitVec 5) (b : BitVec 5)
  /-- MULH (R132): Sets rd to the high 64 bits of the signed product. -/
  | mulh (d : BitVec 5) (a : BitVec 5) (b : BitVec 5)
  /-- MULHN (R132): Sets rd to the high 64 bits of the unsigned product. -/
  | mulhn (d : BitVec 5) (a : BitVec 5) (b : BitVec 5)
  /-- DIV (R133): Signed division truncated toward zero, with fixed results for zero and overflow. -/
  | div (d : BitVec 5) (a : BitVec 5) (b : BitVec 5)
  /-- DIVN (R133): Unsigned division, all ones for a zero divisor. -/
  | divn (d : BitVec 5) (a : BitVec 5) (b : BitVec 5)
  /-- REM (R133): Signed remainder with the sign of ra. -/
  | rem (d : BitVec 5) (a : BitVec 5) (b : BitVec 5)
  /-- REMN (R133): Unsigned remainder, ra for a zero divisor. -/
  | remn (d : BitVec 5) (a : BitVec 5) (b : BitVec 5)
  /-- CLZ (R132): Counts leading zero bits of ra. -/
  | clz (d : BitVec 5) (a : BitVec 5)
  /-- CTZ (R132): Counts trailing zero bits of ra. -/
  | ctz (d : BitVec 5) (a : BitVec 5)
  /-- POPC (R132): Counts the one bits of ra. -/
  | popc (d : BitVec 5) (a : BitVec 5)
  /-- BREV (R132): Reverses the bit order of ra. -/
  | brev (d : BitVec 5) (a : BitVec 5)
  /-- BSWAP (R132): Reverses the byte order of ra. -/
  | bswap (d : BitVec 5) (a : BitVec 5)
  /-- ADDW (R132): 32-bit add sign-extended to 64 bits. -/
  | addw (d : BitVec 5) (a : BitVec 5) (b : BitVec 5)
  /-- SUBW (R132): 32-bit subtract sign-extended to 64 bits. -/
  | subw (d : BitVec 5) (a : BitVec 5) (b : BitVec 5)
  /-- MULW (R132): 32-bit multiply sign-extended to 64 bits. -/
  | mulw (d : BitVec 5) (a : BitVec 5) (b : BitVec 5)
  /-- SLLW (R132): 32-bit left shift by rb[4:0], sign-extended. -/
  | sllw (d : BitVec 5) (a : BitVec 5) (b : BitVec 5)
  /-- SRLW (R132): 32-bit logical right shift by rb[4:0], sign-extended. -/
  | srlw (d : BitVec 5) (a : BitVec 5) (b : BitVec 5)
  /-- SRAW (R132): 32-bit arithmetic right shift by rb[4:0], sign-extended. -/
  | sraw (d : BitVec 5) (a : BitVec 5) (b : BitVec 5)
  /-- ADDI (R134): Adds the sign-extended immediate to ra. -/
  | addi (d : BitVec 5) (a : BitVec 5) (i : BitVec 16)
  /-- ANDI (R134): ANDs ra with the zero-extended immediate. -/
  | andi (d : BitVec 5) (a : BitVec 5) (i : BitVec 16)
  /-- ORI (R134): ORs ra with the zero-extended immediate. -/
  | ori (d : BitVec 5) (a : BitVec 5) (i : BitVec 16)
  /-- XORI (R134): XORs ra with the zero-extended immediate. -/
  | xori (d : BitVec 5) (a : BitVec 5) (i : BitVec 16)
  /-- SLTI (R134): Signed compare of ra with the sign-extended immediate. -/
  | slti (d : BitVec 5) (a : BitVec 5) (i : BitVec 16)
  /-- SLTIN (R134): Unsigned compare of ra with the sign-extended immediate. -/
  | sltin (d : BitVec 5) (a : BitVec 5) (i : BitVec 16)
  /-- SLLI (R135): 64-bit shift left by an immediate amount. -/
  | slli (d : BitVec 5) (a : BitVec 5) (n : BitVec 6)
  /-- SRLI (R135): 64-bit logical shift right by an immediate amount. -/
  | srli (d : BitVec 5) (a : BitVec 5) (n : BitVec 6)
  /-- SRAI (R135): 64-bit arithmetic shift right by an immediate amount. -/
  | srai (d : BitVec 5) (a : BitVec 5) (n : BitVec 6)
  /-- RORI (R135): 64-bit rotate right by an immediate amount. -/
  | rori (d : BitVec 5) (a : BitVec 5) (n : BitVec 6)
  /-- SLLI_W (R135): 32-bit shift left by an immediate, sign-extended. -/
  | slliW (d : BitVec 5) (a : BitVec 5) (n : BitVec 5)
  /-- SRLI_W (R135): 32-bit logical shift right by an immediate, sign-extended. -/
  | srliW (d : BitVec 5) (a : BitVec 5) (n : BitVec 5)
  /-- SRAI_W (R135): 32-bit arithmetic shift right by an immediate, sign-extended. -/
  | sraiW (d : BitVec 5) (a : BitVec 5) (n : BitVec 5)
  /-- RORI_W (R135): 32-bit rotate right by an immediate, sign-extended. -/
  | roriW (d : BitVec 5) (a : BitVec 5) (n : BitVec 5)
  /-- LIH (R136): Loads the sign-extended imm21 shifted left by 11 into rd. -/
  | lih (d : BitVec 5) (i : BitVec 21)
  /-- ADPC (R136): Sets rd to PC plus the sign-extended imm21 shifted left by 11. -/
  | adpc (d : BitVec 5) (i : BitVec 21)
  /-- EXTS (R138): Extracts a bit field of ra, sign-extended. -/
  | exts (d : BitVec 5) (a : BitVec 5) (l : BitVec 6) (p : BitVec 6)
  /-- EXTZ (R138): Extracts a bit field of ra, zero-extended. -/
  | extz (d : BitVec 5) (a : BitVec 5) (l : BitVec 6) (p : BitVec 6)
  /-- DEP (R138): Deposits the low bits of ra into a field of rd. -/
  | dep (d : BitVec 5) (a : BitVec 5) (l : BitVec 6) (p : BitVec 6)
  /-- DEPZ (R138): Deposits the low bits of ra into a field of an otherwise zero rd. -/
  | depz (d : BitVec 5) (a : BitVec 5) (l : BitVec 6) (p : BitVec 6)
  /-- LIS (R137): Shifts rd left by 16 and inserts the immediate. -/
  | lis (d : BitVec 5) (i : BitVec 16)
  /-- LDB (R215): Loads a byte, sign-extended. -/
  | ldb (d : BitVec 5) (a : BitVec 5) (o : BitVec 14)
  /-- LDH (R215): Loads a halfword, sign-extended. -/
  | ldh (d : BitVec 5) (a : BitVec 5) (o : BitVec 14)
  /-- LDW (R215): Loads a word, sign-extended, decoding through a lens window if used. -/
  | ldw (d : BitVec 5) (a : BitVec 5) (o : BitVec 14)
  /-- LDBZ (R215): Loads a byte, zero-extended. -/
  | ldbz (d : BitVec 5) (a : BitVec 5) (o : BitVec 14)
  /-- LDHZ (R215): Loads a halfword, zero-extended. -/
  | ldhz (d : BitVec 5) (a : BitVec 5) (o : BitVec 14)
  /-- LDWZ (R215): Loads a word, zero-extended. -/
  | ldwz (d : BitVec 5) (a : BitVec 5) (o : BitVec 14)
  /-- LDD (R215): Loads a doubleword. -/
  | ldd (d : BitVec 5) (a : BitVec 5) (o : BitVec 14)
  /-- STB (R215): Stores a byte, performed at once or staged by its target. -/
  | stb (d : BitVec 5) (a : BitVec 5) (o : BitVec 14)
  /-- STH (R215): Stores a halfword. -/
  | sth (d : BitVec 5) (a : BitVec 5) (o : BitVec 14)
  /-- STW (R215): Stores a word, encoding through a lens window if used. -/
  | stw (d : BitVec 5) (a : BitVec 5) (o : BitVec 14)
  /-- STD (R215): Stores a doubleword. -/
  | std (d : BitVec 5) (a : BitVec 5) (o : BitVec 14)
  /-- LDSG (R218): Single-copy atomic signal load with order and scope, never staged. -/
  | ldsg (d : BitVec 5) (a : BitVec 5) (o : BitVec 2) (s : BitVec 3) (z : BitVec 1)
  /-- STSG (R218): Single-copy atomic signal store with order and scope, never staged. -/
  | stsg (d : BitVec 5) (a : BitVec 5) (o : BitVec 2) (s : BitVec 3) (z : BitVec 1)
  /-- AMOADD (R220): Atomic add returning the old value. -/
  | amoadd (d : BitVec 5) (a : BitVec 5) (b : BitVec 5) (o : BitVec 2) (s : BitVec 3) (z : BitVec 1)
  /-- AMOAND (R220): Atomic AND returning the old value. -/
  | amoand (d : BitVec 5) (a : BitVec 5) (b : BitVec 5) (o : BitVec 2) (s : BitVec 3) (z : BitVec 1)
  /-- AMOOR (R220): Atomic OR returning the old value. -/
  | amoor (d : BitVec 5) (a : BitVec 5) (b : BitVec 5) (o : BitVec 2) (s : BitVec 3) (z : BitVec 1)
  /-- AMOXOR (R220): Atomic XOR returning the old value. -/
  | amoxor (d : BitVec 5) (a : BitVec 5) (b : BitVec 5) (o : BitVec 2) (s : BitVec 3) (z : BitVec 1)
  /-- AMOSMIN (R220): Atomic signed minimum. -/
  | amosmin (d : BitVec 5) (a : BitVec 5) (b : BitVec 5) (o : BitVec 2) (s : BitVec 3) (z : BitVec 1)
  /-- AMOSMAX (R220): Atomic signed maximum. -/
  | amosmax (d : BitVec 5) (a : BitVec 5) (b : BitVec 5) (o : BitVec 2) (s : BitVec 3) (z : BitVec 1)
  /-- AMONMIN (R220): Atomic unsigned minimum. -/
  | amonmin (d : BitVec 5) (a : BitVec 5) (b : BitVec 5) (o : BitVec 2) (s : BitVec 3) (z : BitVec 1)
  /-- AMONMAX (R220): Atomic unsigned maximum. -/
  | amonmax (d : BitVec 5) (a : BitVec 5) (b : BitVec 5) (o : BitVec 2) (s : BitVec 3) (z : BitVec 1)
  /-- AMOSWAP (R220): Atomic swap. -/
  | amoswap (d : BitVec 5) (a : BitVec 5) (b : BitVec 5) (o : BitVec 2) (s : BitVec 3) (z : BitVec 1)
  /-- AMOCAS (R220): Atomic compare-and-swap against rd. -/
  | amocas (d : BitVec 5) (a : BitVec 5) (b : BitVec 5) (o : BitVec 2) (s : BitVec 3) (z : BitVec 1)
  /-- AMOFADD (R220): Atomic IEEE add under RNE, binary32 or binary64. -/
  | amofadd (d : BitVec 5) (a : BitVec 5) (b : BitVec 5) (o : BitVec 2) (s : BitVec 3) (z : BitVec 1)
  /-- FENCE (R212): Orders every earlier access before every later access at its scope. -/
  | fence (s : BitVec 3)
  /-- FENCEA (R212): Orders earlier loads and waits before every later access. -/
  | fencea (s : BitVec 3)
  /-- FENCER (R212): Orders every earlier access before later writes, messages and postings. -/
  | fencer (s : BitVec 3)
  /-- TFENCE (R199): Discards cached translations of the space within its scope and orders later walks. -/
  | tfence (s : BitVec 3)
  /-- MSGS (R227): Sends an 8-64 byte message to a tile of the package and counts it. -/
  | msgs (a : BitVec 5) (b : BitVec 5) (n : BitVec 4)
  /-- WAITC (R228): Waits until a message counter reaches a threshold, then acquires. -/
  | waitc (a : BitVec 5) (n : BitVec 4)
  /-- CTRADD (R228): Atomically adds to a message counter and retests its waiters. -/
  | ctradd (a : BitVec 5) (n : BitVec 4)
  /-- CTRRD (R228): Reads a message counter without acquiring. -/
  | ctrrd (d : BitVec 5) (n : BitVec 4)
  /-- TKGET (R229): Takes the next ticket of a dispenser atomically. -/
  | tkget (d : BitVec 5) (a : BitVec 5)
  /-- TKWAIT (R229): Waits until now-serving reaches a threshold, then acquires at group scope. -/
  | tkwait (a : BitVec 5) (b : BitVec 5)
  /-- TKNEXT (R229): Increments now-serving with a group-scope release and wakes waiters. -/
  | tknext (a : BitVec 5)
  /-- CHWF (R230): Waits until a channel's filled count reaches n, then acquires. -/
  | chwf (a : BitVec 5) (c : BitVec 3)
  /-- CHWE (R230): Waits until a channel's free count reaches n, then acquires. -/
  | chwe (a : BitVec 5) (c : BitVec 3)
  /-- CHAP (R230): Releases, then advances the producer side of a channel by n slots. -/
  | chap (a : BitVec 5) (c : BitVec 3)
  /-- CHAC (R230): Releases, then advances the consumer side of a channel by n slots. -/
  | chac (a : BitVec 5) (c : BitVec 3)
  /-- CHRD (R231): Reads a channel's state word. -/
  | chrd (d : BitVec 5) (c : BitVec 3)
  /-- CHSET (R231): Sets a channel's base, slot size and count and resets its counts. -/
  | chset (a : BitVec 5) (b : BitVec 5) (c : BitVec 3)
  /-- BARA (R232): Holds until accesses are performed, then sends the member's barrier arrival with value and code. -/
  | bara (a : BitVec 5) (b : BitVec 5) (l : BitVec 2)
  /-- BARW (R232): Waits for the release of the member's latest arrival and loads BARV and ABORT. -/
  | barw (l : BitVec 2)
  /-- SPAWN (R234): Creates a ready continuation record in the issuer's group. -/
  | spawn (a : BitVec 5) (b : BitVec 5) (p : BitVec 1) (r : BitVec 2)
  /-- SUSP (R235): Suspends the continuation with KIND 0, ready at once. -/
  | susp
  /-- YIELD (R235): Suspends only if an equal or higher priority record is ready for this sequencer. -/
  | yield
  /-- DONE (R235): Ends the continuation, releasing its units, slot and spill area. -/
  | done
  /-- EXEND (R233): Marks the member's part of the current exchange phase at a level done. -/
  | exend (l : BitVec 2)
  /-- XWT (R233): Waits until the compute phase of a level has begun and acquires the exchange's copies. -/
  | xwt (l : BitVec 2)
  /-- BEQ (R139): Branches if ra equals rb. -/
  | beq (a : BitVec 5) (b : BitVec 5) (o : BitVec 13)
  /-- BNE (R139): Branches if ra differs from rb. -/
  | bne (a : BitVec 5) (b : BitVec 5) (o : BitVec 13)
  /-- BLT (R139): Branches if ra is less than rb, signed. -/
  | blt (a : BitVec 5) (b : BitVec 5) (o : BitVec 13)
  /-- BGE (R139): Branches if ra is at least rb, signed. -/
  | bge (a : BitVec 5) (b : BitVec 5) (o : BitVec 13)
  /-- BLTN (R139): Branches if ra is less than rb, unsigned. -/
  | bltn (a : BitVec 5) (b : BitVec 5) (o : BitVec 13)
  /-- BGEN (R139): Branches if ra is at least rb, unsigned. -/
  | bgen (a : BitVec 5) (b : BitVec 5) (o : BitVec 13)
  /-- BEQZ (R139): Branches if ra is zero. -/
  | beqz (a : BitVec 5) (o : BitVec 13)
  /-- BNEZ (R139): Branches if ra is non-zero. -/
  | bnez (a : BitVec 5) (o : BitVec 13)
  /-- BLTZ (R139): Branches if ra is negative. -/
  | bltz (a : BitVec 5) (o : BitVec 13)
  /-- BGEZ (R139): Branches if ra is not negative. -/
  | bgez (a : BitVec 5) (o : BitVec 13)
  /-- BGTZ (R139): Branches if ra is positive. -/
  | bgtz (a : BitVec 5) (o : BitVec 13)
  /-- BLEZ (R139): Branches if ra is not positive. -/
  | blez (a : BitVec 5) (o : BitVec 13)
  /-- J (R140): Jumps PC-relative by off26. -/
  | j (o : BitVec 26)
  /-- CALL (R141): Moves the register window forward and jumps PC-relative, spilling the oldest resident caller if needed. -/
  | call (o : BitVec 26)
  /-- JR (R140): Jumps to the address in ra after an alignment check. -/
  | jr (a : BitVec 5)
  /-- CALLR (R141): Moves the register window forward and jumps to ra. -/
  | callr (a : BitVec 5)
  /-- RET (R142): Moves the register window back, filling the caller if needed, and jumps to i5. -/
  | ret
  /-- JLR (R140): Jumps to ra and writes the return address to rd. -/
  | jlr (d : BitVec 5) (a : BitVec 5)
  /-- VADD_F (R152): Vector binary32 add rounded by FRM. -/
  | vaddF (d : BitVec 5) (a : BitVec 5) (b : BitVec 5) (k : BitVec 3)
  /-- VSUB_F (R152): Vector binary32 subtract. -/
  | vsubF (d : BitVec 5) (a : BitVec 5) (b : BitVec 5) (k : BitVec 3)
  /-- VMUL_F (R152): Vector binary32 multiply. -/
  | vmulF (d : BitVec 5) (a : BitVec 5) (b : BitVec 5) (k : BitVec 3)
  /-- VDIV_F (R152): Vector binary32 divide. -/
  | vdivF (d : BitVec 5) (a : BitVec 5) (b : BitVec 5) (k : BitVec 3)
  /-- VSQRT_F (R152): Vector binary32 square root. -/
  | vsqrtF (d : BitVec 5) (a : BitVec 5) (k : BitVec 3)
  /-- VFMA_F (R152): Vector fused multiply-add rounded once. -/
  | vfmaF (d : BitVec 5) (a : BitVec 5) (b : BitVec 5) (k : BitVec 3)
  /-- VFMS_F (R152): Vector fused multiply-subtract rounded once. -/
  | vfmsF (d : BitVec 5) (a : BitVec 5) (b : BitVec 5) (k : BitVec 3)
  /-- VMIN_F (R152): Vector binary32 minimumNumber. -/
  | vminF (d : BitVec 5) (a : BitVec 5) (b : BitVec 5) (k : BitVec 3)
  /-- VMAX_F (R152): Vector binary32 maximumNumber. -/
  | vmaxF (d : BitVec 5) (a : BitVec 5) (b : BitVec 5) (k : BitVec 3)
  /-- VABS_F (R152): Vector absolute value. -/
  | vabsF (d : BitVec 5) (a : BitVec 5) (k : BitVec 3)
  /-- VNEG_F (R152): Vector negate. -/
  | vnegF (d : BitVec 5) (a : BitVec 5) (k : BitVec 3)
  /-- VADD_I (R153): Vector 32-bit wrapping add. -/
  | vaddI (d : BitVec 5) (a : BitVec 5) (b : BitVec 5) (k : BitVec 3)
  /-- VSUB_I (R153): Vector 32-bit wrapping subtract. -/
  | vsubI (d : BitVec 5) (a : BitVec 5) (b : BitVec 5) (k : BitVec 3)
  /-- VMUL_I (R153): Vector 32-bit wrapping multiply. -/
  | vmulI (d : BitVec 5) (a : BitVec 5) (b : BitVec 5) (k : BitVec 3)
  /-- VMULH_I (R153): Vector signed high-half multiply. -/
  | vmulhI (d : BitVec 5) (a : BitVec 5) (b : BitVec 5) (k : BitVec 3)
  /-- VMULH_N (R153): Vector unsigned high-half multiply. -/
  | vmulhN (d : BitVec 5) (a : BitVec 5) (b : BitVec 5) (k : BitVec 3)
  /-- VMIN_I (R153): Vector signed minimum. -/
  | vminI (d : BitVec 5) (a : BitVec 5) (b : BitVec 5) (k : BitVec 3)
  /-- VMAX_I (R153): Vector signed maximum. -/
  | vmaxI (d : BitVec 5) (a : BitVec 5) (b : BitVec 5) (k : BitVec 3)
  /-- VMIN_N (R153): Vector unsigned minimum. -/
  | vminN (d : BitVec 5) (a : BitVec 5) (b : BitVec 5) (k : BitVec 3)
  /-- VMAX_N (R153): Vector unsigned maximum. -/
  | vmaxN (d : BitVec 5) (a : BitVec 5) (b : BitVec 5) (k : BitVec 3)
  /-- VAND (R153): Vector bitwise AND. -/
  | vand (d : BitVec 5) (a : BitVec 5) (b : BitVec 5) (k : BitVec 3)
  /-- VOR (R153): Vector bitwise OR. -/
  | vor (d : BitVec 5) (a : BitVec 5) (b : BitVec 5) (k : BitVec 3)
  /-- VXOR (R153): Vector bitwise XOR. -/
  | vxor (d : BitVec 5) (a : BitVec 5) (b : BitVec 5) (k : BitVec 3)
  /-- VSLL (R153): Vector shift left by lane amounts. -/
  | vsll (d : BitVec 5) (a : BitVec 5) (b : BitVec 5) (k : BitVec 3)
  /-- VSRL (R153): Vector logical shift right. -/
  | vsrl (d : BitVec 5) (a : BitVec 5) (b : BitVec 5) (k : BitVec 3)
  /-- VSRA (R153): Vector arithmetic shift right. -/
  | vsra (d : BitVec 5) (a : BitVec 5) (b : BitVec 5) (k : BitVec 3)
  /-- VSEL (R153): Selects a or b per lane by the mask for every lane below VL. -/
  | vsel (d : BitVec 5) (a : BitVec 5) (b : BitVec 5) (k : BitVec 3)
  /-- VMOV (R153): Vector move. -/
  | vmov (d : BitVec 5) (a : BitVec 5) (k : BitVec 3)
  /-- VCEQ_F (R154): Vector binary32 equality compare into a mask. -/
  | vceqF (d : BitVec 3) (a : BitVec 5) (b : BitVec 5) (k : BitVec 3)
  /-- VCLT_F (R154): Vector binary32 less-than compare into a mask. -/
  | vcltF (d : BitVec 3) (a : BitVec 5) (b : BitVec 5) (k : BitVec 3)
  /-- VCLE_F (R154): Vector binary32 less-or-equal compare into a mask. -/
  | vcleF (d : BitVec 3) (a : BitVec 5) (b : BitVec 5) (k : BitVec 3)
  /-- VCUN_F (R154): Vector unordered compare into a mask. -/
  | vcunF (d : BitVec 3) (a : BitVec 5) (b : BitVec 5) (k : BitVec 3)
  /-- VCEQ_I (R154): Vector integer equality compare into a mask. -/
  | vceqI (d : BitVec 3) (a : BitVec 5) (b : BitVec 5) (k : BitVec 3)
  /-- VCLT_I (R154): Vector signed less-than compare into a mask. -/
  | vcltI (d : BitVec 3) (a : BitVec 5) (b : BitVec 5) (k : BitVec 3)
  /-- VCLT_N (R154): Vector unsigned less-than compare into a mask. -/
  | vcltN (d : BitVec 3) (a : BitVec 5) (b : BitVec 5) (k : BitVec 3)
  /-- VCLASS_F (R152): Writes the one-hot class of each binary32 lane. -/
  | vclassF (d : BitVec 5) (a : BitVec 5) (k : BitVec 3)
  /-- VADDS_F (R155): Vector-scalar binary32 add. -/
  | vaddsF (d : BitVec 5) (a : BitVec 5) (b : BitVec 5) (k : BitVec 3)
  /-- VSUBS_F (R155): Vector-scalar binary32 subtract. -/
  | vsubsF (d : BitVec 5) (a : BitVec 5) (b : BitVec 5) (k : BitVec 3)
  /-- VMULS_F (R155): Vector-scalar binary32 multiply. -/
  | vmulsF (d : BitVec 5) (a : BitVec 5) (b : BitVec 5) (k : BitVec 3)
  /-- VFMAS_F (R155): Vector-scalar fused multiply-add. -/
  | vfmasF (d : BitVec 5) (a : BitVec 5) (b : BitVec 5) (k : BitVec 3)
  /-- VMINS_F (R155): Vector-scalar binary32 minimum. -/
  | vminsF (d : BitVec 5) (a : BitVec 5) (b : BitVec 5) (k : BitVec 3)
  /-- VMAXS_F (R155): Vector-scalar binary32 maximum. -/
  | vmaxsF (d : BitVec 5) (a : BitVec 5) (b : BitVec 5) (k : BitVec 3)
  /-- VADDS_I (R155): Vector-scalar integer add. -/
  | vaddsI (d : BitVec 5) (a : BitVec 5) (b : BitVec 5) (k : BitVec 3)
  /-- VMULS_I (R155): Vector-scalar integer multiply. -/
  | vmulsI (d : BitVec 5) (a : BitVec 5) (b : BitVec 5) (k : BitVec 3)
  /-- VSLLS (R155): Vector shift left by a scalar amount. -/
  | vslls (d : BitVec 5) (a : BitVec 5) (b : BitVec 5) (k : BitVec 3)
  /-- VSRLS (R155): Vector logical shift right by a scalar amount. -/
  | vsrls (d : BitVec 5) (a : BitVec 5) (b : BitVec 5) (k : BitVec 3)
  /-- VSRAS (R155): Vector arithmetic shift right by a scalar amount. -/
  | vsras (d : BitVec 5) (a : BitVec 5) (b : BitVec 5) (k : BitVec 3)
  /-- VCEQS_I (R155): Vector-scalar equality compare into a mask. -/
  | vceqsI (d : BitVec 3) (a : BitVec 5) (b : BitVec 5) (k : BitVec 3)
  /-- VCLTS_I (R155): Vector-scalar signed less-than compare into a mask. -/
  | vcltsI (d : BitVec 3) (a : BitVec 5) (b : BitVec 5) (k : BitVec 3)
  /-- VSPLAT (R155): Writes a scalar into every active lane. -/
  | vsplat (d : BitVec 5) (b : BitVec 5) (k : BitVec 3)
  /-- VINSL (R155): Inserts a scalar into one lane. -/
  | vinsl (d : BitVec 5) (a : BitVec 5) (b : BitVec 5)
  /-- VEXTL (R155): Waits for the vector queue to empty and extracts one lane into a scalar. -/
  | vextl (d : BitVec 5) (a : BitVec 5) (b : BitVec 5)
  /-- VLD (R156): Vector load of consecutive words. -/
  | vld (d : BitVec 5) (a : BitVec 5) (k : BitVec 3)
  /-- VLDS (R156): Vector strided load. -/
  | vlds (d : BitVec 5) (a : BitVec 5) (b : BitVec 5) (k : BitVec 3)
  /-- VLDG (R156): Vector gather load. -/
  | vldg (d : BitVec 5) (a : BitVec 5) (b : BitVec 5) (k : BitVec 3)
  /-- VLDB (R156): Vector broadcast load of one word. -/
  | vldb (d : BitVec 5) (a : BitVec 5) (k : BitVec 3)
  /-- VST (R156): Vector store of consecutive words. -/
  | vst (d : BitVec 5) (a : BitVec 5) (k : BitVec 3)
  /-- VSTS (R156): Vector strided store. -/
  | vsts (d : BitVec 5) (a : BitVec 5) (b : BitVec 5) (k : BitVec 3)
  /-- VSTSC (R156): Vector scatter store. -/
  | vstsc (d : BitVec 5) (a : BitVec 5) (b : BitVec 5) (k : BitVec 3)
  /-- VRADD_F (R158): Tree reduction of binary32 lanes by addition into lane 0. -/
  | vraddF (d : BitVec 5) (a : BitVec 5) (k : BitVec 3)
  /-- VRADD_I (R158): Tree reduction by wrapping integer addition. -/
  | vraddI (d : BitVec 5) (a : BitVec 5) (k : BitVec 3)
  /-- VRMIN_F (R158): Tree reduction by binary32 minimum. -/
  | vrminF (d : BitVec 5) (a : BitVec 5) (k : BitVec 3)
  /-- VRMAX_F (R158): Tree reduction by binary32 maximum. -/
  | vrmaxF (d : BitVec 5) (a : BitVec 5) (k : BitVec 3)
  /-- VRMIN_I (R158): Tree reduction by signed minimum. -/
  | vrminI (d : BitVec 5) (a : BitVec 5) (k : BitVec 3)
  /-- VRMAX_I (R158): Tree reduction by signed maximum. -/
  | vrmaxI (d : BitVec 5) (a : BitVec 5) (k : BitVec 3)
  /-- VRMIN_N (R158): Tree reduction by unsigned minimum. -/
  | vrminN (d : BitVec 5) (a : BitVec 5) (k : BitVec 3)
  /-- VRMAX_N (R158): Tree reduction by unsigned maximum. -/
  | vrmaxN (d : BitVec 5) (a : BitVec 5) (k : BitVec 3)
  /-- VRAND (R158): Tree reduction by bitwise AND. -/
  | vrand (d : BitVec 5) (a : BitVec 5) (k : BitVec 3)
  /-- VRIOR (R158): Tree reduction by bitwise OR. -/
  | vrior (d : BitVec 5) (a : BitVec 5) (k : BitVec 3)
  /-- VRXOR (R158): Tree reduction by bitwise XOR. -/
  | vrxor (d : BitVec 5) (a : BitVec 5) (k : BitVec 3)
  /-- VSCAN_F (R158): Inclusive binary32 scan by aligned tree blocks. -/
  | vscanF (d : BitVec 5) (a : BitVec 5) (k : BitVec 3)
  /-- VPERM (R159): Permutes lanes by an index vector. -/
  | vperm (d : BitVec 5) (a : BitVec 5) (b : BitVec 5) (k : BitVec 3)
  /-- VSLDU (R159): Slides lanes down by a scalar count. -/
  | vsldu (d : BitVec 5) (a : BitVec 5) (b : BitVec 5) (k : BitVec 3)
  /-- VSLDD (R159): Slides lanes up by a scalar count. -/
  | vsldd (d : BitVec 5) (a : BitVec 5) (b : BitVec 5) (k : BitVec 3)
  /-- VREV (R159): Reverses lanes below VL. -/
  | vrev (d : BitVec 5) (a : BitVec 5) (k : BitVec 3)
  /-- VZIP (R159): Interleaves two vectors. -/
  | vzip (d : BitVec 5) (a : BitVec 5) (b : BitVec 5) (k : BitVec 3)
  /-- VUZP (R159): De-interleaves two vectors. -/
  | vuzp (d : BitVec 5) (a : BitVec 5) (b : BitVec 5) (k : BitVec 3)
  /-- VBCAST (R159): Broadcasts one lane chosen by a scalar. -/
  | vbcast (d : BitVec 5) (a : BitVec 5) (b : BitVec 5) (k : BitVec 3)
  /-- VCOMP (R159): Compresses the masked lanes to the bottom. -/
  | vcomp (d : BitVec 5) (a : BitVec 5) (k : BitVec 3)
  /-- VMAND (R160): Mask AND. -/
  | vmand (d : BitVec 3) (a : BitVec 3) (b : BitVec 3)
  /-- VMOR (R160): Mask OR. -/
  | vmor (d : BitVec 3) (a : BitVec 3) (b : BitVec 3)
  /-- VMXOR (R160): Mask XOR. -/
  | vmxor (d : BitVec 3) (a : BitVec 3) (b : BitVec 3)
  /-- VMNOT (R160): Mask NOT. -/
  | vmnot (d : BitVec 3) (a : BitVec 3)
  /-- VMPOPC (R160): Counts set mask bits below VL into a scalar. -/
  | vmpopc (d : BitVec 5) (a : BitVec 3)
  /-- VMFFS (R160): Finds the first set mask bit below VL. -/
  | vmffs (d : BitVec 5) (a : BitVec 3)
  /-- VMFROMX (R160): Loads a mask from a scalar. -/
  | vmfromx (d : BitVec 3) (a : BitVec 5)
  /-- VMTOX (R160): Copies a mask to a scalar. -/
  | vmtox (d : BitVec 5) (a : BitVec 3)
  /-- VSETVL (R161): Sets VL to min(ra, 64) and returns it. -/
  | vsetvl (d : BitVec 5) (a : BitVec 5)
  /-- VCVTFI (R162): Converts binary32 to clamped s32. -/
  | vcvtfi (d : BitVec 5) (a : BitVec 5) (k : BitVec 3)
  /-- VCVTFN (R162): Converts binary32 to clamped unsigned 32. -/
  | vcvtfn (d : BitVec 5) (a : BitVec 5) (k : BitVec 3)
  /-- VCVTIF (R162): Converts s32 to binary32. -/
  | vcvtif (d : BitVec 5) (a : BitVec 5) (k : BitVec 3)
  /-- VCVTNF (R162): Converts unsigned 32 to binary32. -/
  | vcvtnf (d : BitVec 5) (a : BitVec 5) (k : BitVec 3)
  /-- VENC (R163): Encodes lanes under a lens descriptor into codes. -/
  | venc (d : BitVec 5) (a : BitVec 5) (b : BitVec 3) (k : BitVec 3)
  /-- VDEC (R163): Decodes lane codes under a lens descriptor. -/
  | vdec (d : BitVec 5) (a : BitVec 5) (b : BitVec 3) (k : BitVec 3)
  /-- RGKEY (R166): Sets the Philox key from a scalar. -/
  | rgkey (a : BitVec 5)
  /-- RGCTR (R166): Sets the 128-bit Philox counter. -/
  | rgctr (a : BitVec 5) (b : BitVec 5)
  /-- RGGEN (R166): Assigns random blocks at push and writes random words into active lanes. -/
  | rggen (d : BitVec 5) (k : BitVec 3)
  /-- RGSKIP (R166): Advances the counter by a 128-bit count. -/
  | rgskip (a : BitVec 5) (b : BitVec 5)
  /-- RGST (R166): Stores counter and key as 32 bytes of tile SRAM. -/
  | rgst (a : BitVec 5)
  /-- RGLD (R166): Loads counter and key from 32 bytes of tile SRAM. -/
  | rgld (a : BitVec 5)
  /-- MCLM (R176): Claims a free operand slot or accumulator at issue. -/
  | mclm (u : BitVec 5)
  /-- MREL (R176): Queues the release of a held slot or accumulator, which is scrubbed when it executes. -/
  | mrel (w : BitVec 8) (e : BitVec 1) (z : BitVec 3) (u : BitVec 5)
  /-- MFIL (R177): Queues a fill of an operand slot from tile SRAM. -/
  | mfil (w : BitVec 8) (e : BitVec 1) (z : BitVec 3) (s : BitVec 3) (b : BitVec 5)
  /-- MFTS (R178): Queues a fill of an operand slot from the tensor store in a die exchange phase. -/
  | mfts (w : BitVec 8) (e : BitVec 1) (z : BitVec 3) (s : BitVec 3) (b : BitVec 5)
  /-- MMA (R179): Queues a 32x32x32 multiply-accumulate into an accumulator. -/
  | mma (w : BitVec 8) (e : BitVec 1) (z : BitVec 3) (c : BitVec 2) (x : BitVec 3) (y : BitVec 3)
  /-- MMAT (R179): Queues a multiply-accumulate with slot B transposed. -/
  | mmat (w : BitVec 8) (e : BitVec 1) (z : BitVec 3) (c : BitVec 2) (x : BitVec 3) (y : BitVec 3)
  /-- MOPR (R179): Queues an outer-product update of an accumulator. -/
  | mopr (w : BitVec 8) (e : BitVec 1) (z : BitVec 3) (c : BitVec 2) (x : BitVec 3) (y : BitVec 3)
  /-- MZA (R181): Queues zeroing of an accumulator and its flags. -/
  | mza (w : BitVec 8) (e : BitVec 1) (z : BitVec 3) (c : BitVec 2)
  /-- MDRN (R181): Queues a drain of an accumulator to tile SRAM. -/
  | mdrn (w : BitVec 8) (e : BitVec 1) (z : BitVec 3) (c : BitVec 2) (b : BitVec 5)
  /-- MSET_WRITE (R182): Writes an engine register at issue. -/
  | msetWrite (a : BitVec 5) (b : BitVec 5)
  /-- MSET_READ (R182): Waits for earlier matrix commands to retire and stores an engine register to tile SRAM. -/
  | msetRead (a : BitVec 5) (b : BitVec 5)
  /-- MSET_READ_CLEAR (R182): Reads and clears an AFLG register. -/
  | msetReadClear (a : BitVec 5) (b : BitVec 5)
  /-- MWAIT (R184): Holds until every dependency slot in its mask is set. -/
  | mwait (w : BitVec 8)
  /-- XCP (R265): Posts a COPY parameter block to a copy engine. -/
  | xcp (e : BitVec 4) (t : BitVec 3) (a : BitVec 5)
  /-- XADV (R267): Advances the die's stage counter and posts the static schedule's stage lists. -/
  | xadv (e : BitVec 4) (t : BitVec 3) (a : BitVec 5)
  /-- XTLW (R268): Waits until a context's timeline reaches a threshold, then acquires. -/
  | xtlw (t : BitVec 3) (a : BitVec 5)
  /-- XTLW_TK (R268): Waits until the masked scoreboard tokens reach zero. -/
  | xtlwTk (b : BitVec 5)
  /-- XFEN (R269): Holds until a context's posted operations are performed and known, then stores and clears its status record. -/
  | xfen (t : BitVec 3) (a : BitVec 5)
  /-- PBINV (R266): Invalidates one cached parameter block of an engine. -/
  | pbinv (e : BitVec 4) (a : BitVec 5)
  /-- XMC (R260): Posts an MCAST parameter block. -/
  | xmc (e : BitVec 4) (t : BitVec 3) (a : BitVec 5)
  /-- XRED (R260): Posts a REDUCE parameter block. -/
  | xred (e : BitVec 4) (t : BitVec 3) (a : BitVec 5)
  /-- XAT (R260): Posts an ATOMIC parameter block. -/
  | xat (e : BitVec 4) (t : BitVec 3) (a : BitVec 5)
  /-- TSZ (R273): Queues zeroing of tensor-store blocks. -/
  | tsz (e : BitVec 4) (t : BitVec 3) (a : BitVec 5)
  /-- TSC (R273): Queues an in-layer copy of tensor-store blocks. -/
  | tsc (e : BitVec 4) (t : BitVec 3) (a : BitVec 5) (b : BitVec 5)
  /-- TSCMP (R273): Queues a byte comparison of tensor-store blocks. -/
  | tscmp (e : BitVec 4) (t : BitVec 3) (a : BitVec 5) (b : BitVec 5)
  /-- TSF (R274): Holds until earlier tensor-store accesses of the continuation have completed. -/
  | tsf
  /-- THB (R272): Binds a tensor-store handle from a 32-byte record. -/
  | thb (a : BitVec 5) (b : BitVec 5)
  /-- THU (R272): Unbinds a tensor-store handle. -/
  | thu (b : BitVec 5)
  /-- PRCFG (R284): Configures or reconfigures a sum tree at issue. -/
  | prcfg (p : BitVec 2) (a : BitVec 5)
  /-- PRPUT (R286): Queues puts of leaf priorities, bumping generations at commit. -/
  | prput (p : BitVec 2) (t : BitVec 3) (a : BitVec 5) (b : BitVec 5)
  /-- PRUPD (R286): Queues generation-checked priority updates. -/
  | prupd (p : BitVec 2) (t : BitVec 3) (a : BitVec 5) (b : BitVec 5)
  /-- PRDRAW (R288): Queues a stratified draw of B leaves from the committed snapshot. -/
  | prdraw (p : BitVec 2) (t : BitVec 3) (a : BitVec 5) (b : BitVec 5)
  /-- PRWT (R289): Queues computation of importance weights. -/
  | prwt (p : BitVec 2) (t : BitVec 3) (a : BitVec 5) (b : BitVec 5)
  /-- PRSUM (R290): Queues writing of the tree's committed state record. -/
  | prsum (p : BitVec 2) (t : BitVec 3) (a : BitVec 5)
  /-- PRCLR (R285): Marks a tree for release at the committing die barrier. -/
  | prclr (p : BitVec 2)
  /-- SGCFG (R301): Configures a signature accumulator or team to the identity in a shape. -/
  | sgcfg (a : BitVec 5)
  /-- SGCFG_RELEASE (R301): With DEPTH 0, waits for accepted commands and releases the accumulator. -/
  | sgcfgRelease (a : BitVec 5)
  /-- SGINC (R303): Queues absorption of increments into the signature. -/
  | sginc (t : BitVec 3) (a : BitVec 5) (b : BitVec 5)
  /-- SGJOIN (R304): Queues a tree join of signature images onto the state. -/
  | sgjoin (t : BitVec 3) (a : BitVec 5) (b : BitVec 5)
  /-- SGLOG (R305): Queues writing of the log-signature image. -/
  | sglog (t : BitVec 3) (a : BitVec 5)
  /-- SGRD (R306): Queues writing of the signature image. -/
  | sgrd (t : BitVec 3) (a : BitVec 5)
  /-- SGCLR (R306): Queues resetting the state to the identity. -/
  | sgclr (t : BitVec 3)
  /-- QMOPEN (R310): Opens a home or member quorum meeting from a descriptor. -/
  | qmopen (m : BitVec 4) (a : BitVec 5)
  /-- QMJOIN (R314): Delivers a contribution with tag and member to the home meeting. -/
  | qmjoin (m : BitVec 4) (t : BitVec 3) (a : BitVec 5) (b : BitVec 5)
  /-- QMWAIT (R317): Waits until a meeting's open tag exceeds a tag, then acquires results. -/
  | qmwait (m : BitVec 4) (a : BitVec 5)
  /-- QMREC_READ (R318): Queues writing of a round's meeting record. -/
  | qmrecRead (m : BitVec 4) (t : BitVec 3) (a : BitVec 5) (b : BitVec 5)
  /-- QMREC_FORCE (R318): Queues a forced record for a replay round. -/
  | qmrecForce (m : BitVec 4) (t : BitVec 3) (a : BitVec 5) (b : BitVec 5)
  /-- QMEXCL (R319): Excludes a member from the open round on. -/
  | qmexcl (m : BitVec 4) (b : BitVec 5)
  /-- QMCLOSE (R320): Waits for accepted commands, completes waiters and frees the meeting. -/
  | qmclose (m : BitVec 4)
  /-- CSRR (R339): Reads a control and status register. -/
  | csrr (d : BitVec 5) (c : BitVec 10)
  /-- CSRW (R339): Writes a control and status register and returns the old value. -/
  | csrw (d : BitVec 5) (a : BitVec 5) (c : BitVec 10)
  /-- CSRS (R339): Sets bits of a control and status register. -/
  | csrs (d : BitVec 5) (a : BitVec 5) (c : BitVec 10)
  /-- CSRC (R339): Clears bits of a control and status register. -/
  | csrc (d : BitVec 5) (a : BitVec 5) (c : BitVec 10)
  /-- TRAP (R340): Raises cause 0x13 with INFO and EPC at the next instruction. -/
  | trap (i : BitVec 10)
  /-- RFE (R335): Replays station-held accesses and returns from a handler. -/
  | rfe
  /-- BRK (R340): Raises breakpoint cause 0x12. -/
  | brk (i : BitVec 10)
  /-- PBINVA (R340): Holds until every parameter-block cache entry of the die's engines is gone. -/
  | pbinva
  /-- WFE (R340): Holds the sequencer until a timeout, a counter or channel change, or a ready record. -/
  | wfe (i : BitVec 10)
  /-- DIAG (R340): Hands a value and immediate to the periscope. -/
  | diag (a : BitVec 5) (i : BitVec 10)
  /-- STAT_WRITE (R329): Write of STAT limited by mode, clamping PRIO and trapping on forbidden fields. -/
  | statWrite (f : CsrFn) (d a : BitVec 5)
  /-- ABORT_WRITE (R39): CSRW or CSRC clears ABORT; CSRS traps. -/
  | abortWrite (f : CsrFn) (d a : BitVec 5)
  /-- ABCONT_WRITE (R37): Runtime write of the package-wide containment bits. -/
  | abcontWrite (f : CsrFn) (d a : BitVec 5)
  /-- LENS_WRITE (R67): Write of a lens descriptor, trapping on an impossible one. -/
  | lensWrite (n : BitVec 3) (f : CsrFn) (d a : BitVec 5)
  /-- FRM_WRITE (R79): Write of the rounding mode, trapping on reserved modes. -/
  | frmWrite (f : CsrFn) (d a : BitVec 5)
  /-- FFLAGS_ACCESS (R181): Access to FFLAGS that holds until the vector queue is empty and issued drains have retired. -/
  | fflagsAccess (f : CsrFn) (d a : BitVec 5)
  /-- VL_WRITE (R146): Write of VL, clamped to 64. -/
  | vlWrite (f : CsrFn) (d a : BitVec 5)
  /-- LWGT_WRITE (R61): Write of the lane weight, 0 setting 1. -/
  | lwgtWrite (f : CsrFn) (d a : BitVec 5)
  /-- WSPILL_WRITE (R129): Runtime write of FBASE that waits until accepted spills are written out. -/
  | wspillWrite (f : CsrFn) (d a : BitVec 5)
  /-- WDEPTH_WRITE (R127): Runtime write of FLIM, raised to WP.DEPTH if lower. -/
  | wdepthWrite (f : CsrFn) (d a : BitVec 5)
  /-- XTL_WRITE (R253): Write of a context slot, trapping on unowned contexts and zeroing LAST. -/
  | xtlWrite (n : BitVec 3) (f : CsrFn) (d a : BitVec 5)
  /-- PWSIZE_WRITE (R191): Write of PWSIZE; in user mode only clearing OVR is allowed. -/
  | pwsizeWrite (f : CsrFn) (d a : BitVec 5)
  /-- DETSTAT_WRITE (R353): Clear or write of DETSTAT that re-arms sampling when the bits become zero. -/
  | detstatWrite (f : CsrFn) (d a : BitVec 5)
  /-- STAGE_WRITE (R379): Runtime write of the running continuation's stage. -/
  | stageWrite (f : CsrFn) (d a : BitVec 5)
  /-- LAUNCH_DOORBELL (R364): Doorbell write, through a function's BAR0, giving the cumulative count of entries written to a launch queue. -/
  | launchDoorbell (q : Doorbell) (v : BitVec 32)
  /-- ADMIN_DOORBELL (R370): Doorbell write giving the cumulative count of admin entries written. -/
  | adminDoorbell (v : BitVec 32)
  /-- SWPINT_WRITE (R65): Write of the sweep interval, taking effect at each live launch's next sweep. -/
  | swpintWrite (v : BitVec 32)
  /-- PLWAIT_WRITE (R65): Write of the placement wait limit; 0 disables the halt. -/
  | plwaitWrite (v : BitVec 32)
  /-- FGAP_WRITE (R251): Write of the flowlet gap, kept above FSKEW. -/
  | fgapWrite (v : BitVec 32)
  /-- FSTAT_CLEAR (R251): Write of 1 to a sticky fabric status bit clears it. -/
  | fstatClear (v : BitVec 64)
  /-- PR_QLIM_WRITE (R292): Write of the sum-tree queue limit, clamped to 16-256. -/
  | prQlimWrite (die : BitVec 3) (v : BitVec 64)
  /-- SG_QLIM_WRITE (R308): Write of the signature queue limit, clamped to 4-64. -/
  | sgQlimWrite (die : BitVec 3) (v : BitVec 64)
  /-- CE_CONFIG_WRITE (R375): Write of CEWIN and CETHR with clamping, applying to later errors. -/
  | ceConfigWrite (die : BitVec 3) (v : BitVec 64)
  /-- RELIABILITY_STICKY_CLEAR (R375): Write of 1 clears a sticky reliability bit. -/
  | reliabilityStickyClear (die : BitVec 3) (v : BitVec 64)
  /-- PLIMIT_WRITE (R376): Write of the package power limit, capped at its reset value. -/
  | plimitWrite (v : BitVec 64)
  /-- DEVICE_REGISTER_WRITE (R194): Word or doubleword write of a device register that has no row of its own. -/
  | deviceRegisterWrite (off : BitVec 32) (size : DevSize) (v : BitVec 64)
  /-- LAUNCH_COMMAND (R49): The command processor reads and checks one launch-queue entry and writes the head report; `e`: what host memory
  holds there, none where it is unmapped. -/
  | launchCommand (q : BitVec 6) (e : Option (BitVec 512))
  /-- PLACEMENT (R53): A launch that fits is placed: memory cleared, attributes loaded, records written and released. -/
  | placement (lnum : BitVec 16)
  /-- PLWAIT_EXPIRY (R52): A launch waiting longer than PLWAIT halts all other placement. -/
  | plwaitExpiry (lnum : BitVec 16)
  /-- CREATE_QUEUE (R370): Admin command creating a launch queue. -/
  | createQueue (e : BitVec 512)
  /-- DESTROY_QUEUE (R368): Admin command destroying a queue and cancelling its unplaced launches. -/
  | destroyQueue (e : BitVec 512)
  /-- MAP_SPACE (R370): Admin command mapping a space identifier with root table and tensor-store allotment. -/
  | mapSpace (e : BitVec 512)
  /-- UNMAP_SPACE (R369): Admin command unmapping a space not in use. -/
  | unmapSpace (e : BitVec 512)
  /-- INVALIDATE (R369): Admin command acting as a package-scope TFENCE for a space. -/
  | invalidate (e : BitVec 512)
  /-- JOB_DECLARE (R370): Admin command declaring a job's packages. -/
  | jobDeclare (e : BitVec 512) (pkgs : Operand)
  /-- SUSPEND (R342): Admin command pre-empting every continuation of a launch and holding it suspended. -/
  | suspend (e : BitVec 512)
  /-- RESUME (R342): Admin command resuming a suspended launch. -/
  | resume (e : BitVec 512)
  /-- DRAIN (R371): Admin command starting to drain a tensor-store partition. -/
  | drain (e : BitVec 512)
  /-- DRAIN_COMPLETE (R371): The last access to a draining partition ends and the partition goes offline. -/
  | drainComplete (die : BitVec 3) (part : BitVec 6)
  /-- TEST_REPAIR (R371): Admin command starting test and repair of an offline partition. -/
  | testRepair (e : BitVec 512)
  /-- TEST_REPAIR_COMPLETE (R371): Test ends: partition zeroed, repair log written, partition usable or failed. -/
  | testRepairComplete (die : BitVec 3) (part : BitVec 6) (usable : Bool) (log : List (BitVec 128))
  /-- RESUME_PART (R371): Admin command bringing an offline partition online. -/
  | resumePart (e : BitVec 512)
  /-- ATTEST (R369): Admin command writing a signed measurement report. -/
  | attest (e : BitVec 512)
  /-- FORM_ENCLAVE (R325): Admin command forming an enclave by attested sessions and a generation secret. -/
  | formEnclave (e : BitVec 512) (members values : Operand) (f : Formation)
  /-- REVOKE (R327): Admin command rotating an enclave's key generation to exclude a package. -/
  | revoke (e : BitVec 512)
  /-- WINDOW (R247): Admin command declaring a reduction window. -/
  | window (e : BitVec 512) (members : Operand)
  /-- UNWINDOW (R369): Admin command removing a reduction window. -/
  | unwindow (e : BitVec 512)
  /-- PERISCOPE (R346): Admin command enabling periscope recording for a launch. -/
  | periscope (e : BitVec 512)
  /-- PICK (R56): A free sequencer picks the first eligible ready record by the key and loads its state. -/
  | pick (sq : BitVec 16)
  /-- RECORD_READY (R22): A waiting record's condition holds and it becomes ready. -/
  | recordReady (grp : BitVec 10) (slot : BitVec 8)
  /-- WAIT_HOLD_EXPIRY (R23): A wait held for WHOLD clk still false suspends the continuation. -/
  | waitHoldExpiry (sq : BitVec 16)
  /-- HOLD_RELEASE (R382): A held instruction or operation proceeds once its condition holds. -/
  | holdRelease (sq : BitVec 16)
  /-- SPILL_WRITE_OUT (R129): The spill engine writes accepted windows from the context-store buffer to translated memory. -/
  | spillWriteOut (grp : BitVec 10)
  /-- RECORD_WRITE_BACK (R342): A suspended or stopped continuation's write-back completes and its record is written. -/
  | recordWriteBack (sq : BitVec 16)
  /-- BARRIER_ARRIVAL (R41): A member's arrival is sent once all its live continuations have arrived or ended. -/
  | barrierArrival (lnum : BitVec 16) (lv : BitVec 2) (unit : BitVec 10) (member : BitVec 11) (ext : Option Arrival)
  /-- BARRIER_COMPLETE (R38): A barrier completes when all members have arrived: it commits or discards, releases and escalates. -/
  | barrierComplete (lnum : BitVec 16) (lv : BitVec 2) (unit : BitVec 10)
  /-- COMPUTE_PHASE_BEGIN (R28): All members have ended the exchange and its copies are performed, so the compute phase begins. -/
  | computePhaseBegin (lnum : BitVec 16) (lv : BitVec 2) (unit : BitVec 10)
  /-- SWEEP (R48): Every SWPINT clk the barrier networks sum sent and received counts and idleness. -/
  | sweep (lnum : BitVec 16) (far : Option FarSweep)
  /-- PREEMPT_STOP (R341): A named sequencer reaches an instruction boundary and abandons held instructions. -/
  | preemptStop (sq : BitVec 16)
  /-- ASYNC_TRAP_ENTRY (R332): An asynchronous cause is taken at the next instruction boundary. -/
  | asyncTrapEntry (sq : BitVec 16)
  /-- STATION_FAULT (R198): A station finds a fault on a posted store and holds it and younger accesses. -/
  | stationFault (sq : BitVec 16)
  /-- VECTOR_BIND (R59): The arbiter binds queue heads to lane groups and executes them. -/
  | vectorBind (tile : BitVec 14)
  /-- MATRIX_DISPATCH (R173): The matrix engine starts one ready command in its unit. -/
  | matrixDispatch (tile : BitVec 14)
  /-- MATRIX_RETIRE (R170): A matrix command retires in program order and sets its dependency slot. -/
  | matrixRetire (sq : BitVec 16)
  /-- COPY_START (R263): A posted copy starts when its level's rules allow and issues its reads and packets. -/
  | copyStart (die : BitVec 3) (id : Nat)
  /-- TOKEN_COMPLETE (R254): A copy's source reads are done and its token count falls. -/
  | tokenComplete (die : BitVec 3) (id : Nat)
  /-- COPY_PERFORMED (R210): A copy's writes are performed or it ends in error, advancing the timeline. -/
  | copyPerformed (die : BitVec 3) (id : Nat)
  /-- TS_OP_COMPLETE (R273): A tensor-store in-memory operation ends. -/
  | tsOpComplete (die : BitVec 3) (id : Nat)
  /-- MESSAGE_DELIVERY (R227): A message payload is performed at the receiver and its counter incremented. -/
  | messageDelivery (id : Nat)
  /-- PR_COMMAND_EXECUTE (R283): A sum-tree command executes in an exchange phase. -/
  | prCommandExecute (die : BitVec 3) (tree : BitVec 2)
  /-- SG_COMMAND_EXECUTE (R300): A signature command executes in acceptance order. -/
  | sgCommandExecute (grp : BitVec 10)
  /-- QM_CONTRIBUTION_ARRIVAL (R315): A contribution reaches the home and is decided. -/
  | qmContributionArrival (grp : BitVec 10) (meeting : BitVec 4) (c : Contribution)
  /-- QM_RESULT_ARRIVAL (R317): A broadcast result reaches a member meeting. -/
  | qmResultArrival (grp : BitVec 10) (meeting : BitVec 4) (tag : BitVec 32) (vals : List (BitVec 32))
  /-- PACKET_WRITE (R243): A write packet arrives at its target. -/
  | packetWrite (p : Packet)
  /-- PACKET_READ_REQUEST (R243): A read request packet arrives at its target. -/
  | packetReadRequest (p : Packet)
  /-- PACKET_READ_DATA (R243): Read data arrives at the source. -/
  | packetReadData (p : Packet)
  /-- PACKET_ATOMIC (R243): An atomic packet arrives at its target. -/
  | packetAtomic (p : Packet)
  /-- PACKET_ATOMIC_RETURN (R243): An atomic return arrives at the source. -/
  | packetAtomicReturn (p : Packet)
  /-- PACKET_REDUCTION_CONTRIBUTION (R248): A reduction contribution arrives at a router or home. -/
  | packetReductionContribution (p : Packet)
  /-- PACKET_ACKNOWLEDGEMENT (R243): An acknowledgement arrives at the source. -/
  | packetAcknowledgement (p : Packet) (busy : Bool) (outcome : BitVec 3)
  /-- PACKET_CONTROL (R239): A control packet arrives. -/
  | packetControl (p : Packet)
  /-- ORDERED_FLAG_PERFORM (R242): A held ordered flag is performed once every lane count is met. -/
  | orderedFlagPerform (src : BitVec 16) (ctx : BitVec 16)
  /-- ACK_TIMEOUT (R243): A packet unacknowledged after AKTO is resent or ends with outcome 1 or 5. -/
  | ackTimeout (die : BitVec 3) (ctx : BitVec 12) (dst : BitVec 11) (oseq : BitVec 32)
  /-- WINDOW_DELIVERY (R248): A window round is delivered to home memory when all leaves are present or the pod barrier closes it. -/
  | windowDelivery (win : BitVec 4) (round : BitVec 16) (closed : Bool)
  /-- JOB_ANNOUNCE (R245): A job announcement of a space identifier arrives on VC3. -/
  | jobAnnounce (pkg : BitVec 11) (job : BitVec 32) (space : BitVec 16)
  /-- FLIT_CRC_ERROR (R237): A receiver drops a bad-CRC flit and the sender replays it. -/
  | flitCrcError (f : FailedFlit)
  /-- LINK_DOWN (R237): A link is declared down after silence or failed replays. -/
  | linkDown (port : BitVec 7)
  /-- KEEP_ALIVE (R246): An idle link sends a keep-alive beat with credit totals every 256 clk. -/
  | keepAlive (b : KeepAliveBeat)
  /-- CREDIT_RETURN (R246): A slot return with cumulative freed totals arrives at the sender. -/
  | creditReturn (port : BitVec 7) (vc : BitVec 2) (hop : BitVec 2) (total : BitVec 16)
  /-- KEY_ROTATION (R250): A rotation announcement switches a member to the new generation. -/
  | keyRotation (domain : BitVec 16) (gen : BitVec 8) (excluded : List (BitVec 11)) (secret : BitVec 384)
  /-- GENERATION_RETIRE (R250): The previous generation retires after acknowledgements and 2 FGAP. -/
  | generationRetire (domain : BitVec 16)
  /-- REVOKE_HALT (R328): On the revoked package the domain's launches halt with cause 0x16 and are scrubbed. -/
  | revokeHalt (domain : BitVec 16)
  /-- GET_VERSION (R324): SPDM request answered by the security controller. -/
  | getVersion (r : SpdmRequest)
  /-- GET_CAPABILITIES (R324): SPDM request answered by the security controller. -/
  | getCapabilities (r : SpdmRequest)
  /-- NEGOTIATE_ALGORITHMS (R324): SPDM request negotiating P-384, SHA-384 and AES-256-GCM. -/
  | negotiateAlgorithms (r : SpdmRequest)
  /-- GET_DIGESTS (R324): SPDM request for certificate digests. -/
  | getDigests (r : SpdmRequest)
  /-- GET_CERTIFICATE (R324): SPDM request for the certificate chain. -/
  | getCertificate (r : SpdmRequest)
  /-- CHALLENGE (R324): SPDM challenge signed with the identity key. -/
  | challenge (r : SpdmRequest)
  /-- GET_MEASUREMENTS (R323): SPDM request for the signed measurement report. -/
  | getMeasurements (r : SpdmRequest)
  /-- KEY_EXCHANGE (R324): SPDM key exchange opening a session. -/
  | keyExchange (r : SpdmRequest)
  /-- FINISH (R324): SPDM FINISH completing a session. -/
  | finish (r : SpdmRequest)
  /-- KEY_UPDATE (R324): SPDM key update in a session. -/
  | keyUpdate (r : SpdmRequest)
  /-- END_SESSION (R324): SPDM request ending a session. -/
  | endSession (r : SpdmRequest)
  /-- UNSUPPORTED_REQUEST (R324): Any other SPDM request receives ERROR UnsupportedRequest. -/
  | unsupportedRequest (r : SpdmRequest)
  /-- TDI_ERROR (R362): A TDI error moves the function to ERROR and destroys its queues. -/
  | tdiError (fn : BitVec 4)
  /-- POWER_ON (R378): Power-on runs boot, measurement, training, zeroing and link bring-up in order. -/
  | powerOn (b : Boot)
  /-- EPOCH_TICK (R200): The package epoch advances every 1,024 clk. -/
  | epochTick
  /-- POWER_MEASURE (R376): Each 1 ms the power manager compares power to PLIMIT and adjusts matrix duty. -/
  | powerMeasure (milliwatts : BitVec 32)
  /-- JUNCTION_OVERTEMP (R377): A junction reaching 105 °C suspends every live launch. -/
  | junctionOvertemp
  /-- THERMAL_POWER_OFF (R377): A junction not below 95 °C within 100 ms powers the module off. -/
  | thermalPowerOff (belowLimit : Bool)
  /-- CORRECTED_ERROR (R374): A corrected error is counted and tracked toward a lasting location. -/
  | correctedError (die : BitVec 3) (loc : BitVec 64) (second : BitVec 32) (spare : Bool)
  /-- PATROL_READ (R373): The patrol scrubber reads and corrects a location. -/
  | patrolRead (unit : Nat)
  /-- WFE_TIMEOUT (R340): A WFE completes after (imm10 + 1) x 64 clk. -/
  | wfeTimeout (sq : BitVec 16)
  /-- ILLEGAL_INSTRUCTION (R119): Executing a reserved word, including the all-zero and all-ones words, raises cause 0x01 precisely with BADINST set and no other effect. -/
  | illegalInstruction (w : BitVec 32)
  /-- QM_COMMAND_EXECUTE (R314): A queued QMJOIN or QMREC executes at the meeting engine, reading its input or record and delivering, writing or forcing as its rule states. -/
  | qmCommandExecute (grp : BitVec 10) (meeting : BitVec 4)
  /-- TDISP_LOCK (R362): A TDISP LOCK of a virtual function freezes its queues, space mappings and job declarations. -/
  | tdispLock (fn : BitVec 4)
  /-- TDISP_RUN (R362): A TDISP start moves a locked TDI to RUN, limiting its DMA to its own queues and spaces. -/
  | tdispRun (fn : BitVec 4)
  /-- IDE_KM (R362): An IDE_KM message inside an SPDM session sets the keys of a link or selective IDE stream. -/
  | ideKm (stream : BitVec 4) (session : BitVec 32) (key : BitVec 256)
  /-- ADMIN_UNKNOWN_OP (R369): An admin entry with an unassigned OP completes with status 3 and has no effect. -/
  | adminUnknownOp (e : BitVec 512)  deriving DecidableEq, Repr

end Sys2Proof
end

