-- ==== Sys2Proof/WellFormed.lean ====
section
/-! DEFINITION. Which instructions are well formed: the limits that a field's width does not already say (11 R109, R113-R118).
An instruction that is not well formed has a reserved encoding (11 R119). Events have no encoding and are always well formed. -/

namespace Sys2Proof

/-- The numbers that Register and Cause Index lists (44; 11 R118). -/
def listedCsrs : List Nat :=
  [0x000, 0x001, 0x002, 0x003, 0x004, 0x005, 0x006, 0x007, 0x008, 0x010, 0x011, 0x012, 0x013, 0x014, 0x015, 0x020, 0x021,
   0x030, 0x031, 0x032, 0x040, 0x041, 0x050, 0x051, 0x052, 0x053, 0x054, 0x055, 0x060, 0x061, 0x062, 0x070, 0x071, 0x072,
   0x073, 0x080, 0x081] ++
  [0x090, 0x091, 0x092, 0x093, 0x094, 0x095, 0x096, 0x098, 0x099, 0x09A, 0x09B, 0x09C, 0x09D, 0x09E,
   0x0B0, 0x0B1, 0x0B2, 0x0B3, 0x0B4, 0x0B5, 0x0B6, 0x0B7, 0x0C0] ++
  [0x100, 0x101, 0x102, 0x103, 0x104, 0x105, 0x106, 0x107, 0x108, 0x109, 0x10A, 0x10B, 0x10C, 0x10D, 0x10E, 0x10F,
   0x200, 0x201, 0x210, 0x211, 0x220, 0x221, 0x222, 0x223]

/-- A CSR number is listed (11 R118). -/
def csrListed (c : BitVec 10) : Bool := listedCsrs.contains c.toNat

/-- Scopes 0-4; 5-7 are reserved (11 R114). POD is a valid encoding. -/
def scopeOk (s : BitVec 3) : Bool := decide (s.toNat ≤ 4)

/-- pos + len does not pass 64 (11 R113). -/
def spanOk (l p : BitVec 6) : Bool := decide (l.toNat + 1 + p.toNat ≤ 64)

/-- A unit of MCLM or MREL: s0-s7 or acc0-acc3 (17 R172). -/
def unitOk (u : BitVec 5) : Bool := decide (u.toNat ≤ 11)

/-- A set slot is named only when set is enabled, and not one that the wait mask also names (11 R117, 17 R170). -/
def setOk (w : BitVec 8) (e : BitVec 1) (z : BitVec 3) : Bool :=
  if e = 0#1 then decide (z = 0#3) else !w.getLsbD z.toNat

/-- A copy engine of the die, 0-5 (11 R117). -/
def engineOk (e : BitVec 4) : Bool := decide (e.toNat ≤ 5)

/-- The instruction has an encoding that is not reserved. -/
def Instr.wellFormed : Instr → Bool
  | .add _ _ _ => true
  | .sub _ _ _ => true
  | .and _ _ _ => true
  | .or _ _ _ => true
  | .xor _ _ _ => true
  | .andn _ _ _ => true
  | .orn _ _ _ => true
  | .xnor _ _ _ => true
  | .sll _ _ _ => true
  | .srl _ _ _ => true
  | .sra _ _ _ => true
  | .rol _ _ _ => true
  | .ror _ _ _ => true
  | .min _ _ _ => true
  | .max _ _ _ => true
  | .minn _ _ _ => true
  | .maxn _ _ _ => true
  | .slt _ _ _ => true
  | .sltn _ _ _ => true
  | .seq _ _ _ => true
  | .sne _ _ _ => true
  | .mul _ _ _ => true
  | .mulh _ _ _ => true
  | .mulhn _ _ _ => true
  | .div _ _ _ => true
  | .divn _ _ _ => true
  | .rem _ _ _ => true
  | .remn _ _ _ => true
  | .clz _ _ => true
  | .ctz _ _ => true
  | .popc _ _ => true
  | .brev _ _ => true
  | .bswap _ _ => true
  | .addw _ _ _ => true
  | .subw _ _ _ => true
  | .mulw _ _ _ => true
  | .sllw _ _ _ => true
  | .srlw _ _ _ => true
  | .sraw _ _ _ => true
  | .addi _ _ _ => true
  | .andi _ _ _ => true
  | .ori _ _ _ => true
  | .xori _ _ _ => true
  | .slti _ _ _ => true
  | .sltin _ _ _ => true
  | .slli _ _ _ => true
  | .srli _ _ _ => true
  | .srai _ _ _ => true
  | .rori _ _ _ => true
  | .slliW _ _ _ => true
  | .srliW _ _ _ => true
  | .sraiW _ _ _ => true
  | .roriW _ _ _ => true
  | .lih _ _ => true
  | .adpc _ _ => true
  | .exts _ _ l p => spanOk l p
  | .extz _ _ l p => spanOk l p
  | .dep _ _ l p => spanOk l p
  | .depz _ _ l p => spanOk l p
  | .lis _ _ => true
  | .ldb _ _ _ => true
  | .ldh _ _ _ => true
  | .ldw _ _ _ => true
  | .ldbz _ _ _ => true
  | .ldhz _ _ _ => true
  | .ldwz _ _ _ => true
  | .ldd _ _ _ => true
  | .stb _ _ _ => true
  | .sth _ _ _ => true
  | .stw _ _ _ => true
  | .std _ _ _ => true
  | .ldsg _ _ o s _ => decide (o ≠ 2#2) && scopeOk s
  | .stsg _ _ o s _ => decide (o ≠ 2#2) && scopeOk s
  | .amoadd _ _ _ _ s _ => scopeOk s
  | .amoand _ _ _ _ s _ => scopeOk s
  | .amoor _ _ _ _ s _ => scopeOk s
  | .amoxor _ _ _ _ s _ => scopeOk s
  | .amosmin _ _ _ _ s _ => scopeOk s
  | .amosmax _ _ _ _ s _ => scopeOk s
  | .amonmin _ _ _ _ s _ => scopeOk s
  | .amonmax _ _ _ _ s _ => scopeOk s
  | .amoswap _ _ _ _ s _ => scopeOk s
  | .amocas _ _ _ _ s _ => scopeOk s
  | .amofadd _ _ _ _ s _ => scopeOk s
  | .fence s => scopeOk s
  | .fencea s => scopeOk s
  | .fencer s => scopeOk s
  | .tfence s => scopeOk s
  | .msgs _ _ _ => true
  | .waitc _ _ => true
  | .ctradd _ _ => true
  | .ctrrd _ _ => true
  | .tkget _ _ => true
  | .tkwait _ _ => true
  | .tknext _ => true
  | .chwf _ _ => true
  | .chwe _ _ => true
  | .chap _ _ => true
  | .chac _ _ => true
  | .chrd _ _ => true
  | .chset _ _ _ => true
  | .bara _ _ _ => true
  | .barw _ => true
  | .spawn _ _ _ r => decide (r ≠ 3#2)
  | .susp => true
  | .yield => true
  | .done => true
  | .exend _ => true
  | .xwt _ => true
  | .beq _ _ _ => true
  | .bne _ _ _ => true
  | .blt _ _ _ => true
  | .bge _ _ _ => true
  | .bltn _ _ _ => true
  | .bgen _ _ _ => true
  | .beqz _ _ => true
  | .bnez _ _ => true
  | .bltz _ _ => true
  | .bgez _ _ => true
  | .bgtz _ _ => true
  | .blez _ _ => true
  | .j _ => true
  | .call _ => true
  | .jr _ => true
  | .callr _ => true
  | .ret => true
  | .jlr _ _ => true
  | .vaddF _ _ _ _ => true
  | .vsubF _ _ _ _ => true
  | .vmulF _ _ _ _ => true
  | .vdivF _ _ _ _ => true
  | .vsqrtF _ _ _ => true
  | .vfmaF _ _ _ _ => true
  | .vfmsF _ _ _ _ => true
  | .vminF _ _ _ _ => true
  | .vmaxF _ _ _ _ => true
  | .vabsF _ _ _ => true
  | .vnegF _ _ _ => true
  | .vaddI _ _ _ _ => true
  | .vsubI _ _ _ _ => true
  | .vmulI _ _ _ _ => true
  | .vmulhI _ _ _ _ => true
  | .vmulhN _ _ _ _ => true
  | .vminI _ _ _ _ => true
  | .vmaxI _ _ _ _ => true
  | .vminN _ _ _ _ => true
  | .vmaxN _ _ _ _ => true
  | .vand _ _ _ _ => true
  | .vor _ _ _ _ => true
  | .vxor _ _ _ _ => true
  | .vsll _ _ _ _ => true
  | .vsrl _ _ _ _ => true
  | .vsra _ _ _ _ => true
  | .vsel _ _ _ _ => true
  | .vmov _ _ _ => true
  | .vceqF d _ _ _ => decide (d ≠ 0#3)
  | .vcltF d _ _ _ => decide (d ≠ 0#3)
  | .vcleF d _ _ _ => decide (d ≠ 0#3)
  | .vcunF d _ _ _ => decide (d ≠ 0#3)
  | .vceqI d _ _ _ => decide (d ≠ 0#3)
  | .vcltI d _ _ _ => decide (d ≠ 0#3)
  | .vcltN d _ _ _ => decide (d ≠ 0#3)
  | .vclassF _ _ _ => true
  | .vaddsF _ _ _ _ => true
  | .vsubsF _ _ _ _ => true
  | .vmulsF _ _ _ _ => true
  | .vfmasF _ _ _ _ => true
  | .vminsF _ _ _ _ => true
  | .vmaxsF _ _ _ _ => true
  | .vaddsI _ _ _ _ => true
  | .vmulsI _ _ _ _ => true
  | .vslls _ _ _ _ => true
  | .vsrls _ _ _ _ => true
  | .vsras _ _ _ _ => true
  | .vceqsI d _ _ _ => decide (d ≠ 0#3)
  | .vcltsI d _ _ _ => decide (d ≠ 0#3)
  | .vsplat _ _ _ => true
  | .vinsl _ _ _ => true
  | .vextl _ _ _ => true
  | .vld _ _ _ => true
  | .vlds _ _ _ _ => true
  | .vldg _ _ _ _ => true
  | .vldb _ _ _ => true
  | .vst _ _ _ => true
  | .vsts _ _ _ _ => true
  | .vstsc _ _ _ _ => true
  | .vraddF _ _ _ => true
  | .vraddI _ _ _ => true
  | .vrminF _ _ _ => true
  | .vrmaxF _ _ _ => true
  | .vrminI _ _ _ => true
  | .vrmaxI _ _ _ => true
  | .vrminN _ _ _ => true
  | .vrmaxN _ _ _ => true
  | .vrand _ _ _ => true
  | .vrior _ _ _ => true
  | .vrxor _ _ _ => true
  | .vscanF _ _ _ => true
  | .vperm _ _ _ _ => true
  | .vsldu _ _ _ _ => true
  | .vsldd _ _ _ _ => true
  | .vrev _ _ _ => true
  | .vzip _ _ _ _ => true
  | .vuzp _ _ _ _ => true
  | .vbcast _ _ _ _ => true
  | .vcomp _ _ _ => true
  | .vmand d _ _ => decide (d ≠ 0#3)
  | .vmor d _ _ => decide (d ≠ 0#3)
  | .vmxor d _ _ => decide (d ≠ 0#3)
  | .vmnot d _ => decide (d ≠ 0#3)
  | .vmpopc _ _ => true
  | .vmffs _ _ => true
  | .vmfromx d _ => decide (d ≠ 0#3)
  | .vmtox _ _ => true
  | .vsetvl _ _ => true
  | .vcvtfi _ _ _ => true
  | .vcvtfn _ _ _ => true
  | .vcvtif _ _ _ => true
  | .vcvtnf _ _ _ => true
  | .venc _ _ b _ => decide (b ≠ 0#3)
  | .vdec _ _ b _ => decide (b ≠ 0#3)
  | .rgkey _ => true
  | .rgctr _ _ => true
  | .rggen _ _ => true
  | .rgskip _ _ => true
  | .rgst _ => true
  | .rgld _ => true
  | .mclm u => unitOk u
  | .mrel w e z u => setOk w e z && unitOk u
  | .mfil w e z _ _ => setOk w e z
  | .mfts w e z _ _ => setOk w e z
  | .mma w e z _ _ _ => setOk w e z
  | .mmat w e z _ _ _ => setOk w e z
  | .mopr w e z _ _ _ => setOk w e z
  | .mza w e z _ => setOk w e z
  | .mdrn w e z _ _ => setOk w e z
  | .msetWrite _ _ => true
  | .msetRead _ _ => true
  | .msetReadClear _ _ => true
  | .mwait _ => true
  | .xcp e _ _ => engineOk e
  | .xadv e _ _ => engineOk e
  | .xtlw _ _ => true
  | .xtlwTk b => decide (b ≠ 0#5)
  | .xfen _ _ => true
  | .pbinv e _ => engineOk e
  | .xmc e _ _ => engineOk e
  | .xred e _ _ => engineOk e
  | .xat e _ _ => engineOk e
  | .tsz e _ _ => engineOk e
  | .tsc e _ _ _ => engineOk e
  | .tscmp e _ _ _ => engineOk e
  | .tsf => true
  | .thb _ _ => true
  | .thu _ => true
  | .prcfg _ _ => true
  | .prput _ _ _ _ => true
  | .prupd _ _ _ _ => true
  | .prdraw _ _ _ _ => true
  | .prwt _ _ _ _ => true
  | .prsum _ _ _ => true
  | .prclr _ => true
  | .sgcfg _ => true
  | .sgcfgRelease _ => true
  | .sginc _ _ _ => true
  | .sgjoin _ _ _ => true
  | .sglog _ _ => true
  | .sgrd _ _ => true
  | .sgclr _ => true
  | .qmopen _ _ => true
  | .qmjoin _ _ _ _ => true
  | .qmwait _ _ => true
  | .qmrecRead _ _ _ _ => true
  | .qmrecForce _ _ _ _ => true
  | .qmexcl _ _ => true
  | .qmclose _ => true
  | .csrr _ c => csrListed c
  | .csrw _ _ c => csrListed c
  | .csrs _ _ c => csrListed c
  | .csrc _ _ c => csrListed c
  | .trap _ => true
  | .rfe => true
  | .brk _ => true
  | .pbinva => true
  | .wfe _ => true
  | .diag _ _ => true
  | .statWrite _ _ _ => true
  | .abortWrite _ _ _ => true
  | .abcontWrite _ _ _ => true
  | .lensWrite _ _ _ _ => true
  | .frmWrite _ _ _ => true
  | .fflagsAccess _ _ _ => true
  | .vlWrite _ _ _ => true
  | .lwgtWrite _ _ _ => true
  | .wspillWrite _ _ _ => true
  | .wdepthWrite _ _ _ => true
  | .xtlWrite _ _ _ _ => true
  | .pwsizeWrite _ _ _ => true
  | .detstatWrite _ _ _ => true
  | .stageWrite _ _ _ => true
  | .launchDoorbell _ _ => true
  | .adminDoorbell _ => true
  | .swpintWrite _ => true
  | .plwaitWrite _ => true
  | .fgapWrite _ => true
  | .fstatClear _ => true
  | .prQlimWrite _ _ => true
  | .sgQlimWrite _ _ => true
  | .ceConfigWrite _ _ => true
  | .reliabilityStickyClear _ _ => true
  | .plimitWrite _ => true
  | .deviceRegisterWrite _ _ _ => true
  | .launchCommand _ _ => true
  | .placement _ => true
  | .plwaitExpiry _ => true
  | .createQueue _ => true
  | .destroyQueue _ => true
  | .mapSpace _ => true
  | .unmapSpace _ => true
  | .invalidate _ => true
  | .jobDeclare _ _ => true
  | .suspend _ => true
  | .resume _ => true
  | .drain _ => true
  | .drainComplete _ _ => true
  | .testRepair _ => true
  | .testRepairComplete _ _ _ _ => true
  | .resumePart _ => true
  | .attest _ => true
  | .formEnclave _ _ _ _ => true
  | .revoke _ => true
  | .window _ _ => true
  | .unwindow _ => true
  | .periscope _ => true
  | .pick _ => true
  | .recordReady _ _ => true
  | .waitHoldExpiry _ => true
  | .holdRelease _ => true
  | .spillWriteOut _ => true
  | .recordWriteBack _ => true
  | .barrierArrival _ _ _ _ _ => true
  | .barrierComplete _ _ _ => true
  | .computePhaseBegin _ _ _ => true
  | .sweep _ _ => true
  | .preemptStop _ => true
  | .asyncTrapEntry _ => true
  | .stationFault _ => true
  | .vectorBind _ => true
  | .matrixDispatch _ => true
  | .matrixRetire _ => true
  | .copyStart _ _ => true
  | .tokenComplete _ _ => true
  | .copyPerformed _ _ => true
  | .tsOpComplete _ _ => true
  | .messageDelivery _ => true
  | .prCommandExecute _ _ => true
  | .sgCommandExecute _ => true
  | .qmContributionArrival _ _ _ => true
  | .qmResultArrival _ _ _ _ => true
  | .packetWrite _ => true
  | .packetReadRequest _ => true
  | .packetReadData _ => true
  | .packetAtomic _ => true
  | .packetAtomicReturn _ => true
  | .packetReductionContribution _ => true
  | .packetAcknowledgement _ _ _ => true
  | .packetControl _ => true
  | .orderedFlagPerform _ _ => true
  | .ackTimeout _ _ _ _ => true
  | .windowDelivery _ _ _ => true
  | .jobAnnounce _ _ _ => true
  | .flitCrcError _ => true
  | .linkDown _ => true
  | .keepAlive _ => true
  | .creditReturn _ _ _ _ => true
  | .keyRotation _ _ _ _ => true
  | .generationRetire _ => true
  | .revokeHalt _ => true
  | .getVersion _ => true
  | .getCapabilities _ => true
  | .negotiateAlgorithms _ => true
  | .getDigests _ => true
  | .getCertificate _ => true
  | .challenge _ => true
  | .getMeasurements _ => true
  | .keyExchange _ => true
  | .finish _ => true
  | .keyUpdate _ => true
  | .endSession _ => true
  | .unsupportedRequest _ => true
  | .tdiError _ => true
  | .powerOn _ => true
  | .epochTick => true
  | .powerMeasure _ => true
  | .junctionOvertemp => true
  | .thermalPowerOff _ => true
  | .correctedError _ _ _ _ => true
  | .patrolRead _ => true
  | .wfeTimeout _ => true
  | .illegalInstruction _ => true
  | .qmCommandExecute _ _ => true
  | .tdispLock _ => true
  | .tdispRun _ => true
  | .ideKm _ _ _ => true
  | .adminUnknownOp _ => true

end Sys2Proof
end

