-- ==== Sys2Proof/Decode.lean ====
section
/-! DEFINITION. The decoder, total on any 32-bit word, and the encoder after it (11 R106-R121). Words that several rows of the
table share (MSET, SGCFG, QMREC) decode to the first of them: a register operand tells the rows apart when the word executes. -/

namespace Sys2Proof

/-- Why a word is reserved (11 R119). -/
inductive Reject where
  /-- The major opcode is reserved. -/
  | reservedOpcode
  /-- A function, cmd, kind or op value is reserved. -/
  | reservedFunction
  /-- A field that must be 0, or a fixed bit, has another value. -/
  | fixedField
  /-- A register or unit number or another field value is reserved. -/
  | reservedValue
  deriving DecidableEq, Repr

/-- The bits of `mask` must be those of `val` (fields that R112-R118 and the encoding tables fix). -/
def fixed (w mask val : BitVec 32) (i : Instr) : Except Reject Instr :=
  if w &&& mask = val then .ok i else .error .fixedField

/-- Opcode 0x01, selected by bits [10:0] (R111-R118). -/
def decodeAlu (w : BitVec 32) : Except Reject Instr :=
  match (w.extractLsb' 0 11).toNat with
  | 0 => .ok (.add (w.extractLsb' 21 5) (w.extractLsb' 16 5) (w.extractLsb' 11 5))
  | 1 => .ok (.sub (w.extractLsb' 21 5) (w.extractLsb' 16 5) (w.extractLsb' 11 5))
  | 2 => .ok (.and (w.extractLsb' 21 5) (w.extractLsb' 16 5) (w.extractLsb' 11 5))
  | 3 => .ok (.or (w.extractLsb' 21 5) (w.extractLsb' 16 5) (w.extractLsb' 11 5))
  | 4 => .ok (.xor (w.extractLsb' 21 5) (w.extractLsb' 16 5) (w.extractLsb' 11 5))
  | 5 => .ok (.andn (w.extractLsb' 21 5) (w.extractLsb' 16 5) (w.extractLsb' 11 5))
  | 6 => .ok (.orn (w.extractLsb' 21 5) (w.extractLsb' 16 5) (w.extractLsb' 11 5))
  | 7 => .ok (.xnor (w.extractLsb' 21 5) (w.extractLsb' 16 5) (w.extractLsb' 11 5))
  | 8 => .ok (.sll (w.extractLsb' 21 5) (w.extractLsb' 16 5) (w.extractLsb' 11 5))
  | 9 => .ok (.srl (w.extractLsb' 21 5) (w.extractLsb' 16 5) (w.extractLsb' 11 5))
  | 10 => .ok (.sra (w.extractLsb' 21 5) (w.extractLsb' 16 5) (w.extractLsb' 11 5))
  | 11 => .ok (.rol (w.extractLsb' 21 5) (w.extractLsb' 16 5) (w.extractLsb' 11 5))
  | 12 => .ok (.ror (w.extractLsb' 21 5) (w.extractLsb' 16 5) (w.extractLsb' 11 5))
  | 13 => .ok (.min (w.extractLsb' 21 5) (w.extractLsb' 16 5) (w.extractLsb' 11 5))
  | 14 => .ok (.max (w.extractLsb' 21 5) (w.extractLsb' 16 5) (w.extractLsb' 11 5))
  | 15 => .ok (.minn (w.extractLsb' 21 5) (w.extractLsb' 16 5) (w.extractLsb' 11 5))
  | 16 => .ok (.maxn (w.extractLsb' 21 5) (w.extractLsb' 16 5) (w.extractLsb' 11 5))
  | 17 => .ok (.slt (w.extractLsb' 21 5) (w.extractLsb' 16 5) (w.extractLsb' 11 5))
  | 18 => .ok (.sltn (w.extractLsb' 21 5) (w.extractLsb' 16 5) (w.extractLsb' 11 5))
  | 19 => .ok (.seq (w.extractLsb' 21 5) (w.extractLsb' 16 5) (w.extractLsb' 11 5))
  | 20 => .ok (.sne (w.extractLsb' 21 5) (w.extractLsb' 16 5) (w.extractLsb' 11 5))
  | 21 => .ok (.mul (w.extractLsb' 21 5) (w.extractLsb' 16 5) (w.extractLsb' 11 5))
  | 22 => .ok (.mulh (w.extractLsb' 21 5) (w.extractLsb' 16 5) (w.extractLsb' 11 5))
  | 23 => .ok (.mulhn (w.extractLsb' 21 5) (w.extractLsb' 16 5) (w.extractLsb' 11 5))
  | 24 => .ok (.div (w.extractLsb' 21 5) (w.extractLsb' 16 5) (w.extractLsb' 11 5))
  | 25 => .ok (.divn (w.extractLsb' 21 5) (w.extractLsb' 16 5) (w.extractLsb' 11 5))
  | 26 => .ok (.rem (w.extractLsb' 21 5) (w.extractLsb' 16 5) (w.extractLsb' 11 5))
  | 27 => .ok (.remn (w.extractLsb' 21 5) (w.extractLsb' 16 5) (w.extractLsb' 11 5))
  | 28 => fixed w 0x0000F800#32 0x00000000#32 (.clz (w.extractLsb' 21 5) (w.extractLsb' 16 5))
  | 29 => fixed w 0x0000F800#32 0x00000000#32 (.ctz (w.extractLsb' 21 5) (w.extractLsb' 16 5))
  | 30 => fixed w 0x0000F800#32 0x00000000#32 (.popc (w.extractLsb' 21 5) (w.extractLsb' 16 5))
  | 31 => fixed w 0x0000F800#32 0x00000000#32 (.brev (w.extractLsb' 21 5) (w.extractLsb' 16 5))
  | 32 => fixed w 0x0000F800#32 0x00000000#32 (.bswap (w.extractLsb' 21 5) (w.extractLsb' 16 5))
  | 33 => .ok (.addw (w.extractLsb' 21 5) (w.extractLsb' 16 5) (w.extractLsb' 11 5))
  | 34 => .ok (.subw (w.extractLsb' 21 5) (w.extractLsb' 16 5) (w.extractLsb' 11 5))
  | 35 => .ok (.mulw (w.extractLsb' 21 5) (w.extractLsb' 16 5) (w.extractLsb' 11 5))
  | 36 => .ok (.sllw (w.extractLsb' 21 5) (w.extractLsb' 16 5) (w.extractLsb' 11 5))
  | 37 => .ok (.srlw (w.extractLsb' 21 5) (w.extractLsb' 16 5) (w.extractLsb' 11 5))
  | 38 => .ok (.sraw (w.extractLsb' 21 5) (w.extractLsb' 16 5) (w.extractLsb' 11 5))
  | _ => .error .reservedFunction

/-- Opcode 0x08, selected by bits [15:12] (R111-R118). -/
def decodeShi (w : BitVec 32) : Except Reject Instr :=
  match (w.extractLsb' 12 4).toNat with
  | 0 => fixed w 0x00000FC0#32 0x00000000#32 (.slli (w.extractLsb' 21 5) (w.extractLsb' 16 5) (w.extractLsb' 0 6))
  | 4 => fixed w 0x00000FC0#32 0x00000000#32 (.srli (w.extractLsb' 21 5) (w.extractLsb' 16 5) (w.extractLsb' 0 6))
  | 8 => fixed w 0x00000FC0#32 0x00000000#32 (.srai (w.extractLsb' 21 5) (w.extractLsb' 16 5) (w.extractLsb' 0 6))
  | 12 => fixed w 0x00000FC0#32 0x00000000#32 (.rori (w.extractLsb' 21 5) (w.extractLsb' 16 5) (w.extractLsb' 0 6))
  | 1 => fixed w 0x00000FE0#32 0x00000000#32 (.slliW (w.extractLsb' 21 5) (w.extractLsb' 16 5) (w.extractLsb' 0 5))
  | 5 => fixed w 0x00000FE0#32 0x00000000#32 (.srliW (w.extractLsb' 21 5) (w.extractLsb' 16 5) (w.extractLsb' 0 5))
  | 9 => fixed w 0x00000FE0#32 0x00000000#32 (.sraiW (w.extractLsb' 21 5) (w.extractLsb' 16 5) (w.extractLsb' 0 5))
  | 13 => fixed w 0x00000FE0#32 0x00000000#32 (.roriW (w.extractLsb' 21 5) (w.extractLsb' 16 5) (w.extractLsb' 0 5))
  | _ => .error .reservedFunction

/-- Opcode 0x0B, selected by bits [15:14] (R111-R118). -/
def decodeBfx (w : BitVec 32) : Except Reject Instr :=
  match (w.extractLsb' 14 2).toNat with
  | 0 => fixed w 0x000000C0#32 0x00000000#32 (.exts (w.extractLsb' 21 5) (w.extractLsb' 16 5) (w.extractLsb' 8 6) (w.extractLsb' 0 6))
  | 1 => fixed w 0x000000C0#32 0x00000000#32 (.extz (w.extractLsb' 21 5) (w.extractLsb' 16 5) (w.extractLsb' 8 6) (w.extractLsb' 0 6))
  | 2 => fixed w 0x000000C0#32 0x00000000#32 (.dep (w.extractLsb' 21 5) (w.extractLsb' 16 5) (w.extractLsb' 8 6) (w.extractLsb' 0 6))
  | 3 => fixed w 0x000000C0#32 0x00000000#32 (.depz (w.extractLsb' 21 5) (w.extractLsb' 16 5) (w.extractLsb' 8 6) (w.extractLsb' 0 6))
  | _ => .error .reservedFunction

/-- Opcode 0x10, selected by bits [15:14] (R111-R118). -/
def decodeLds (w : BitVec 32) : Except Reject Instr :=
  match (w.extractLsb' 14 2).toNat with
  | 0 => .ok (.ldb (w.extractLsb' 21 5) (w.extractLsb' 16 5) (w.extractLsb' 0 14))
  | 1 => .ok (.ldh (w.extractLsb' 21 5) (w.extractLsb' 16 5) (w.extractLsb' 0 14))
  | 2 => .ok (.ldw (w.extractLsb' 21 5) (w.extractLsb' 16 5) (w.extractLsb' 0 14))
  | _ => .error .reservedFunction

/-- Opcode 0x11, selected by bits [15:14] (R111-R118). -/
def decodeLdz (w : BitVec 32) : Except Reject Instr :=
  match (w.extractLsb' 14 2).toNat with
  | 0 => .ok (.ldbz (w.extractLsb' 21 5) (w.extractLsb' 16 5) (w.extractLsb' 0 14))
  | 1 => .ok (.ldhz (w.extractLsb' 21 5) (w.extractLsb' 16 5) (w.extractLsb' 0 14))
  | 2 => .ok (.ldwz (w.extractLsb' 21 5) (w.extractLsb' 16 5) (w.extractLsb' 0 14))
  | 3 => .ok (.ldd (w.extractLsb' 21 5) (w.extractLsb' 16 5) (w.extractLsb' 0 14))
  | _ => .error .reservedFunction

/-- Opcode 0x12, selected by bits [15:14] (R111-R118). -/
def decodeSt (w : BitVec 32) : Except Reject Instr :=
  match (w.extractLsb' 14 2).toNat with
  | 0 => .ok (.stb (w.extractLsb' 21 5) (w.extractLsb' 16 5) (w.extractLsb' 0 14))
  | 1 => .ok (.sth (w.extractLsb' 21 5) (w.extractLsb' 16 5) (w.extractLsb' 0 14))
  | 2 => .ok (.stw (w.extractLsb' 21 5) (w.extractLsb' 16 5) (w.extractLsb' 0 14))
  | 3 => .ok (.std (w.extractLsb' 21 5) (w.extractLsb' 16 5) (w.extractLsb' 0 14))
  | _ => .error .reservedFunction

/-- Opcode 0x15, selected by bits [10:6] (R111-R118). -/
def decodeAmo (w : BitVec 32) : Except Reject Instr :=
  match (w.extractLsb' 6 5).toNat with
  | 0 => .ok (.amoadd (w.extractLsb' 21 5) (w.extractLsb' 16 5) (w.extractLsb' 11 5) (w.extractLsb' 4 2) (w.extractLsb' 1 3) (w.extractLsb' 0 1))
  | 1 => .ok (.amoand (w.extractLsb' 21 5) (w.extractLsb' 16 5) (w.extractLsb' 11 5) (w.extractLsb' 4 2) (w.extractLsb' 1 3) (w.extractLsb' 0 1))
  | 2 => .ok (.amoor (w.extractLsb' 21 5) (w.extractLsb' 16 5) (w.extractLsb' 11 5) (w.extractLsb' 4 2) (w.extractLsb' 1 3) (w.extractLsb' 0 1))
  | 3 => .ok (.amoxor (w.extractLsb' 21 5) (w.extractLsb' 16 5) (w.extractLsb' 11 5) (w.extractLsb' 4 2) (w.extractLsb' 1 3) (w.extractLsb' 0 1))
  | 4 => .ok (.amosmin (w.extractLsb' 21 5) (w.extractLsb' 16 5) (w.extractLsb' 11 5) (w.extractLsb' 4 2) (w.extractLsb' 1 3) (w.extractLsb' 0 1))
  | 5 => .ok (.amosmax (w.extractLsb' 21 5) (w.extractLsb' 16 5) (w.extractLsb' 11 5) (w.extractLsb' 4 2) (w.extractLsb' 1 3) (w.extractLsb' 0 1))
  | 6 => .ok (.amonmin (w.extractLsb' 21 5) (w.extractLsb' 16 5) (w.extractLsb' 11 5) (w.extractLsb' 4 2) (w.extractLsb' 1 3) (w.extractLsb' 0 1))
  | 7 => .ok (.amonmax (w.extractLsb' 21 5) (w.extractLsb' 16 5) (w.extractLsb' 11 5) (w.extractLsb' 4 2) (w.extractLsb' 1 3) (w.extractLsb' 0 1))
  | 8 => .ok (.amoswap (w.extractLsb' 21 5) (w.extractLsb' 16 5) (w.extractLsb' 11 5) (w.extractLsb' 4 2) (w.extractLsb' 1 3) (w.extractLsb' 0 1))
  | 9 => .ok (.amocas (w.extractLsb' 21 5) (w.extractLsb' 16 5) (w.extractLsb' 11 5) (w.extractLsb' 4 2) (w.extractLsb' 1 3) (w.extractLsb' 0 1))
  | 10 => .ok (.amofadd (w.extractLsb' 21 5) (w.extractLsb' 16 5) (w.extractLsb' 11 5) (w.extractLsb' 4 2) (w.extractLsb' 1 3) (w.extractLsb' 0 1))
  | _ => .error .reservedFunction

/-- Opcode 0x16, selected by bits [10:8] (R111-R118). -/
def decodeFence (w : BitVec 32) : Except Reject Instr :=
  match (w.extractLsb' 8 3).toNat with
  | 0 => fixed w 0x03FFF81F#32 0x00000000#32 (.fence (w.extractLsb' 5 3))
  | 1 => fixed w 0x03FFF81F#32 0x00000000#32 (.fencea (w.extractLsb' 5 3))
  | 2 => fixed w 0x03FFF81F#32 0x00000000#32 (.fencer (w.extractLsb' 5 3))
  | 3 => fixed w 0x03FFF81F#32 0x00000000#32 (.tfence (w.extractLsb' 5 3))
  | _ => .error .reservedFunction

/-- Opcode 0x17, selected by bits [10:5] (R111-R118). -/
def decodeSync (w : BitVec 32) : Except Reject Instr :=
  match (w.extractLsb' 5 6).toNat with
  | 0 => fixed w 0x03E00010#32 0x00000000#32 (.msgs (w.extractLsb' 16 5) (w.extractLsb' 11 5) (w.extractLsb' 0 4))
  | 1 => fixed w 0x03E0F810#32 0x00000000#32 (.waitc (w.extractLsb' 16 5) (w.extractLsb' 0 4))
  | 2 => fixed w 0x03E0F810#32 0x00000000#32 (.ctradd (w.extractLsb' 16 5) (w.extractLsb' 0 4))
  | 3 => fixed w 0x001FF810#32 0x00000000#32 (.ctrrd (w.extractLsb' 21 5) (w.extractLsb' 0 4))
  | 4 => fixed w 0x0000F81F#32 0x00000000#32 (.tkget (w.extractLsb' 21 5) (w.extractLsb' 16 5))
  | 5 => fixed w 0x03E0001F#32 0x00000000#32 (.tkwait (w.extractLsb' 16 5) (w.extractLsb' 11 5))
  | 6 => fixed w 0x03E0F81F#32 0x00000000#32 (.tknext (w.extractLsb' 16 5))
  | 7 => fixed w 0x03E0F818#32 0x00000000#32 (.chwf (w.extractLsb' 16 5) (w.extractLsb' 0 3))
  | 8 => fixed w 0x03E0F818#32 0x00000000#32 (.chwe (w.extractLsb' 16 5) (w.extractLsb' 0 3))
  | 9 => fixed w 0x03E0F818#32 0x00000000#32 (.chap (w.extractLsb' 16 5) (w.extractLsb' 0 3))
  | 10 => fixed w 0x03E0F818#32 0x00000000#32 (.chac (w.extractLsb' 16 5) (w.extractLsb' 0 3))
  | 11 => fixed w 0x001FF818#32 0x00000000#32 (.chrd (w.extractLsb' 21 5) (w.extractLsb' 0 3))
  | 12 => fixed w 0x03E00018#32 0x00000000#32 (.chset (w.extractLsb' 16 5) (w.extractLsb' 11 5) (w.extractLsb' 0 3))
  | 13 => fixed w 0x03E0001C#32 0x00000000#32 (.bara (w.extractLsb' 16 5) (w.extractLsb' 11 5) (w.extractLsb' 0 2))
  | 14 => fixed w 0x03FFF81C#32 0x00000000#32 (.barw (w.extractLsb' 0 2))
  | 15 => fixed w 0x03E00018#32 0x00000000#32 (.spawn (w.extractLsb' 16 5) (w.extractLsb' 11 5) (w.extractLsb' 2 1) (w.extractLsb' 0 2))
  | 16 => fixed w 0x03FFF81F#32 0x00000000#32 (.susp)
  | 17 => fixed w 0x03FFF81F#32 0x00000000#32 (.yield)
  | 18 => fixed w 0x03FFF81F#32 0x00000000#32 (.done)
  | 19 => fixed w 0x03FFF81C#32 0x00000000#32 (.exend (w.extractLsb' 0 2))
  | 20 => fixed w 0x03FFF81C#32 0x00000000#32 (.xwt (w.extractLsb' 0 2))
  | _ => .error .reservedFunction

/-- Opcode 0x18, selected by bits [25:23] (R111-R118). -/
def decodeBcond (w : BitVec 32) : Except Reject Instr :=
  match (w.extractLsb' 23 3).toNat with
  | 0 => .ok (.beq (w.extractLsb' 18 5) (w.extractLsb' 13 5) (w.extractLsb' 0 13))
  | 1 => .ok (.bne (w.extractLsb' 18 5) (w.extractLsb' 13 5) (w.extractLsb' 0 13))
  | 2 => .ok (.blt (w.extractLsb' 18 5) (w.extractLsb' 13 5) (w.extractLsb' 0 13))
  | 3 => .ok (.bge (w.extractLsb' 18 5) (w.extractLsb' 13 5) (w.extractLsb' 0 13))
  | 4 => .ok (.bltn (w.extractLsb' 18 5) (w.extractLsb' 13 5) (w.extractLsb' 0 13))
  | 5 => .ok (.bgen (w.extractLsb' 18 5) (w.extractLsb' 13 5) (w.extractLsb' 0 13))
  | _ => .error .reservedFunction

/-- Opcode 0x19, selected by bits [25:23] (R111-R118). -/
def decodeBzero (w : BitVec 32) : Except Reject Instr :=
  match (w.extractLsb' 23 3).toNat with
  | 0 => fixed w 0x0003E000#32 0x00000000#32 (.beqz (w.extractLsb' 18 5) (w.extractLsb' 0 13))
  | 1 => fixed w 0x0003E000#32 0x00000000#32 (.bnez (w.extractLsb' 18 5) (w.extractLsb' 0 13))
  | 2 => fixed w 0x0003E000#32 0x00000000#32 (.bltz (w.extractLsb' 18 5) (w.extractLsb' 0 13))
  | 3 => fixed w 0x0003E000#32 0x00000000#32 (.bgez (w.extractLsb' 18 5) (w.extractLsb' 0 13))
  | 4 => fixed w 0x0003E000#32 0x00000000#32 (.bgtz (w.extractLsb' 18 5) (w.extractLsb' 0 13))
  | 5 => fixed w 0x0003E000#32 0x00000000#32 (.blez (w.extractLsb' 18 5) (w.extractLsb' 0 13))
  | _ => .error .reservedFunction

/-- Opcode 0x20, selected by bits [7:0] (R111-R118). -/
def decodeVop (w : BitVec 32) : Except Reject Instr :=
  match (w.extractLsb' 0 8).toNat with
  | 0 => .ok (.vaddF (w.extractLsb' 21 5) (w.extractLsb' 16 5) (w.extractLsb' 11 5) (w.extractLsb' 8 3))
  | 1 => .ok (.vsubF (w.extractLsb' 21 5) (w.extractLsb' 16 5) (w.extractLsb' 11 5) (w.extractLsb' 8 3))
  | 2 => .ok (.vmulF (w.extractLsb' 21 5) (w.extractLsb' 16 5) (w.extractLsb' 11 5) (w.extractLsb' 8 3))
  | 3 => .ok (.vdivF (w.extractLsb' 21 5) (w.extractLsb' 16 5) (w.extractLsb' 11 5) (w.extractLsb' 8 3))
  | 4 => fixed w 0x0000F800#32 0x00000000#32 (.vsqrtF (w.extractLsb' 21 5) (w.extractLsb' 16 5) (w.extractLsb' 8 3))
  | 5 => .ok (.vfmaF (w.extractLsb' 21 5) (w.extractLsb' 16 5) (w.extractLsb' 11 5) (w.extractLsb' 8 3))
  | 6 => .ok (.vfmsF (w.extractLsb' 21 5) (w.extractLsb' 16 5) (w.extractLsb' 11 5) (w.extractLsb' 8 3))
  | 7 => .ok (.vminF (w.extractLsb' 21 5) (w.extractLsb' 16 5) (w.extractLsb' 11 5) (w.extractLsb' 8 3))
  | 8 => .ok (.vmaxF (w.extractLsb' 21 5) (w.extractLsb' 16 5) (w.extractLsb' 11 5) (w.extractLsb' 8 3))
  | 9 => fixed w 0x0000F800#32 0x00000000#32 (.vabsF (w.extractLsb' 21 5) (w.extractLsb' 16 5) (w.extractLsb' 8 3))
  | 10 => fixed w 0x0000F800#32 0x00000000#32 (.vnegF (w.extractLsb' 21 5) (w.extractLsb' 16 5) (w.extractLsb' 8 3))
  | 11 => .ok (.vaddI (w.extractLsb' 21 5) (w.extractLsb' 16 5) (w.extractLsb' 11 5) (w.extractLsb' 8 3))
  | 12 => .ok (.vsubI (w.extractLsb' 21 5) (w.extractLsb' 16 5) (w.extractLsb' 11 5) (w.extractLsb' 8 3))
  | 13 => .ok (.vmulI (w.extractLsb' 21 5) (w.extractLsb' 16 5) (w.extractLsb' 11 5) (w.extractLsb' 8 3))
  | 14 => .ok (.vmulhI (w.extractLsb' 21 5) (w.extractLsb' 16 5) (w.extractLsb' 11 5) (w.extractLsb' 8 3))
  | 15 => .ok (.vmulhN (w.extractLsb' 21 5) (w.extractLsb' 16 5) (w.extractLsb' 11 5) (w.extractLsb' 8 3))
  | 16 => .ok (.vminI (w.extractLsb' 21 5) (w.extractLsb' 16 5) (w.extractLsb' 11 5) (w.extractLsb' 8 3))
  | 17 => .ok (.vmaxI (w.extractLsb' 21 5) (w.extractLsb' 16 5) (w.extractLsb' 11 5) (w.extractLsb' 8 3))
  | 18 => .ok (.vminN (w.extractLsb' 21 5) (w.extractLsb' 16 5) (w.extractLsb' 11 5) (w.extractLsb' 8 3))
  | 19 => .ok (.vmaxN (w.extractLsb' 21 5) (w.extractLsb' 16 5) (w.extractLsb' 11 5) (w.extractLsb' 8 3))
  | 20 => .ok (.vand (w.extractLsb' 21 5) (w.extractLsb' 16 5) (w.extractLsb' 11 5) (w.extractLsb' 8 3))
  | 21 => .ok (.vor (w.extractLsb' 21 5) (w.extractLsb' 16 5) (w.extractLsb' 11 5) (w.extractLsb' 8 3))
  | 22 => .ok (.vxor (w.extractLsb' 21 5) (w.extractLsb' 16 5) (w.extractLsb' 11 5) (w.extractLsb' 8 3))
  | 23 => .ok (.vsll (w.extractLsb' 21 5) (w.extractLsb' 16 5) (w.extractLsb' 11 5) (w.extractLsb' 8 3))
  | 24 => .ok (.vsrl (w.extractLsb' 21 5) (w.extractLsb' 16 5) (w.extractLsb' 11 5) (w.extractLsb' 8 3))
  | 25 => .ok (.vsra (w.extractLsb' 21 5) (w.extractLsb' 16 5) (w.extractLsb' 11 5) (w.extractLsb' 8 3))
  | 26 => .ok (.vsel (w.extractLsb' 21 5) (w.extractLsb' 16 5) (w.extractLsb' 11 5) (w.extractLsb' 8 3))
  | 27 => fixed w 0x0000F800#32 0x00000000#32 (.vmov (w.extractLsb' 21 5) (w.extractLsb' 16 5) (w.extractLsb' 8 3))
  | 28 => fixed w 0x03000000#32 0x00000000#32 (.vceqF (w.extractLsb' 21 3) (w.extractLsb' 16 5) (w.extractLsb' 11 5) (w.extractLsb' 8 3))
  | 29 => fixed w 0x03000000#32 0x00000000#32 (.vcltF (w.extractLsb' 21 3) (w.extractLsb' 16 5) (w.extractLsb' 11 5) (w.extractLsb' 8 3))
  | 30 => fixed w 0x03000000#32 0x00000000#32 (.vcleF (w.extractLsb' 21 3) (w.extractLsb' 16 5) (w.extractLsb' 11 5) (w.extractLsb' 8 3))
  | 31 => fixed w 0x03000000#32 0x00000000#32 (.vcunF (w.extractLsb' 21 3) (w.extractLsb' 16 5) (w.extractLsb' 11 5) (w.extractLsb' 8 3))
  | 32 => fixed w 0x03000000#32 0x00000000#32 (.vceqI (w.extractLsb' 21 3) (w.extractLsb' 16 5) (w.extractLsb' 11 5) (w.extractLsb' 8 3))
  | 33 => fixed w 0x03000000#32 0x00000000#32 (.vcltI (w.extractLsb' 21 3) (w.extractLsb' 16 5) (w.extractLsb' 11 5) (w.extractLsb' 8 3))
  | 34 => fixed w 0x03000000#32 0x00000000#32 (.vcltN (w.extractLsb' 21 3) (w.extractLsb' 16 5) (w.extractLsb' 11 5) (w.extractLsb' 8 3))
  | 35 => fixed w 0x0000F800#32 0x00000000#32 (.vclassF (w.extractLsb' 21 5) (w.extractLsb' 16 5) (w.extractLsb' 8 3))
  | _ => .error .reservedFunction

/-- Opcode 0x21, selected by bits [7:0] (R111-R118). -/
def decodeVops (w : BitVec 32) : Except Reject Instr :=
  match (w.extractLsb' 0 8).toNat with
  | 0 => .ok (.vaddsF (w.extractLsb' 21 5) (w.extractLsb' 16 5) (w.extractLsb' 11 5) (w.extractLsb' 8 3))
  | 1 => .ok (.vsubsF (w.extractLsb' 21 5) (w.extractLsb' 16 5) (w.extractLsb' 11 5) (w.extractLsb' 8 3))
  | 2 => .ok (.vmulsF (w.extractLsb' 21 5) (w.extractLsb' 16 5) (w.extractLsb' 11 5) (w.extractLsb' 8 3))
  | 3 => .ok (.vfmasF (w.extractLsb' 21 5) (w.extractLsb' 16 5) (w.extractLsb' 11 5) (w.extractLsb' 8 3))
  | 4 => .ok (.vminsF (w.extractLsb' 21 5) (w.extractLsb' 16 5) (w.extractLsb' 11 5) (w.extractLsb' 8 3))
  | 5 => .ok (.vmaxsF (w.extractLsb' 21 5) (w.extractLsb' 16 5) (w.extractLsb' 11 5) (w.extractLsb' 8 3))
  | 6 => .ok (.vaddsI (w.extractLsb' 21 5) (w.extractLsb' 16 5) (w.extractLsb' 11 5) (w.extractLsb' 8 3))
  | 7 => .ok (.vmulsI (w.extractLsb' 21 5) (w.extractLsb' 16 5) (w.extractLsb' 11 5) (w.extractLsb' 8 3))
  | 8 => .ok (.vslls (w.extractLsb' 21 5) (w.extractLsb' 16 5) (w.extractLsb' 11 5) (w.extractLsb' 8 3))
  | 9 => .ok (.vsrls (w.extractLsb' 21 5) (w.extractLsb' 16 5) (w.extractLsb' 11 5) (w.extractLsb' 8 3))
  | 10 => .ok (.vsras (w.extractLsb' 21 5) (w.extractLsb' 16 5) (w.extractLsb' 11 5) (w.extractLsb' 8 3))
  | 11 => fixed w 0x03000000#32 0x00000000#32 (.vceqsI (w.extractLsb' 21 3) (w.extractLsb' 16 5) (w.extractLsb' 11 5) (w.extractLsb' 8 3))
  | 12 => fixed w 0x03000000#32 0x00000000#32 (.vcltsI (w.extractLsb' 21 3) (w.extractLsb' 16 5) (w.extractLsb' 11 5) (w.extractLsb' 8 3))
  | 13 => fixed w 0x001F0000#32 0x00000000#32 (.vsplat (w.extractLsb' 21 5) (w.extractLsb' 11 5) (w.extractLsb' 8 3))
  | 14 => fixed w 0x00000700#32 0x00000000#32 (.vinsl (w.extractLsb' 21 5) (w.extractLsb' 16 5) (w.extractLsb' 11 5))
  | 15 => fixed w 0x00000700#32 0x00000000#32 (.vextl (w.extractLsb' 21 5) (w.extractLsb' 16 5) (w.extractLsb' 11 5))
  | _ => .error .reservedFunction

/-- Opcode 0x22, selected by bits [7:0] (R111-R118). -/
def decodeVld (w : BitVec 32) : Except Reject Instr :=
  match (w.extractLsb' 0 8).toNat with
  | 0 => fixed w 0x0000F800#32 0x00000000#32 (.vld (w.extractLsb' 21 5) (w.extractLsb' 16 5) (w.extractLsb' 8 3))
  | 1 => .ok (.vlds (w.extractLsb' 21 5) (w.extractLsb' 16 5) (w.extractLsb' 11 5) (w.extractLsb' 8 3))
  | 2 => .ok (.vldg (w.extractLsb' 21 5) (w.extractLsb' 16 5) (w.extractLsb' 11 5) (w.extractLsb' 8 3))
  | 3 => fixed w 0x0000F800#32 0x00000000#32 (.vldb (w.extractLsb' 21 5) (w.extractLsb' 16 5) (w.extractLsb' 8 3))
  | _ => .error .reservedFunction

/-- Opcode 0x23, selected by bits [7:0] (R111-R118). -/
def decodeVst (w : BitVec 32) : Except Reject Instr :=
  match (w.extractLsb' 0 8).toNat with
  | 0 => fixed w 0x0000F800#32 0x00000000#32 (.vst (w.extractLsb' 21 5) (w.extractLsb' 16 5) (w.extractLsb' 8 3))
  | 1 => .ok (.vsts (w.extractLsb' 21 5) (w.extractLsb' 16 5) (w.extractLsb' 11 5) (w.extractLsb' 8 3))
  | 2 => .ok (.vstsc (w.extractLsb' 21 5) (w.extractLsb' 16 5) (w.extractLsb' 11 5) (w.extractLsb' 8 3))
  | _ => .error .reservedFunction

/-- Opcode 0x24, selected by bits [7:0] (R111-R118). -/
def decodeVred (w : BitVec 32) : Except Reject Instr :=
  match (w.extractLsb' 0 8).toNat with
  | 0 => fixed w 0x0000F800#32 0x00000000#32 (.vraddF (w.extractLsb' 21 5) (w.extractLsb' 16 5) (w.extractLsb' 8 3))
  | 1 => fixed w 0x0000F800#32 0x00000000#32 (.vraddI (w.extractLsb' 21 5) (w.extractLsb' 16 5) (w.extractLsb' 8 3))
  | 2 => fixed w 0x0000F800#32 0x00000000#32 (.vrminF (w.extractLsb' 21 5) (w.extractLsb' 16 5) (w.extractLsb' 8 3))
  | 3 => fixed w 0x0000F800#32 0x00000000#32 (.vrmaxF (w.extractLsb' 21 5) (w.extractLsb' 16 5) (w.extractLsb' 8 3))
  | 4 => fixed w 0x0000F800#32 0x00000000#32 (.vrminI (w.extractLsb' 21 5) (w.extractLsb' 16 5) (w.extractLsb' 8 3))
  | 5 => fixed w 0x0000F800#32 0x00000000#32 (.vrmaxI (w.extractLsb' 21 5) (w.extractLsb' 16 5) (w.extractLsb' 8 3))
  | 6 => fixed w 0x0000F800#32 0x00000000#32 (.vrminN (w.extractLsb' 21 5) (w.extractLsb' 16 5) (w.extractLsb' 8 3))
  | 7 => fixed w 0x0000F800#32 0x00000000#32 (.vrmaxN (w.extractLsb' 21 5) (w.extractLsb' 16 5) (w.extractLsb' 8 3))
  | 8 => fixed w 0x0000F800#32 0x00000000#32 (.vrand (w.extractLsb' 21 5) (w.extractLsb' 16 5) (w.extractLsb' 8 3))
  | 9 => fixed w 0x0000F800#32 0x00000000#32 (.vrior (w.extractLsb' 21 5) (w.extractLsb' 16 5) (w.extractLsb' 8 3))
  | 10 => fixed w 0x0000F800#32 0x00000000#32 (.vrxor (w.extractLsb' 21 5) (w.extractLsb' 16 5) (w.extractLsb' 8 3))
  | 11 => fixed w 0x0000F800#32 0x00000000#32 (.vscanF (w.extractLsb' 21 5) (w.extractLsb' 16 5) (w.extractLsb' 8 3))
  | _ => .error .reservedFunction

/-- Opcode 0x25, selected by bits [7:0] (R111-R118). -/
def decodeVperm (w : BitVec 32) : Except Reject Instr :=
  match (w.extractLsb' 0 8).toNat with
  | 0 => .ok (.vperm (w.extractLsb' 21 5) (w.extractLsb' 16 5) (w.extractLsb' 11 5) (w.extractLsb' 8 3))
  | 1 => .ok (.vsldu (w.extractLsb' 21 5) (w.extractLsb' 16 5) (w.extractLsb' 11 5) (w.extractLsb' 8 3))
  | 2 => .ok (.vsldd (w.extractLsb' 21 5) (w.extractLsb' 16 5) (w.extractLsb' 11 5) (w.extractLsb' 8 3))
  | 3 => fixed w 0x0000F800#32 0x00000000#32 (.vrev (w.extractLsb' 21 5) (w.extractLsb' 16 5) (w.extractLsb' 8 3))
  | 4 => .ok (.vzip (w.extractLsb' 21 5) (w.extractLsb' 16 5) (w.extractLsb' 11 5) (w.extractLsb' 8 3))
  | 5 => .ok (.vuzp (w.extractLsb' 21 5) (w.extractLsb' 16 5) (w.extractLsb' 11 5) (w.extractLsb' 8 3))
  | 6 => .ok (.vbcast (w.extractLsb' 21 5) (w.extractLsb' 16 5) (w.extractLsb' 11 5) (w.extractLsb' 8 3))
  | 7 => fixed w 0x0000F800#32 0x00000000#32 (.vcomp (w.extractLsb' 21 5) (w.extractLsb' 16 5) (w.extractLsb' 8 3))
  | _ => .error .reservedFunction

/-- Opcode 0x26, selected by bits [7:0] (R111-R118). -/
def decodeVmsk (w : BitVec 32) : Except Reject Instr :=
  match (w.extractLsb' 0 8).toNat with
  | 0 => fixed w 0x0318C700#32 0x00000000#32 (.vmand (w.extractLsb' 21 3) (w.extractLsb' 16 3) (w.extractLsb' 11 3))
  | 1 => fixed w 0x0318C700#32 0x00000000#32 (.vmor (w.extractLsb' 21 3) (w.extractLsb' 16 3) (w.extractLsb' 11 3))
  | 2 => fixed w 0x0318C700#32 0x00000000#32 (.vmxor (w.extractLsb' 21 3) (w.extractLsb' 16 3) (w.extractLsb' 11 3))
  | 3 => fixed w 0x0318FF00#32 0x00000000#32 (.vmnot (w.extractLsb' 21 3) (w.extractLsb' 16 3))
  | 4 => fixed w 0x0018FF00#32 0x00000000#32 (.vmpopc (w.extractLsb' 21 5) (w.extractLsb' 16 3))
  | 5 => fixed w 0x0018FF00#32 0x00000000#32 (.vmffs (w.extractLsb' 21 5) (w.extractLsb' 16 3))
  | 6 => fixed w 0x0300FF00#32 0x00000000#32 (.vmfromx (w.extractLsb' 21 3) (w.extractLsb' 16 5))
  | 7 => fixed w 0x0018FF00#32 0x00000000#32 (.vmtox (w.extractLsb' 21 5) (w.extractLsb' 16 3))
  | _ => .error .reservedFunction

/-- Opcode 0x27, selected by bits [7:0] (R111-R118). -/
def decodeVcfg (w : BitVec 32) : Except Reject Instr :=
  match (w.extractLsb' 0 8).toNat with
  | 0 => fixed w 0x0000FF00#32 0x00000000#32 (.vsetvl (w.extractLsb' 21 5) (w.extractLsb' 16 5))
  | 1 => fixed w 0x0000F800#32 0x00000000#32 (.vcvtfi (w.extractLsb' 21 5) (w.extractLsb' 16 5) (w.extractLsb' 8 3))
  | 2 => fixed w 0x0000F800#32 0x00000000#32 (.vcvtfn (w.extractLsb' 21 5) (w.extractLsb' 16 5) (w.extractLsb' 8 3))
  | 3 => fixed w 0x0000F800#32 0x00000000#32 (.vcvtif (w.extractLsb' 21 5) (w.extractLsb' 16 5) (w.extractLsb' 8 3))
  | 4 => fixed w 0x0000F800#32 0x00000000#32 (.vcvtnf (w.extractLsb' 21 5) (w.extractLsb' 16 5) (w.extractLsb' 8 3))
  | 5 => fixed w 0x0000C000#32 0x00000000#32 (.venc (w.extractLsb' 21 5) (w.extractLsb' 16 5) (w.extractLsb' 11 3) (w.extractLsb' 8 3))
  | 6 => fixed w 0x0000C000#32 0x00000000#32 (.vdec (w.extractLsb' 21 5) (w.extractLsb' 16 5) (w.extractLsb' 11 3) (w.extractLsb' 8 3))
  | _ => .error .reservedFunction

/-- Opcode 0x28, selected by bits [13:10] (R111-R118). -/
def decodeMx (w : BitVec 32) : Except Reject Instr :=
  match (w.extractLsb' 10 4).toNat with
  | 0 => fixed w 0x03FFC01F#32 0x00000000#32 (.mclm (w.extractLsb' 5 5))
  | 1 => fixed w 0x0000001F#32 0x00000000#32 (.mrel (w.extractLsb' 18 8) (w.extractLsb' 17 1) (w.extractLsb' 14 3) (w.extractLsb' 5 5))
  | 2 => fixed w 0x00000300#32 0x00000000#32 (.mfil (w.extractLsb' 18 8) (w.extractLsb' 17 1) (w.extractLsb' 14 3) (w.extractLsb' 5 3) (w.extractLsb' 0 5))
  | 3 => fixed w 0x00000300#32 0x00000000#32 (.mfts (w.extractLsb' 18 8) (w.extractLsb' 17 1) (w.extractLsb' 14 3) (w.extractLsb' 5 3) (w.extractLsb' 0 5))
  | 4 => fixed w 0x00000003#32 0x00000000#32 (.mma (w.extractLsb' 18 8) (w.extractLsb' 17 1) (w.extractLsb' 14 3) (w.extractLsb' 8 2) (w.extractLsb' 5 3) (w.extractLsb' 2 3))
  | 5 => fixed w 0x00000003#32 0x00000000#32 (.mmat (w.extractLsb' 18 8) (w.extractLsb' 17 1) (w.extractLsb' 14 3) (w.extractLsb' 8 2) (w.extractLsb' 5 3) (w.extractLsb' 2 3))
  | 6 => fixed w 0x00000003#32 0x00000000#32 (.mopr (w.extractLsb' 18 8) (w.extractLsb' 17 1) (w.extractLsb' 14 3) (w.extractLsb' 8 2) (w.extractLsb' 5 3) (w.extractLsb' 2 3))
  | 7 => fixed w 0x0000039F#32 0x00000000#32 (.mza (w.extractLsb' 18 8) (w.extractLsb' 17 1) (w.extractLsb' 14 3) (w.extractLsb' 5 2))
  | 8 => fixed w 0x00000380#32 0x00000000#32 (.mdrn (w.extractLsb' 18 8) (w.extractLsb' 17 1) (w.extractLsb' 14 3) (w.extractLsb' 5 2) (w.extractLsb' 0 5))
  | 9 => fixed w 0x03FFC000#32 0x00000000#32 (.msetWrite (w.extractLsb' 5 5) (w.extractLsb' 0 5))
  | 10 => fixed w 0x0003C3FF#32 0x00000000#32 (.mwait (w.extractLsb' 18 8))
  | _ => .error .reservedFunction

/-- Opcode 0x2A, selected by bits [18:10] (R111-R118). -/
noncomputable def decodeXc (w : BitVec 32) : Except Reject Instr :=
  match (w.extractLsb' 10 9).toNat with
  | 0 => fixed w 0x0000001F#32 0x00000000#32 (.xcp (w.extractLsb' 22 4) (w.extractLsb' 19 3) (w.extractLsb' 5 5))
  | 1 => fixed w 0x0000001F#32 0x00000000#32 (.xadv (w.extractLsb' 22 4) (w.extractLsb' 19 3) (w.extractLsb' 5 5))
  | 2 =>
    if w.extractLsb' 0 5 = 0#5 then fixed w 0x03C0001F#32 0x00000000#32 (.xtlw (w.extractLsb' 19 3) (w.extractLsb' 5 5))
    else fixed w 0x03F803E0#32 0x00000000#32 (.xtlwTk (w.extractLsb' 0 5))
  | 3 => fixed w 0x03C0001F#32 0x00000000#32 (.xfen (w.extractLsb' 19 3) (w.extractLsb' 5 5))
  | 4 => fixed w 0x0038001F#32 0x00000000#32 (.pbinv (w.extractLsb' 22 4) (w.extractLsb' 5 5))
  | 5 => fixed w 0x0000001F#32 0x00000000#32 (.xmc (w.extractLsb' 22 4) (w.extractLsb' 19 3) (w.extractLsb' 5 5))
  | 6 => fixed w 0x0000001F#32 0x00000000#32 (.xred (w.extractLsb' 22 4) (w.extractLsb' 19 3) (w.extractLsb' 5 5))
  | 7 => fixed w 0x0000001F#32 0x00000000#32 (.xat (w.extractLsb' 22 4) (w.extractLsb' 19 3) (w.extractLsb' 5 5))
  | _ => .error .reservedFunction

/-- Opcode 0x2B, selected by bits [18:10] (R111-R118). -/
noncomputable def decodeTs (w : BitVec 32) : Except Reject Instr :=
  match (w.extractLsb' 10 9).toNat with
  | 0 => fixed w 0x0000001F#32 0x00000000#32 (.tsz (w.extractLsb' 22 4) (w.extractLsb' 19 3) (w.extractLsb' 5 5))
  | 1 => .ok (.tsc (w.extractLsb' 22 4) (w.extractLsb' 19 3) (w.extractLsb' 5 5) (w.extractLsb' 0 5))
  | 2 => .ok (.tscmp (w.extractLsb' 22 4) (w.extractLsb' 19 3) (w.extractLsb' 5 5) (w.extractLsb' 0 5))
  | 3 => fixed w 0x03F803FF#32 0x00000000#32 (.tsf)
  | 4 => fixed w 0x03F80000#32 0x00000000#32 (.thb (w.extractLsb' 5 5) (w.extractLsb' 0 5))
  | 5 => fixed w 0x03F803E0#32 0x00000000#32 (.thu (w.extractLsb' 0 5))
  | _ => .error .reservedFunction

/-- Opcode 0x2C, selected by bits [18:10] (R111-R118). -/
noncomputable def decodePr (w : BitVec 32) : Except Reject Instr :=
  match (w.extractLsb' 10 9).toNat with
  | 0 => fixed w 0x0338001F#32 0x00000000#32 (.prcfg (w.extractLsb' 22 2) (w.extractLsb' 5 5))
  | 1 => fixed w 0x03000000#32 0x00000000#32 (.prput (w.extractLsb' 22 2) (w.extractLsb' 19 3) (w.extractLsb' 5 5) (w.extractLsb' 0 5))
  | 2 => fixed w 0x03000000#32 0x00000000#32 (.prupd (w.extractLsb' 22 2) (w.extractLsb' 19 3) (w.extractLsb' 5 5) (w.extractLsb' 0 5))
  | 3 => fixed w 0x03000000#32 0x00000000#32 (.prdraw (w.extractLsb' 22 2) (w.extractLsb' 19 3) (w.extractLsb' 5 5) (w.extractLsb' 0 5))
  | 4 => fixed w 0x03000000#32 0x00000000#32 (.prwt (w.extractLsb' 22 2) (w.extractLsb' 19 3) (w.extractLsb' 5 5) (w.extractLsb' 0 5))
  | 5 => fixed w 0x0300001F#32 0x00000000#32 (.prsum (w.extractLsb' 22 2) (w.extractLsb' 19 3) (w.extractLsb' 5 5))
  | 6 => fixed w 0x033803FF#32 0x00000000#32 (.prclr (w.extractLsb' 22 2))
  | _ => .error .reservedFunction

/-- Opcode 0x2D, selected by bits [18:10] (R111-R118). -/
noncomputable def decodeSg (w : BitVec 32) : Except Reject Instr :=
  match (w.extractLsb' 10 9).toNat with
  | 0 => fixed w 0x03F8001F#32 0x00000000#32 (.sgcfg (w.extractLsb' 5 5))
  | 1 => fixed w 0x03C00000#32 0x00000000#32 (.sginc (w.extractLsb' 19 3) (w.extractLsb' 5 5) (w.extractLsb' 0 5))
  | 2 => fixed w 0x03C00000#32 0x00000000#32 (.sgjoin (w.extractLsb' 19 3) (w.extractLsb' 5 5) (w.extractLsb' 0 5))
  | 3 => fixed w 0x03C0001F#32 0x00000000#32 (.sglog (w.extractLsb' 19 3) (w.extractLsb' 5 5))
  | 4 => fixed w 0x03C0001F#32 0x00000000#32 (.sgrd (w.extractLsb' 19 3) (w.extractLsb' 5 5))
  | 5 => fixed w 0x03C003FF#32 0x00000000#32 (.sgclr (w.extractLsb' 19 3))
  | _ => .error .reservedFunction

/-- Opcode 0x2E, selected by bits [18:10] (R111-R118). -/
noncomputable def decodeQm (w : BitVec 32) : Except Reject Instr :=
  match (w.extractLsb' 10 9).toNat with
  | 0 => fixed w 0x0038001F#32 0x00000000#32 (.qmopen (w.extractLsb' 22 4) (w.extractLsb' 5 5))
  | 1 => .ok (.qmjoin (w.extractLsb' 22 4) (w.extractLsb' 19 3) (w.extractLsb' 5 5) (w.extractLsb' 0 5))
  | 2 => fixed w 0x0038001F#32 0x00000000#32 (.qmwait (w.extractLsb' 22 4) (w.extractLsb' 5 5))
  | 3 => .ok (.qmrecRead (w.extractLsb' 22 4) (w.extractLsb' 19 3) (w.extractLsb' 5 5) (w.extractLsb' 0 5))
  | 4 => fixed w 0x003803E0#32 0x00000000#32 (.qmexcl (w.extractLsb' 22 4) (w.extractLsb' 0 5))
  | 5 => fixed w 0x003803FF#32 0x00000000#32 (.qmclose (w.extractLsb' 22 4))
  | _ => .error .reservedFunction

/-- Opcode 0x2F, selected by bits [7:0] (R111-R118). -/
def decodeRg (w : BitVec 32) : Except Reject Instr :=
  match (w.extractLsb' 0 8).toNat with
  | 0 => fixed w 0x03E0FF00#32 0x00000000#32 (.rgkey (w.extractLsb' 16 5))
  | 1 => fixed w 0x03E00700#32 0x00000000#32 (.rgctr (w.extractLsb' 16 5) (w.extractLsb' 11 5))
  | 2 => fixed w 0x001FF800#32 0x00000000#32 (.rggen (w.extractLsb' 21 5) (w.extractLsb' 8 3))
  | 3 => fixed w 0x03E00700#32 0x00000000#32 (.rgskip (w.extractLsb' 16 5) (w.extractLsb' 11 5))
  | 4 => fixed w 0x03E0FF00#32 0x00000000#32 (.rgst (w.extractLsb' 16 5))
  | 5 => fixed w 0x03E0FF00#32 0x00000000#32 (.rgld (w.extractLsb' 16 5))
  | _ => .error .reservedFunction

/-- Opcode 0x30, selected by bits [15:10] (R111-R118). -/
noncomputable def decodeSys (w : BitVec 32) : Except Reject Instr :=
  match (w.extractLsb' 10 6).toNat with
  | 0 => fixed w 0x001F0000#32 0x00000000#32 (.csrr (w.extractLsb' 21 5) (w.extractLsb' 0 10))
  | 1 => .ok (.csrw (w.extractLsb' 21 5) (w.extractLsb' 16 5) (w.extractLsb' 0 10))
  | 2 => .ok (.csrs (w.extractLsb' 21 5) (w.extractLsb' 16 5) (w.extractLsb' 0 10))
  | 3 => .ok (.csrc (w.extractLsb' 21 5) (w.extractLsb' 16 5) (w.extractLsb' 0 10))
  | 4 => fixed w 0x03FF0000#32 0x00000000#32 (.trap (w.extractLsb' 0 10))
  | 5 => fixed w 0x03FF03FF#32 0x00000000#32 (.rfe)
  | 6 => fixed w 0x03FF0000#32 0x00000000#32 (.brk (w.extractLsb' 0 10))
  | 7 => fixed w 0x03FF03FF#32 0x00000000#32 (.pbinva)
  | 8 => fixed w 0x03FF0000#32 0x00000000#32 (.wfe (w.extractLsb' 0 10))
  | 9 => fixed w 0x03E00000#32 0x00000000#32 (.diag (w.extractLsb' 16 5) (w.extractLsb' 0 10))
  | _ => .error .reservedFunction

/-- The row a word selects by its opcode and function fields (11 R111). -/
noncomputable def selectRow (w : BitVec 32) : Except Reject Instr :=
  match (w.extractLsb' 26 6).toNat with
  | 0x01 => decodeAlu w
  | 0x02 => .ok (.addi (w.extractLsb' 21 5) (w.extractLsb' 16 5) (w.extractLsb' 0 16))
  | 0x03 => .ok (.andi (w.extractLsb' 21 5) (w.extractLsb' 16 5) (w.extractLsb' 0 16))
  | 0x04 => .ok (.ori (w.extractLsb' 21 5) (w.extractLsb' 16 5) (w.extractLsb' 0 16))
  | 0x05 => .ok (.xori (w.extractLsb' 21 5) (w.extractLsb' 16 5) (w.extractLsb' 0 16))
  | 0x06 => .ok (.slti (w.extractLsb' 21 5) (w.extractLsb' 16 5) (w.extractLsb' 0 16))
  | 0x07 => .ok (.sltin (w.extractLsb' 21 5) (w.extractLsb' 16 5) (w.extractLsb' 0 16))
  | 0x08 => decodeShi w
  | 0x09 => .ok (.lih (w.extractLsb' 21 5) (w.extractLsb' 0 21))
  | 0x0A => .ok (.adpc (w.extractLsb' 21 5) (w.extractLsb' 0 21))
  | 0x0B => decodeBfx w
  | 0x0C => fixed w 0x001F0000#32 0x00000000#32 (.lis (w.extractLsb' 21 5) (w.extractLsb' 0 16))
  | 0x10 => decodeLds w
  | 0x11 => decodeLdz w
  | 0x12 => decodeSt w
  | 0x13 => fixed w 0x0000F82F#32 0x00000020#32 (.ldsg (w.extractLsb' 21 5) (w.extractLsb' 16 5) (w.extractLsb' 9 2) (w.extractLsb' 6 3) (w.extractLsb' 4 1))
  | 0x14 => fixed w 0x0000F82F#32 0x00000020#32 (.stsg (w.extractLsb' 21 5) (w.extractLsb' 16 5) (w.extractLsb' 9 2) (w.extractLsb' 6 3) (w.extractLsb' 4 1))
  | 0x15 => decodeAmo w
  | 0x16 => decodeFence w
  | 0x17 => decodeSync w
  | 0x18 => decodeBcond w
  | 0x19 => decodeBzero w
  | 0x1A => .ok (.j (w.extractLsb' 0 26))
  | 0x1B => .ok (.call (w.extractLsb' 0 26))
  | 0x1C => fixed w 0x03E0FFFF#32 0x00000000#32 (.jr (w.extractLsb' 16 5))
  | 0x1D => fixed w 0x03E0FFFF#32 0x00000000#32 (.callr (w.extractLsb' 16 5))
  | 0x1E => fixed w 0x03FFFFFF#32 0x00000000#32 (.ret)
  | 0x1F => fixed w 0x0000FFFF#32 0x00000000#32 (.jlr (w.extractLsb' 21 5) (w.extractLsb' 16 5))
  | 0x20 => decodeVop w
  | 0x21 => decodeVops w
  | 0x22 => decodeVld w
  | 0x23 => decodeVst w
  | 0x24 => decodeVred w
  | 0x25 => decodeVperm w
  | 0x26 => decodeVmsk w
  | 0x27 => decodeVcfg w
  | 0x28 => decodeMx w
  | 0x2A => decodeXc w
  | 0x2B => decodeTs w
  | 0x2C => decodePr w
  | 0x2D => decodeSg w
  | 0x2E => decodeQm w
  | 0x2F => decodeRg w
  | 0x30 => decodeSys w
  | _ => .error .reservedOpcode

/-- The decoder: every word is an instruction or is rejected by name. -/
noncomputable def decode (w : BitVec 32) : Except Reject Instr :=
  match selectRow w with
  | .error r => .error r
  | .ok i => if i.wellFormed then .ok i else .error .reservedValue

/-- A little-endian word of up to 8 bytes, first byte lowest (00 R7). -/
def leNat : List Byte → Nat
  | [] => 0
  | b :: bs => b.toNat + 256 * leNat bs

/-- `n` bytes of a number, little-endian (00 R7). -/
def leBytes : Nat → Nat → List Byte
  | 0, _ => []
  | n + 1, v => BitVec.ofNat 8 v :: leBytes n (v / 256)

/-- Decode four bytes in memory order (11 R106). -/
noncomputable def decodeBytes (bs : List Byte) : Except Reject Instr := decode (BitVec.ofNat 32 (leNat bs))

/-- The instruction the decoder reads from a table word: one 32-bit word, its bits above `nbits` zero. -/
noncomputable def decodeTableWord (nbits w : Nat) : Option Instr :=
  match decodeBytes (leBytes 4 (w % 2 ^ nbits)) with
  | .ok i => some i
  | .error _ => none

/-! The nine formats (11 R108). -/

def encR (op : BitVec 6) (d a b : BitVec 5) (fn : BitVec 11) : BitVec 32 := op ++ d ++ a ++ b ++ fn
def encI (op : BitVec 6) (d a : BitVec 5) (i : BitVec 16) : BitVec 32 := op ++ d ++ a ++ i
def encB (op : BitVec 6) (c : BitVec 3) (a b : BitVec 5) (o : BitVec 13) : BitVec 32 := op ++ c ++ a ++ b ++ o
def encJ (op : BitVec 6) (o : BitVec 26) : BitVec 32 := op ++ o
def encU (op : BitVec 6) (d : BitVec 5) (i : BitVec 21) : BitVec 32 := op ++ d ++ i
def encV (op : BitVec 6) (d a b : BitVec 5) (k : BitVec 3) (fn : BitVec 8) : BitVec 32 := op ++ d ++ a ++ b ++ k ++ fn
def encM (op : BitVec 6) (w : BitVec 8) (e : BitVec 1) (z : BitVec 3) (cmd : BitVec 4) (a b : BitVec 5) : BitVec 32 :=
  op ++ w ++ e ++ z ++ cmd ++ a ++ b
def encE (op : BitVec 6) (eng : BitVec 4) (tok : BitVec 3) (cmd : BitVec 9) (a b : BitVec 5) : BitVec 32 :=
  op ++ eng ++ tok ++ cmd ++ a ++ b
def encX (op : BitVec 6) (d a : BitVec 5) (fnx : BitVec 6) (i : BitVec 10) : BitVec 32 := op ++ d ++ a ++ fnx ++ i

/-- The word of an instruction, from the encoding tables; an event has none. -/
def encode : Instr → Option (BitVec 32)
  | .add d a b => some (encR 1#6 d a b 0#11)
  | .sub d a b => some (encR 1#6 d a b 1#11)
  | .and d a b => some (encR 1#6 d a b 2#11)
  | .or d a b => some (encR 1#6 d a b 3#11)
  | .xor d a b => some (encR 1#6 d a b 4#11)
  | .andn d a b => some (encR 1#6 d a b 5#11)
  | .orn d a b => some (encR 1#6 d a b 6#11)
  | .xnor d a b => some (encR 1#6 d a b 7#11)
  | .sll d a b => some (encR 1#6 d a b 8#11)
  | .srl d a b => some (encR 1#6 d a b 9#11)
  | .sra d a b => some (encR 1#6 d a b 10#11)
  | .rol d a b => some (encR 1#6 d a b 11#11)
  | .ror d a b => some (encR 1#6 d a b 12#11)
  | .min d a b => some (encR 1#6 d a b 13#11)
  | .max d a b => some (encR 1#6 d a b 14#11)
  | .minn d a b => some (encR 1#6 d a b 15#11)
  | .maxn d a b => some (encR 1#6 d a b 16#11)
  | .slt d a b => some (encR 1#6 d a b 17#11)
  | .sltn d a b => some (encR 1#6 d a b 18#11)
  | .seq d a b => some (encR 1#6 d a b 19#11)
  | .sne d a b => some (encR 1#6 d a b 20#11)
  | .mul d a b => some (encR 1#6 d a b 21#11)
  | .mulh d a b => some (encR 1#6 d a b 22#11)
  | .mulhn d a b => some (encR 1#6 d a b 23#11)
  | .div d a b => some (encR 1#6 d a b 24#11)
  | .divn d a b => some (encR 1#6 d a b 25#11)
  | .rem d a b => some (encR 1#6 d a b 26#11)
  | .remn d a b => some (encR 1#6 d a b 27#11)
  | .clz d a => some (encR 1#6 d a 0#5 28#11)
  | .ctz d a => some (encR 1#6 d a 0#5 29#11)
  | .popc d a => some (encR 1#6 d a 0#5 30#11)
  | .brev d a => some (encR 1#6 d a 0#5 31#11)
  | .bswap d a => some (encR 1#6 d a 0#5 32#11)
  | .addw d a b => some (encR 1#6 d a b 33#11)
  | .subw d a b => some (encR 1#6 d a b 34#11)
  | .mulw d a b => some (encR 1#6 d a b 35#11)
  | .sllw d a b => some (encR 1#6 d a b 36#11)
  | .srlw d a b => some (encR 1#6 d a b 37#11)
  | .sraw d a b => some (encR 1#6 d a b 38#11)
  | .addi d a i => some (encI 2#6 d a i)
  | .andi d a i => some (encI 3#6 d a i)
  | .ori d a i => some (encI 4#6 d a i)
  | .xori d a i => some (encI 5#6 d a i)
  | .slti d a i => some (encI 6#6 d a i)
  | .sltin d a i => some (encI 7#6 d a i)
  | .slli d a n => some (encI 8#6 d a (0#10 ++ n))
  | .srli d a n => some (encI 8#6 d a (256#10 ++ n))
  | .srai d a n => some (encI 8#6 d a (512#10 ++ n))
  | .rori d a n => some (encI 8#6 d a (768#10 ++ n))
  | .slliW d a n => some (encI 8#6 d a (128#11 ++ n))
  | .srliW d a n => some (encI 8#6 d a (640#11 ++ n))
  | .sraiW d a n => some (encI 8#6 d a (1152#11 ++ n))
  | .roriW d a n => some (encI 8#6 d a (1664#11 ++ n))
  | .lih d i => some (encU 9#6 d i)
  | .adpc d i => some (encU 10#6 d i)
  | .exts d a l p => some (encI 11#6 d a (0#2 ++ l ++ 0#2 ++ p))
  | .extz d a l p => some (encI 11#6 d a (1#2 ++ l ++ 0#2 ++ p))
  | .dep d a l p => some (encI 11#6 d a (2#2 ++ l ++ 0#2 ++ p))
  | .depz d a l p => some (encI 11#6 d a (3#2 ++ l ++ 0#2 ++ p))
  | .lis d i => some (encI 12#6 d 0#5 i)
  | .ldb d a o => some (encI 16#6 d a (0#2 ++ o))
  | .ldh d a o => some (encI 16#6 d a (1#2 ++ o))
  | .ldw d a o => some (encI 16#6 d a (2#2 ++ o))
  | .ldbz d a o => some (encI 17#6 d a (0#2 ++ o))
  | .ldhz d a o => some (encI 17#6 d a (1#2 ++ o))
  | .ldwz d a o => some (encI 17#6 d a (2#2 ++ o))
  | .ldd d a o => some (encI 17#6 d a (3#2 ++ o))
  | .stb d a o => some (encI 18#6 d a (0#2 ++ o))
  | .sth d a o => some (encI 18#6 d a (1#2 ++ o))
  | .stw d a o => some (encI 18#6 d a (2#2 ++ o))
  | .std d a o => some (encI 18#6 d a (3#2 ++ o))
  | .ldsg d a o s z => some (encR 19#6 d a 0#5 (o ++ s ++ 1#1 ++ z ++ 0#4))
  | .stsg d a o s z => some (encR 20#6 d a 0#5 (o ++ s ++ 1#1 ++ z ++ 0#4))
  | .amoadd d a b o s z => some (encR 21#6 d a b (0#5 ++ o ++ s ++ z))
  | .amoand d a b o s z => some (encR 21#6 d a b (1#5 ++ o ++ s ++ z))
  | .amoor d a b o s z => some (encR 21#6 d a b (2#5 ++ o ++ s ++ z))
  | .amoxor d a b o s z => some (encR 21#6 d a b (3#5 ++ o ++ s ++ z))
  | .amosmin d a b o s z => some (encR 21#6 d a b (4#5 ++ o ++ s ++ z))
  | .amosmax d a b o s z => some (encR 21#6 d a b (5#5 ++ o ++ s ++ z))
  | .amonmin d a b o s z => some (encR 21#6 d a b (6#5 ++ o ++ s ++ z))
  | .amonmax d a b o s z => some (encR 21#6 d a b (7#5 ++ o ++ s ++ z))
  | .amoswap d a b o s z => some (encR 21#6 d a b (8#5 ++ o ++ s ++ z))
  | .amocas d a b o s z => some (encR 21#6 d a b (9#5 ++ o ++ s ++ z))
  | .amofadd d a b o s z => some (encR 21#6 d a b (10#5 ++ o ++ s ++ z))
  | .fence s => some (encR 22#6 0#5 0#5 0#5 (0#3 ++ s ++ 0#5))
  | .fencea s => some (encR 22#6 0#5 0#5 0#5 (1#3 ++ s ++ 0#5))
  | .fencer s => some (encR 22#6 0#5 0#5 0#5 (2#3 ++ s ++ 0#5))
  | .tfence s => some (encR 22#6 0#5 0#5 0#5 (3#3 ++ s ++ 0#5))
  | .msgs a b n => some (encR 23#6 0#5 a b (0#7 ++ n))
  | .waitc a n => some (encR 23#6 0#5 a 0#5 (2#7 ++ n))
  | .ctradd a n => some (encR 23#6 0#5 a 0#5 (4#7 ++ n))
  | .ctrrd d n => some (encR 23#6 d 0#5 0#5 (6#7 ++ n))
  | .tkget d a => some (encR 23#6 d a 0#5 128#11)
  | .tkwait a b => some (encR 23#6 0#5 a b 160#11)
  | .tknext a => some (encR 23#6 0#5 a 0#5 192#11)
  | .chwf a c => some (encR 23#6 0#5 a 0#5 (28#8 ++ c))
  | .chwe a c => some (encR 23#6 0#5 a 0#5 (32#8 ++ c))
  | .chap a c => some (encR 23#6 0#5 a 0#5 (36#8 ++ c))
  | .chac a c => some (encR 23#6 0#5 a 0#5 (40#8 ++ c))
  | .chrd d c => some (encR 23#6 d 0#5 0#5 (44#8 ++ c))
  | .chset a b c => some (encR 23#6 0#5 a b (48#8 ++ c))
  | .bara a b l => some (encR 23#6 0#5 a b (104#9 ++ l))
  | .barw l => some (encR 23#6 0#5 0#5 0#5 (112#9 ++ l))
  | .spawn a b p r => some (encR 23#6 0#5 a b (60#8 ++ p ++ r))
  | .susp => some (encR 23#6 0#5 0#5 0#5 512#11)
  | .yield => some (encR 23#6 0#5 0#5 0#5 544#11)
  | .done => some (encR 23#6 0#5 0#5 0#5 576#11)
  | .exend l => some (encR 23#6 0#5 0#5 0#5 (152#9 ++ l))
  | .xwt l => some (encR 23#6 0#5 0#5 0#5 (160#9 ++ l))
  | .beq a b o => some (encB 24#6 0#3 a b o)
  | .bne a b o => some (encB 24#6 1#3 a b o)
  | .blt a b o => some (encB 24#6 2#3 a b o)
  | .bge a b o => some (encB 24#6 3#3 a b o)
  | .bltn a b o => some (encB 24#6 4#3 a b o)
  | .bgen a b o => some (encB 24#6 5#3 a b o)
  | .beqz a o => some (encB 25#6 0#3 a 0#5 o)
  | .bnez a o => some (encB 25#6 1#3 a 0#5 o)
  | .bltz a o => some (encB 25#6 2#3 a 0#5 o)
  | .bgez a o => some (encB 25#6 3#3 a 0#5 o)
  | .bgtz a o => some (encB 25#6 4#3 a 0#5 o)
  | .blez a o => some (encB 25#6 5#3 a 0#5 o)
  | .j o => some (encJ 26#6 o)
  | .call o => some (encJ 27#6 o)
  | .jr a => some (encR 28#6 0#5 a 0#5 0#11)
  | .callr a => some (encR 29#6 0#5 a 0#5 0#11)
  | .ret => some (encR 30#6 0#5 0#5 0#5 0#11)
  | .jlr d a => some (encR 31#6 d a 0#5 0#11)
  | .vaddF d a b k => some (encV 32#6 d a b k 0#8)
  | .vsubF d a b k => some (encV 32#6 d a b k 1#8)
  | .vmulF d a b k => some (encV 32#6 d a b k 2#8)
  | .vdivF d a b k => some (encV 32#6 d a b k 3#8)
  | .vsqrtF d a k => some (encV 32#6 d a 0#5 k 4#8)
  | .vfmaF d a b k => some (encV 32#6 d a b k 5#8)
  | .vfmsF d a b k => some (encV 32#6 d a b k 6#8)
  | .vminF d a b k => some (encV 32#6 d a b k 7#8)
  | .vmaxF d a b k => some (encV 32#6 d a b k 8#8)
  | .vabsF d a k => some (encV 32#6 d a 0#5 k 9#8)
  | .vnegF d a k => some (encV 32#6 d a 0#5 k 10#8)
  | .vaddI d a b k => some (encV 32#6 d a b k 11#8)
  | .vsubI d a b k => some (encV 32#6 d a b k 12#8)
  | .vmulI d a b k => some (encV 32#6 d a b k 13#8)
  | .vmulhI d a b k => some (encV 32#6 d a b k 14#8)
  | .vmulhN d a b k => some (encV 32#6 d a b k 15#8)
  | .vminI d a b k => some (encV 32#6 d a b k 16#8)
  | .vmaxI d a b k => some (encV 32#6 d a b k 17#8)
  | .vminN d a b k => some (encV 32#6 d a b k 18#8)
  | .vmaxN d a b k => some (encV 32#6 d a b k 19#8)
  | .vand d a b k => some (encV 32#6 d a b k 20#8)
  | .vor d a b k => some (encV 32#6 d a b k 21#8)
  | .vxor d a b k => some (encV 32#6 d a b k 22#8)
  | .vsll d a b k => some (encV 32#6 d a b k 23#8)
  | .vsrl d a b k => some (encV 32#6 d a b k 24#8)
  | .vsra d a b k => some (encV 32#6 d a b k 25#8)
  | .vsel d a b k => some (encV 32#6 d a b k 26#8)
  | .vmov d a k => some (encV 32#6 d a 0#5 k 27#8)
  | .vceqF d a b k => some (encV 32#6 (0#2 ++ d) a b k 28#8)
  | .vcltF d a b k => some (encV 32#6 (0#2 ++ d) a b k 29#8)
  | .vcleF d a b k => some (encV 32#6 (0#2 ++ d) a b k 30#8)
  | .vcunF d a b k => some (encV 32#6 (0#2 ++ d) a b k 31#8)
  | .vceqI d a b k => some (encV 32#6 (0#2 ++ d) a b k 32#8)
  | .vcltI d a b k => some (encV 32#6 (0#2 ++ d) a b k 33#8)
  | .vcltN d a b k => some (encV 32#6 (0#2 ++ d) a b k 34#8)
  | .vclassF d a k => some (encV 32#6 d a 0#5 k 35#8)
  | .vaddsF d a b k => some (encV 33#6 d a b k 0#8)
  | .vsubsF d a b k => some (encV 33#6 d a b k 1#8)
  | .vmulsF d a b k => some (encV 33#6 d a b k 2#8)
  | .vfmasF d a b k => some (encV 33#6 d a b k 3#8)
  | .vminsF d a b k => some (encV 33#6 d a b k 4#8)
  | .vmaxsF d a b k => some (encV 33#6 d a b k 5#8)
  | .vaddsI d a b k => some (encV 33#6 d a b k 6#8)
  | .vmulsI d a b k => some (encV 33#6 d a b k 7#8)
  | .vslls d a b k => some (encV 33#6 d a b k 8#8)
  | .vsrls d a b k => some (encV 33#6 d a b k 9#8)
  | .vsras d a b k => some (encV 33#6 d a b k 10#8)
  | .vceqsI d a b k => some (encV 33#6 (0#2 ++ d) a b k 11#8)
  | .vcltsI d a b k => some (encV 33#6 (0#2 ++ d) a b k 12#8)
  | .vsplat d b k => some (encV 33#6 d 0#5 b k 13#8)
  | .vinsl d a b => some (encV 33#6 d a b 0#3 14#8)
  | .vextl d a b => some (encV 33#6 d a b 0#3 15#8)
  | .vld d a k => some (encV 34#6 d a 0#5 k 0#8)
  | .vlds d a b k => some (encV 34#6 d a b k 1#8)
  | .vldg d a b k => some (encV 34#6 d a b k 2#8)
  | .vldb d a k => some (encV 34#6 d a 0#5 k 3#8)
  | .vst d a k => some (encV 35#6 d a 0#5 k 0#8)
  | .vsts d a b k => some (encV 35#6 d a b k 1#8)
  | .vstsc d a b k => some (encV 35#6 d a b k 2#8)
  | .vraddF d a k => some (encV 36#6 d a 0#5 k 0#8)
  | .vraddI d a k => some (encV 36#6 d a 0#5 k 1#8)
  | .vrminF d a k => some (encV 36#6 d a 0#5 k 2#8)
  | .vrmaxF d a k => some (encV 36#6 d a 0#5 k 3#8)
  | .vrminI d a k => some (encV 36#6 d a 0#5 k 4#8)
  | .vrmaxI d a k => some (encV 36#6 d a 0#5 k 5#8)
  | .vrminN d a k => some (encV 36#6 d a 0#5 k 6#8)
  | .vrmaxN d a k => some (encV 36#6 d a 0#5 k 7#8)
  | .vrand d a k => some (encV 36#6 d a 0#5 k 8#8)
  | .vrior d a k => some (encV 36#6 d a 0#5 k 9#8)
  | .vrxor d a k => some (encV 36#6 d a 0#5 k 10#8)
  | .vscanF d a k => some (encV 36#6 d a 0#5 k 11#8)
  | .vperm d a b k => some (encV 37#6 d a b k 0#8)
  | .vsldu d a b k => some (encV 37#6 d a b k 1#8)
  | .vsldd d a b k => some (encV 37#6 d a b k 2#8)
  | .vrev d a k => some (encV 37#6 d a 0#5 k 3#8)
  | .vzip d a b k => some (encV 37#6 d a b k 4#8)
  | .vuzp d a b k => some (encV 37#6 d a b k 5#8)
  | .vbcast d a b k => some (encV 37#6 d a b k 6#8)
  | .vcomp d a k => some (encV 37#6 d a 0#5 k 7#8)
  | .vmand d a b => some (encV 38#6 (0#2 ++ d) (0#2 ++ a) (0#2 ++ b) 0#3 0#8)
  | .vmor d a b => some (encV 38#6 (0#2 ++ d) (0#2 ++ a) (0#2 ++ b) 0#3 1#8)
  | .vmxor d a b => some (encV 38#6 (0#2 ++ d) (0#2 ++ a) (0#2 ++ b) 0#3 2#8)
  | .vmnot d a => some (encV 38#6 (0#2 ++ d) (0#2 ++ a) 0#5 0#3 3#8)
  | .vmpopc d a => some (encV 38#6 d (0#2 ++ a) 0#5 0#3 4#8)
  | .vmffs d a => some (encV 38#6 d (0#2 ++ a) 0#5 0#3 5#8)
  | .vmfromx d a => some (encV 38#6 (0#2 ++ d) a 0#5 0#3 6#8)
  | .vmtox d a => some (encV 38#6 d (0#2 ++ a) 0#5 0#3 7#8)
  | .vsetvl d a => some (encV 39#6 d a 0#5 0#3 0#8)
  | .vcvtfi d a k => some (encV 39#6 d a 0#5 k 1#8)
  | .vcvtfn d a k => some (encV 39#6 d a 0#5 k 2#8)
  | .vcvtif d a k => some (encV 39#6 d a 0#5 k 3#8)
  | .vcvtnf d a k => some (encV 39#6 d a 0#5 k 4#8)
  | .venc d a b k => some (encV 39#6 d a (0#2 ++ b) k 5#8)
  | .vdec d a b k => some (encV 39#6 d a (0#2 ++ b) k 6#8)
  | .rgkey a => some (encV 47#6 0#5 a 0#5 0#3 0#8)
  | .rgctr a b => some (encV 47#6 0#5 a b 0#3 1#8)
  | .rggen d k => some (encV 47#6 d 0#5 0#5 k 2#8)
  | .rgskip a b => some (encV 47#6 0#5 a b 0#3 3#8)
  | .rgst a => some (encV 47#6 0#5 a 0#5 0#3 4#8)
  | .rgld a => some (encV 47#6 0#5 a 0#5 0#3 5#8)
  | .mclm u => some (encM 40#6 0#8 0#1 0#3 0#4 u 0#5)
  | .mrel w e z u => some (encM 40#6 w e z 1#4 u 0#5)
  | .mfil w e z s b => some (encM 40#6 w e z 2#4 (0#2 ++ s) b)
  | .mfts w e z s b => some (encM 40#6 w e z 3#4 (0#2 ++ s) b)
  | .mma w e z c x y => some (encM 40#6 w e z 4#4 (c ++ x) (y ++ 0#2))
  | .mmat w e z c x y => some (encM 40#6 w e z 5#4 (c ++ x) (y ++ 0#2))
  | .mopr w e z c x y => some (encM 40#6 w e z 6#4 (c ++ x) (y ++ 0#2))
  | .mza w e z c => some (encM 40#6 w e z 7#4 (0#3 ++ c) 0#5)
  | .mdrn w e z c b => some (encM 40#6 w e z 8#4 (0#3 ++ c) b)
  | .msetWrite a b => some (encM 40#6 0#8 0#1 0#3 9#4 a b)
  | .msetRead a b => some (encM 40#6 0#8 0#1 0#3 9#4 a b)
  | .msetReadClear a b => some (encM 40#6 0#8 0#1 0#3 9#4 a b)
  | .mwait w => some (encM 40#6 w 0#1 0#3 10#4 0#5 0#5)
  | .xcp e t a => some (encE 42#6 e t 0#9 a 0#5)
  | .xadv e t a => some (encE 42#6 e t 1#9 a 0#5)
  | .xtlw t a => some (encE 42#6 0#4 t 2#9 a 0#5)
  | .xtlwTk b => some (encE 42#6 0#4 0#3 2#9 0#5 b)
  | .xfen t a => some (encE 42#6 0#4 t 3#9 a 0#5)
  | .pbinv e a => some (encE 42#6 e 0#3 4#9 a 0#5)
  | .xmc e t a => some (encE 42#6 e t 5#9 a 0#5)
  | .xred e t a => some (encE 42#6 e t 6#9 a 0#5)
  | .xat e t a => some (encE 42#6 e t 7#9 a 0#5)
  | .tsz e t a => some (encE 43#6 e t 0#9 a 0#5)
  | .tsc e t a b => some (encE 43#6 e t 1#9 a b)
  | .tscmp e t a b => some (encE 43#6 e t 2#9 a b)
  | .tsf => some (encE 43#6 0#4 0#3 3#9 0#5 0#5)
  | .thb a b => some (encE 43#6 0#4 0#3 4#9 a b)
  | .thu b => some (encE 43#6 0#4 0#3 5#9 0#5 b)
  | .prcfg p a => some (encE 44#6 (0#2 ++ p) 0#3 0#9 a 0#5)
  | .prput p t a b => some (encE 44#6 (0#2 ++ p) t 1#9 a b)
  | .prupd p t a b => some (encE 44#6 (0#2 ++ p) t 2#9 a b)
  | .prdraw p t a b => some (encE 44#6 (0#2 ++ p) t 3#9 a b)
  | .prwt p t a b => some (encE 44#6 (0#2 ++ p) t 4#9 a b)
  | .prsum p t a => some (encE 44#6 (0#2 ++ p) t 5#9 a 0#5)
  | .prclr p => some (encE 44#6 (0#2 ++ p) 0#3 6#9 0#5 0#5)
  | .sgcfg a => some (encE 45#6 0#4 0#3 0#9 a 0#5)
  | .sgcfgRelease a => some (encE 45#6 0#4 0#3 0#9 a 0#5)
  | .sginc t a b => some (encE 45#6 0#4 t 1#9 a b)
  | .sgjoin t a b => some (encE 45#6 0#4 t 2#9 a b)
  | .sglog t a => some (encE 45#6 0#4 t 3#9 a 0#5)
  | .sgrd t a => some (encE 45#6 0#4 t 4#9 a 0#5)
  | .sgclr t => some (encE 45#6 0#4 t 5#9 0#5 0#5)
  | .qmopen m a => some (encE 46#6 m 0#3 0#9 a 0#5)
  | .qmjoin m t a b => some (encE 46#6 m t 1#9 a b)
  | .qmwait m a => some (encE 46#6 m 0#3 2#9 a 0#5)
  | .qmrecRead m t a b => some (encE 46#6 m t 3#9 a b)
  | .qmrecForce m t a b => some (encE 46#6 m t 3#9 a b)
  | .qmexcl m b => some (encE 46#6 m 0#3 4#9 0#5 b)
  | .qmclose m => some (encE 46#6 m 0#3 5#9 0#5 0#5)
  | .csrr d c => some (encX 48#6 d 0#5 0#6 c)
  | .csrw d a c => some (encX 48#6 d a 1#6 c)
  | .csrs d a c => some (encX 48#6 d a 2#6 c)
  | .csrc d a c => some (encX 48#6 d a 3#6 c)
  | .trap i => some (encX 48#6 0#5 0#5 4#6 i)
  | .rfe => some (encX 48#6 0#5 0#5 5#6 0#10)
  | .brk i => some (encX 48#6 0#5 0#5 6#6 i)
  | .pbinva => some (encX 48#6 0#5 0#5 7#6 0#10)
  | .wfe i => some (encX 48#6 0#5 0#5 8#6 i)
  | .diag a i => some (encX 48#6 0#5 a 9#6 i)
  | .statWrite _ _ _ => none
  | .abortWrite _ _ _ => none
  | .abcontWrite _ _ _ => none
  | .lensWrite _ _ _ _ => none
  | .frmWrite _ _ _ => none
  | .fflagsAccess _ _ _ => none
  | .vlWrite _ _ _ => none
  | .lwgtWrite _ _ _ => none
  | .wspillWrite _ _ _ => none
  | .wdepthWrite _ _ _ => none
  | .xtlWrite _ _ _ _ => none
  | .pwsizeWrite _ _ _ => none
  | .detstatWrite _ _ _ => none
  | .stageWrite _ _ _ => none
  | .launchDoorbell _ _ => none
  | .adminDoorbell _ => none
  | .swpintWrite _ => none
  | .plwaitWrite _ => none
  | .fgapWrite _ => none
  | .fstatClear _ => none
  | .prQlimWrite _ _ => none
  | .sgQlimWrite _ _ => none
  | .ceConfigWrite _ _ => none
  | .reliabilityStickyClear _ _ => none
  | .plimitWrite _ => none
  | .deviceRegisterWrite _ _ _ => none
  | .launchCommand _ _ => none
  | .placement _ => none
  | .plwaitExpiry _ => none
  | .createQueue _ => none
  | .destroyQueue _ => none
  | .mapSpace _ => none
  | .unmapSpace _ => none
  | .invalidate _ => none
  | .jobDeclare _ _ => none
  | .suspend _ => none
  | .resume _ => none
  | .drain _ => none
  | .drainComplete _ _ => none
  | .testRepair _ => none
  | .testRepairComplete _ _ _ _ => none
  | .resumePart _ => none
  | .attest _ => none
  | .formEnclave _ _ _ _ => none
  | .revoke _ => none
  | .window _ _ => none
  | .unwindow _ => none
  | .periscope _ => none
  | .pick _ => none
  | .recordReady _ _ => none
  | .waitHoldExpiry _ => none
  | .holdRelease _ => none
  | .spillWriteOut _ => none
  | .recordWriteBack _ => none
  | .barrierArrival _ _ _ _ _ => none
  | .barrierComplete _ _ _ => none
  | .computePhaseBegin _ _ _ => none
  | .sweep _ _ => none
  | .preemptStop _ => none
  | .asyncTrapEntry _ => none
  | .stationFault _ => none
  | .vectorBind _ => none
  | .matrixDispatch _ => none
  | .matrixRetire _ => none
  | .copyStart _ _ => none
  | .tokenComplete _ _ => none
  | .copyPerformed _ _ => none
  | .tsOpComplete _ _ => none
  | .messageDelivery _ => none
  | .prCommandExecute _ _ => none
  | .sgCommandExecute _ => none
  | .qmContributionArrival _ _ _ => none
  | .qmResultArrival _ _ _ _ => none
  | .packetWrite _ => none
  | .packetReadRequest _ => none
  | .packetReadData _ => none
  | .packetAtomic _ => none
  | .packetAtomicReturn _ => none
  | .packetReductionContribution _ => none
  | .packetAcknowledgement _ _ _ => none
  | .packetControl _ => none
  | .orderedFlagPerform _ _ => none
  | .ackTimeout _ _ _ _ => none
  | .windowDelivery _ _ _ => none
  | .jobAnnounce _ _ _ => none
  | .flitCrcError _ => none
  | .linkDown _ => none
  | .keepAlive _ => none
  | .creditReturn _ _ _ _ => none
  | .keyRotation _ _ _ _ => none
  | .generationRetire _ => none
  | .revokeHalt _ => none
  | .getVersion _ => none
  | .getCapabilities _ => none
  | .negotiateAlgorithms _ => none
  | .getDigests _ => none
  | .getCertificate _ => none
  | .challenge _ => none
  | .getMeasurements _ => none
  | .keyExchange _ => none
  | .finish _ => none
  | .keyUpdate _ => none
  | .endSession _ => none
  | .unsupportedRequest _ => none
  | .tdiError _ => none
  | .powerOn _ => none
  | .epochTick => none
  | .powerMeasure _ => none
  | .junctionOvertemp => none
  | .thermalPowerOff _ => none
  | .correctedError _ _ _ _ => none
  | .patrolRead _ => none
  | .wfeTimeout _ => none
  | .illegalInstruction _ => none
  | .qmCommandExecute _ _ => none
  | .tdispLock _ => none
  | .tdispRun _ => none
  | .ideKm _ _ _ => none
  | .adminUnknownOp _ => none

/-- The row that the decoder gives for the words of several rows. -/
noncomputable def Instr.canon : Instr → Instr
  | .msetRead a b => .msetWrite a b
  | .msetReadClear a b => .msetWrite a b
  | .sgcfgRelease a => .sgcfg a
  | .qmrecForce m t a b => .qmrecRead m t a b
  | i => i

end Sys2Proof
end

