-- ==== Sys2Proof/Config.lean ====
section
/-! DEFINITION. What one implementation fixes and what the spec leaves open: the form of the package, and the free values.
A free value is an opaque constant: no proof can see it, so what is proved holds whatever it is (notes/assumptions). -/

namespace Sys2Proof

/-- The three ordering codes (00 R2). -/
inductive Form where
  | v8p | v8m | v8d
  deriving DecidableEq, Repr

namespace Config

/-- Clocks that pass between two steps beyond the first (05 R382): open, one free value per step. -/
opaque clkGap : Nat → Nat
/-- The cached translation that a full station gives up (19 R195): open. -/
opaque tlbVictim : Nat → Nat
/-- Which of the old and the new translation a walk uses that races a page-table store (19 R199): true for the cached one. -/
opaque useCached : Nat → Bool
/-- Whether a fetch from text that the host has rewritten takes the new word (11 R107): open. -/
opaque fetchesNew : Nat → Bool
/-- Whether a command of a launch queue is half read when its queue is destroyed (41 R368): open. -/
opaque halfRead : Nat → Bool
/-- Whether a posting reads the old block that its engine caches, the host having rewritten it (27 R266): open. -/
opaque useCachedBlock : Nat → Bool
/-- A byte that the spec gives no value: a fill that cannot be translated, a source in error (13 R129, 27 R270). -/
opaque freeByte : Nat → Byte
/-- A word the spec leaves open, such as a SPDM response field or a key drawn at random (33 R324-R327). -/
opaque freeWord : Nat → Word
/-- Whether a destination element of a copy that ends in error is the old (true) or the new one (27 R270). -/
opaque keepsOld : Nat → Bool
/-- SHA-384 (33 R322): named by the spec and not stated by it. -/
opaque sha384 : List Byte → BitVec 384
/-- HKDF-SHA-384 with salt, input keying material and information string, first 32 bytes (33 R326). -/
opaque hkdf : List Byte → List Byte → List Byte → BitVec 256
/-- HKDF-SHA-384 with the same inputs, first 48 bytes (33 R323). -/
opaque hkdf48 : List Byte → List Byte → List Byte → BitVec 384
/-- The response of a die's physically unclonable function (33 R323). -/
opaque puf : Nat → List Byte
/-- The identity key of a die: HKDF-SHA-384 of that response with the information string "VRM8-ID" (33 R323). -/
def identityKey (die : Nat) : BitVec 384 :=
  hkdf48 (List.replicate 48 0) (puf die) ("VRM8-ID".toList.map (fun c => BitVec.ofNat 8 c.toNat))
/-- ECDSA P-384 signature of a message under a key (33 R323, R324). -/
opaque sign : BitVec 384 → List Byte → List Byte
/-- The certificate chain carried in the signed image (33 R323). -/
opaque certChain : List Byte
/-- What an offset of the device registers that no map assigns reads as (41 R363): open. -/
opaque unassigned : Nat → Word
/-- AES-256-GCM encryption: key, nonce, associated data, plain text to cipher text and tag (25 R249). -/
opaque gcmSeal : BitVec 256 → BitVec 96 → List Byte → List Byte → List Byte × BitVec 128
/-- AES-256-GCM decryption: none when the tag fails (25 R249, R250). -/
opaque gcmOpen : BitVec 256 → BitVec 96 → List Byte → List Byte → BitVec 128 → Option (List Byte)
/-- The queue occupancy of an output (25 R240): a port or global link number to its occupancy at a moment. -/
opaque occupancy : Nat → Nat → Nat
/-- The wiring of the pod (25 R236): the package at the other end of a global link of a package. -/
opaque linkPeer : Nat → Nat → Nat
/-- Slots of a link's receive buffer for one virtual channel and hop class (25 R246): the spec gives no number. -/
opaque linkBuffer : Nat

/-- Whether a home meeting in another package, by its home word, has BCAST set (33 R317): only that package holds it. -/
opaque homeBcast : Nat → Bool

end Config
end Sys2Proof
end

