-- ==== Sys2Proof/Machine/State.lean ====
section
/-! DEFINITION. The state of one package, as plain data, and the state after power-on reset (INVENTORY.md, State). -/

namespace Sys2Proof.Machine

/-- Sparse words by key: keys strictly rising, no zero word listed; an unlisted key reads zero. -/
abbrev Store (w : Nat) := List (Nat × BitVec w)
/-- Every byte of the package (43 R378: zeros at power-on), by the memory keys of Machine/Ops.lean. -/
abbrev Memory := List Host.Cell
/-- Sparse records by key, keys strictly rising. -/
abbrev Tab (α : Type) := List (Nat × α)

/-- The levels of the machine (01 R10). -/
inductive Level where
  | tile | group | die | package | pod
  deriving DecidableEq, Repr

/-- Why an instruction holds its sequencer (03 R23, 05 R382, 35 R341): its PC stays at it. -/
inductive Hold where
  /-- A wait (23 R225) with its descriptor of 03 R22 and the clk at which R23 may suspend it. -/
  | wait (desc : Word) (until_ : Nat)
  /-- WFE (35 R340): the clk at which it completes by itself, and whether its event has come. -/
  | wfe (deadline : Nat) (woken : Bool)
  /-- A vector load pushed and not yet read (15 R149 step 4). -/
  | vectorLoad
  /-- SPAWN with its spill area taken, waiting for a record slot (23 R234); `again`: to be tried again. -/
  | spawn (area : Nat) (again : Bool)
  /-- XFEN with the posted count of its context at issue (27 R269); `again`: to be tried again. -/
  | fence (n : Word) (again : Bool)
  /-- Any other hold: space in a queue or buffer, a fence, a fill, a claim, a configuration wait. -/
  | other
  deriving DecidableEq, Repr

/-- A sequencer with this hold, or none, executes the instruction at its PC when its turn comes. -/
def Hold.goesOn : Option Hold → Bool
  | none => true
  | some (.spawn _ a) => a
  | some (.fence _ a) => a
  | some _ => false

/-- Where an access arrives once its checks have passed. -/
inductive Path where
  /-- Performed at once: own tile SRAM, signal accesses and atomics (03 R29, 23 R216, R218). -/
  | now
  /-- Staged to the barrier of a level and unit of the launch (03 R29). -/
  | staged (lv : Level) (unit : Nat)
  /-- A page of ATTR 2, in program order (19 R194). -/
  | device
  /-- The package's device registers (19 R194), at an offset. -/
  | register (off : Nat)
  deriving DecidableEq, Repr

/-- A checked target: the memory key of its first byte, or for a lens element the bit offset within its tile (07 R73). -/
structure Target where
  key : Nat
  path : Path
  /-- 0 raw; n: an element of lens window n. -/
  lens : Nat
  /-- The raw bit offset of the element of a lens access. -/
  bit : Nat
  /-- The address as the instruction names it. -/
  addr : Word
  deriving DecidableEq, Repr

/-- A message in flight (23 R227). -/
structure Message where
  id : Nat
  lnum : Nat
  sender : Nat
  fromTile : Nat
  toTile : Nat
  off : Nat
  mcn : Nat
  sec : Bool
  data : List Byte
  deriving DecidableEq, Repr

/-- What a held access does (19 R198): a plain store, a signal store of an order, or a release by another rule that is held with them: a
message, one more now-serving of a ticket dispenser of a group, slots of a tile's channel filled or freed. -/
inductive HeldKind where
  | store
  | signal (o : BitVec 2)
  | message (m : Message)
  | ticket (grp dispenser : Nat)
  | slots (tile chan n : Nat) (filled : Bool)
  deriving DecidableEq, Repr

/-- An access that a translation station holds after a fault (19 R198): its address and bytes. -/
structure HeldAcc where
  addr : Word
  bytes : List Byte
  /-- The half of its one byte that a 4-bit element stores, true the high one (07 R66, R78); none: whole bytes. -/
  nib : Option Bool
  kind : HeldKind
  /-- Its target, where no station translates it again. -/
  at_ : Option Target
  /-- Its store number in program order (37 R348). -/
  no : Nat
  /-- The epoch it was stamped with (19 R200); so in the records below. -/
  ep : Word
  deriving DecidableEq, Repr

/-- A store held for commit (21 R203), with its place in the commit order (37 R348). -/
structure Staged where
  lnum : Nat
  key : Nat
  bytes : List Byte
  /-- As in HeldAcc. -/
  nib : Option Bool
  addr : Word
  lv : Level
  unit : Nat
  /-- Superstep field 1 of R348: package, die, home group and tile, role. -/
  place : Nat
  ts : Word
  seqNo : Nat
  party : Nat
  /-- Units of the issuer at group, die and package, for what an abort discards (03 R38). -/
  grp : Nat
  /-- Deferred by an outer exchange to the compute phase of that level (39 R357); tile: a store that a station holds (19 R198). -/
  deferred : Option Level
  /-- Superstep counters of group, die, package and pod when it was staged (03 R38). -/
  steps : List Word
  ep : Word
  /-- Holds an uncorrectable error (03 R36, 43 R372). -/
  bad : Bool
  deriving DecidableEq, Repr

/-- An early-path write of the current superstep, for DETSTAT.ORDDEP (21 R204, 23 R222). -/
structure Early where
  lnum : Nat
  key : Nat
  len : Nat
  party : Nat
  /-- 0 other, 1 STSG, 2 AMOFADD. -/
  kind : Nat
  lv : Level
  unit : Nat
  count : Word
  deriving DecidableEq, Repr

/-- The vector operand b: a register, or the scalar read at push (15 R155). -/
inductive VSrc where
  | vec (n : BitVec 5)
  | sca (v : Word)
  deriving DecidableEq, Repr

/-- The lane functions of VOP and VOPS (15 R152, R153). -/
inductive LaneFn where
  | addF | subF | mulF | divF | sqrtF | fmaF | fmsF | minF | maxF | absF | negF | classF
  | addI | subI | mulI | mulhI | mulhN | minI | maxI | minN | maxN
  | and | or | xor | sll | srl | sra | mov | second
  | cvtFI | cvtFN | cvtIF | cvtNF
  deriving DecidableEq, Repr

/-- The compares (15 R154). -/
inductive CmpFn where
  | eqF | ltF | leF | unF | eqI | ltI | ltN
  deriving DecidableEq, Repr

/-- The reductions (15 R158). -/
inductive RedFn where
  | addF | addI | minF | maxF | minI | maxI | minN | maxN | and | or | xor
  deriving DecidableEq, Repr

/-- The permutes (15 R159). -/
inductive PermFn where
  | perm | sldu | sldd | rev | zip | uzp | bcast
  deriving DecidableEq, Repr

/-- The mask operations that are pushed (15 R160). -/
inductive MaskFn where
  | and | or | xor | not
  deriving DecidableEq, Repr

/-- What a queued vector instruction does when it is bound (15 R148). -/
inductive VOp where
  | lane (f : LaneFn) (d a : BitVec 5) (b : VSrc) (k : BitVec 3)
  | cmp (f : CmpFn) (d : BitVec 3) (a : BitVec 5) (b : VSrc) (k : BitVec 3)
  | sel (d a b : BitVec 5) (k : BitVec 3)
  | insl (d : BitVec 5) (at_ : Word) (v : Lane)
  | red (f : RedFn) (d a : BitVec 5) (k : BitVec 3)
  | scan (d a : BitVec 5) (k : BitVec 3)
  | perm (f : PermFn) (d a : BitVec 5) (b : VSrc) (k : BitVec 3)
  | comp (d a : BitVec 5) (k : BitVec 3)
  | mask (f : MaskFn) (d a b : BitVec 3)
  | fromX (d : BitVec 3) (v : Word)
  | enc (d a : BitVec 5) (desc : Lane) (k : BitVec 3)
  | dec (d a : BitVec 5) (desc : Lane) (k : BitVec 3)
  | gen (d : BitVec 5) (k : BitVec 3)
  | load (d : BitVec 5) (lanes : List (Nat × Target))
  | store (d : BitVec 5) (lanes : List (Nat × Target))
  deriving DecidableEq, Repr

/-- A vector instruction in a queue with what it took at push (15 R148). -/
structure VEntry where
  op : VOp
  vl : Nat
  rm : Nat
  ftz : Bool
  lens : Store 32
  lscl : Store 64
  /-- The counter of its first random block, and whether blocks were drawn (15 R167). -/
  ctr : Nat
  drawn : Bool
  key : BitVec 64
  deriving DecidableEq, Repr

/-- A matrix command that is queued (17 R172). -/
inductive MOp where
  | rel (u : Nat)
  | fil (s : Nat) (addr : Word)
  | fts (s : Nat) (word : Word)
  | mma (c a b : Nat)
  | mmat (c a b : Nat)
  | mopr (c a b : Nat)
  | mza (c : Nat)
  | drn (c : Nat) (addr : Word)
  deriving DecidableEq, Repr

/-- A tensor-store handle's binding (27 R272). -/
structure Handle where
  desc : Lane
  first : Nat
  count : Nat
  rows : Nat
  cols : Nat
  base : Nat
  lnum : Nat
  /-- The tree that holds it (29 R277). -/
  tree : Option Nat
  deriving DecidableEq, Repr

/-- An accepted matrix command with what it captured (17 R173). -/
structure MEntry where
  op : MOp
  wait : BitVec 8
  set : Option Nat
  pc : Word
  party : Nat
  slot : Nat
  lnum : Nat
  sec : Bool
  desc : Lane
  scale : Word
  stride : Int
  orws : Word
  dkey : Word
  dctr : Nat
  tagA : Lane
  tagB : Lane
  hdl : Option Handle
  /-- The die exchange that an MFTS belongs to, or none when it waits for one (17 R178). -/
  exch : Bool
  order : Nat
  /-- Dispatched and not yet retired; the clk at which its unit has done it. -/
  running : Bool
  until_ : Nat
  /-- Flags of a drain for FFLAGS (17 R181). -/
  flags : BitVec 5
  /-- Bytes, as they were, that its sequencer's later stores have changed before it was dispatched (17 R185). -/
  shadow : Memory
  /-- Those of these bytes that lay in a unit in error (43 R372). -/
  shadowBad : List Nat
  deriving DecidableEq, Repr

/-- One continuation's architectural state (35 R343; INVENTORY.md). -/
structure Cont where
  pc : Word
  gpr : Store 64
  /-- Resident caller windows: register r of the window at depth d under key 32*d + r (13 R124). -/
  wins : Store 64
  /-- The control and status registers that travel with the continuation, by number (35 R336). -/
  csr : Store 64
  /-- Lane i of v_n under key 64*n + i (15 R147). -/
  vreg : Store 32
  mreg : Store 64
  /-- The engine's bank registers by REG number (17 R183). -/
  bank : Store 64
  tok : Store 8
  lnum : Nat
  /-- Its record slot, and its home tile within the package (STHT's die, group, tile). -/
  slot : Nat
  home : BitVec 14
  role : BitVec 2
  pin : Bool
  fix : Bool
  sec : Bool
  ts : Word
  spill : Word
  vsa : Word
  uword : Word
  stage : BitVec 8
  /-- The party's number: the model's own identity of a continuation. -/
  party : Nat
  /-- Level counters when it was created, for who must arrive (03 R41): none for a placed one. -/
  born : List (Level × Word)
  spawnCount : Nat
  spawnAt : Word
  pend : Option (BitVec 8 × Word)
  pendMore : List (BitVec 8 × Word)
  heldAcc : List HeldAcc
  /-- How many of them, from the first, belong to faults whose trap has been taken: they wait for RFE alone (19 R198). -/
  handled : Nat
  /-- A station fault not yet signalled: cause and address (19 R198). -/
  fault : Option (BitVec 8 × Word)
  noBreak : Bool
  /-- CYCLE is clk minus this while running (35 R337). -/
  cycleBase : Nat
  /-- Number of its next store in program order (37 R348). -/
  storeNo : Nat
  deriving DecidableEq, Repr

/-- What a sequencer is doing (03 R23). -/
inductive SeqMode where
  | idle
  | run
  /-- Stopped, its record not yet written back; the wait descriptor, and whether its launch is revoked. -/
  | writeBack (wait : Word)
  deriving DecidableEq, Repr

/-- One sequencer (01 R12). -/
structure Seq where
  mode : SeqMode
  k : Cont
  hold : Option Hold
  lwgt : Word
  whold : Word
  /-- A pre-emption request names its continuation (35 R341). -/
  stop : Bool
  vq : List VEntry
  mq : List MEntry
  /-- Hidden counts by launch number (03 R48). -/
  sent : Store 64
  received : Store 64
  deriving DecidableEq, Repr

/-- A channel (03 R43). -/
structure Chan where
  base : Nat
  size : Nat
  count : Nat
  filled : Nat
  free : Nat
  pptr : Nat
  cptr : Nat
  deriving DecidableEq, Repr

/-- The holder of a claimed unit (17 R169): party, launch, and whether a release is pending. -/
structure Owner where
  party : Nat
  lnum : Nat
  releasing : Bool
  deriving DecidableEq, Repr

/-- One tile's state outside its memory (01 R12, 17 R168). Primary sets come first; secondary sets add 16, 8 and so on. -/
structure Tile where
  mc : Store 48
  chan : Tab Chan
  dslot : BitVec 8
  dslotSec : BitVec 8
  tag : Store 32
  accTag : Store 32
  code : Store 16
  scale : Store 8
  acc : Store 32
  aflg : Store 8
  owner : Tab Owner
  /-- Where an uncorrectable error is (43 R372, log 123): 32 * n + r in the codes of row r of slot n, 256 more in its scale bytes, 512 + c in
accumulator c. -/
  badUnit : List Nat
  deficit : List Int
  ptr : Nat
  busy : Tab Nat
  deriving DecidableEq, Repr

/-- What the group keeps beside a record slot (27 R254) and the model's own marks of a parked continuation. -/
structure Side where
  party : Nat
  tok : Store 8
  born : List (Level × Word)
  spawnCount : Nat
  spawnAt : Word
  readyAt : Nat
  pendMore : List (BitVec 8 × Word)
  heldAcc : List HeldAcc
  handled : Nat
  fault : Option (BitVec 8 × Word)
  noBreak : Bool
  storeNo : Nat
  /-- CODE of CAUSE as it was saved. -/
  code : BitVec 8
  deriving DecidableEq, Repr

/-- One accepted spill not yet written out (13 R129): party, space, address and doublewords. -/
structure Spill where
  party : Nat
  space : Nat
  sq : Nat
  addr : Word
  data : List Word
  deriving DecidableEq, Repr

/-- A signature command that is queued (31 R298). -/
inductive SgOp where
  | inc (n : Nat)
  | join (side : Bool) (n : Nat)
  | log
  | rd
  | clr
  deriving DecidableEq, Repr

structure SgCmd where
  op : SgOp
  addr : Word
  tile : Nat
  party : Nat
  ctx : Nat
  num : Word
  /-- The group superstep in whose exchange it runs, when it reaches group memory (31 R300). -/
  step : Option Word
  ep : Word
  deriving DecidableEq, Repr

/-- A group's signature accumulator (31 R293); level k's element I under key 65536*k + I. -/
structure Sig where
  held : Option Nat
  lead : Nat
  team : Bool
  d : Nat
  m : Nat
  lev : Store 32
  flags : BitVec 5
  count : Word
  mismatch : Bool
  failed : Bool
  /-- The group's level store holds an uncorrectable error (31 R307). -/
  badStore : Bool
  queue : List SgCmd
  deriving DecidableEq, Repr

/-- A meeting command that is queued (33 R312). -/
inductive QmOp where
  | join (tag : BitVec 32) (member : BitVec 11)
  | recRead (tag : BitVec 32)
  | recForce (tag : BitVec 32)
  deriving DecidableEq, Repr

structure QmCmd where
  op : QmOp
  addr : Word
  tile : Nat
  party : Nat
  ctx : Nat
  num : Word
  /-- Delivered, waiting for the home's decision; the status that a transport failure has given it. -/
  sent : Bool
  status : Nat
  ep : Word
  deriving DecidableEq, Repr

/-- A round's record (33 R318). -/
structure QmRec where
  tag : Nat
  pres : Nat
  late : Nat
  forced : Bool
  refused : Nat
  dropped : Nat
  mask : List Nat
  lag : Tab Nat
  deriving DecidableEq, Repr

/-- A meeting (33 R309-R320). Contributions are held as (member, tag, elements). -/
structure Meeting where
  lnum : Nat
  space : Nat
  home : Bool
  len : Nat
  n : Nat
  quorum : Nat
  lambda : Lane
  open_ : Nat
  resKey : Nat
  work : Word
  link : BitVec 64
  replay : Bool
  bcast : Bool
  members : List (BitVec 32)
  onTime : List (Nat × Nat × List Lane)
  late : List (Nat × Nat × List Lane)
  /-- Late ones held back for the next round, and contributions for round open + 1. -/
  back : List (Nat × Nat × List Lane)
  next : List (Nat × Nat × List Lane)
  /-- (member, tag) already counted or folded. -/
  done : List (Nat × Nat)
  excluded : List Nat
  senders : Tab Nat
  lagDrop : List Nat
  refused : Nat
  dropped : Nat
  records : List QmRec
  forced : List QmRec
  failed : Option Nat
  badWork : Bool
  queue : List QmCmd
  deriving DecidableEq, Repr

/-- One group (01 R13). Ticket dispenser n: next under key 2n, now-serving under key 2n + 1; the secondary set adds 128. -/
structure Group where
  tick : Store 48
  side : Tab Side
  spills : List Spill
  sig : Sig
  meet : Tab Meeting
  deriving DecidableEq, Repr

/-- The fields of a parameter block (27 R255-R257). -/
structure Block where
  kind : Nat
  ndim : Nat
  esz : Nat
  sk : Nat
  dk : Nat
  tls : Nat
  scope : Nat
  rop : Nat
  of : Bool
  spx : Bool
  sig : Bool
  lanes : Nat
  ret : Bool
  mcn : Nat
  rdir : Nat
  rpkg : Nat
  lwin : Nat
  mb : Bool
  mboff : Nat
  src : Word
  dst : Word
  ext : List Nat
  ss : List Int
  ds : List Int
  colmask : BitVec 64
  rowmask : BitVec 32
  deriving DecidableEq, Repr

/-- What a posted operation does (27 R260, R273). -/
inductive CopyOp where
  | block (b : Block)
  | tsz (h : Handle) (first count : Nat)
  | tsc (h : Handle) (first count : Nat) (h2 : Handle) (first2 : Nat)
  | tscmp (h : Handle) (first count : Nat) (h2 : Handle) (first2 : Nat) (hid : Nat)
  deriving DecidableEq, Repr

/-- How far a posted operation has come (27 R254, R263). -/
inductive CopySt where
  | waiting
  /-- Its source has been read: elements as (index, bytes), and its remote packets' OSEQ values still out. -/
  | started (data : List (Nat × List Byte)) (out : List (BitVec 32))
  deriving DecidableEq, Repr

/-- A posted operation of a die (27 R252, R265). -/
structure Copy where
  id : Nat
  eng : Nat
  op : CopyOp
  ctx : Nat
  num : Word
  tok : Option Nat
  party : Nat
  sq : Nat
  lnum : Nat
  space : Nat
  sec : Bool
  tile : Nat
  home : BitVec 14
  level : Level
  desc : Lane
  hsrc : Option Handle
  hdst : Option Handle
  /-- The exchanges that it belongs to (03 R28, 21 R205, 39 R355): levels, and their superstep counters. -/
  joins : List (Level × Word)
  /-- The level in whose exchange phase alone its source may be read (03 R28, 21 R205). -/
  exch : Option Level
  st : CopySt
  status : Nat
  /-- SIZE of the issuer's PWSIZE at posting (19 R191). -/
  psz : Nat
  /-- Destination tiles that SIG counts (27 R263). -/
  dests : List Nat
  /-- Packets formed and not yet sent, with the elements they serve (28 R276), and how many have been formed. -/
  unsent : List (Packet × List Nat)
  /-- A copy of RDIR 1 that SIG completes has sent its signals (27 R263). -/
  signalled : Bool
  /-- Posted while a station held accesses of its issuer: it starts once they have been replayed (19 R198, 21 R210). -/
  held : Bool
  ep : Word
  deriving DecidableEq, Repr

/-- The status record of an engine context (27 R269). -/
structure CtxStatus where
  first : Word
  code : Nat
  errs : Nat
  cmp : Word
  cmpf : Word
  deriving DecidableEq, Repr

/-- A cached translation (19 R195): station, space, base page, size in bits, leaf entry. -/
structure Tlb where
  station : Nat
  space : Nat
  page : Nat
  bits : Nat
  leaf : Word
  deriving DecidableEq, Repr

/-- A partition's state (41 R371). -/
inductive Part where
  | online | draining | offline | testing | failed
  deriving DecidableEq, Repr

inductive PrOp where
  | put (n : Nat)
  | upd (n : Nat)
  | draw (b : Nat) (src : Nat) (uoff : Nat) (ctr : Nat) (out : Word)
  | wt (n : Nat)
  | sum
  deriving DecidableEq, Repr

structure PrCmd where
  op : PrOp
  addr : Word
  tile : Nat
  home : BitVec 14
  role : BitVec 2
  ts : Word
  party : Nat
  ctx : Nat
  num : Word
  beta : Lane
  key : Word
  order : Nat
  /-- The die superstep in whose exchange it runs (29 R283). -/
  step : Word
  ep : Word
  deriving DecidableEq, Repr

/-- A staged tree record (29 R286): leaf, generation, priority, and its sort key. -/
structure PrStaged where
  put : Bool
  leaf : Nat
  gen : BitVec 16
  prio : Lane
  place : Nat
  ts : Word
  order : Nat
  idx : Nat
  deriving DecidableEq, Repr

/-- A held tree (29 R277). Its priorities lie in the die's tensor store by its handle; here by leaf. -/
structure Tree where
  lnum : Nat
  hid : Nat
  /-- The binding of its handle, which its commands keep after PRCLR has freed it (29 R285, 41 R371). -/
  hdl : Option Handle
  nleaf : Nat
  beta : Lane
  key : Word
  prio : Store 32
  gen : Store 16
  staged : List PrStaged
  stale : Nat
  refused : Nat
  refusedSt : Nat
  /-- The marks of PRCLR on it (29 R285): place and timestamp of the continuations that set them. -/
  clrBy : List (Nat × Word)
  failed : Bool
  /-- Its record holds an uncorrectable error, beside those of its handle's units (29 R291). -/
  badStore : Bool
  queue : List PrCmd
  deriving DecidableEq, Repr

/-- A parameter block cached by an engine (27 R266). -/
structure Cached where
  eng : Nat
  space : Nat
  addr : Word
  key : Nat
  data : List Byte
  deriving DecidableEq, Repr

/-- One die (01 R14). -/
structure Die where
  posted : Store 64
  timeline : Store 64
  status : Tab CtxStatus
  copies : List Copy
  nextId : Nat
  handles : Tab Handle
  /-- Bindings of live launches that have been undone: their slots are zeroed when the launch ends (27 R272). -/
  unbound : List Handle
  parts : Tab Part
  tlb : List Tlb
  cache : List Cached
  trees : Tab Tree
  /-- Trees that a PRCLR has freed, whose commands accepted before the release are still to execute (29 R285), oldest first. -/
  leaving : List (Nat × Tree)
  prQlim : Nat
  sgQlim : Nat
  deriving DecidableEq, Repr

/-- A landing zone (03 R26, 41 R366): level, memory code, start or handle, size or count. -/
structure Zone where
  lv : Level
  memory : Nat
  start : Nat
  size : Nat
  deriving DecidableEq, Repr

/-- A live launch and its attributes (03 R26, 41 R365). -/
structure Launch where
  space : Nat
  domain : Nat
  job : Nat
  secondary : Bool
  prim : Nat
  /-- The primary launch that it was bound to has ended (05 R51): a later launch of that number is another one (log 177). -/
  orphan : Bool
  /-- Footprint tiles, as package tile numbers, ascending. -/
  foot : List Nat
  /-- It spans packages (R27). -/
  pods : Bool
  barOps : List Nat
  abcont : BitVec 3
  det : Bool
  detstat : BitVec 3
  detaddr : Word
  zones : List Zone
  shBase : Nat
  shSize : Nat
  gsBase : Nat
  gsSize : Nat
  rtent : Word
  entries : List (Word × Nat × Word)
  stage : BitVec 8
  lens : Store 32
  lscl : Store 64
  param : Word
  paramSize : Nat
  textBase : Word
  textSize : Nat
  /-- The text as it stood at placement, by offset in the text (11 R107). -/
  text : Tab (List Byte)
  image : Word
  poolBase : Word
  poolSize : Nat
  areaSize : Nat
  /-- Areas of the pool in use. -/
  areas : List Nat
  /-- The static schedule as placement found it: by stage, the blocks of its list (27 R267). -/
  sched : Tab (List (List Byte))
  /-- Stage counters by die (27 R267). -/
  stageCtr : Store 48
  compl : Word
  queue : Nat
  /-- The host function that owns the launch's queue (35 R346). -/
  function : Nat
  placed : Bool
  acceptedAt : Nat
  suspended : Bool
  /-- Halted (35 R333): its completion status and words, and the waiting records discarded; it ends once its copies and commands have. -/
  halted : Option (Nat × List Word × Nat)
  /-- A shaped footprint (05 R50): dies, groups per die, tile mask; none: explicit. -/
  shape : Option (Nat × Nat × Nat)
  /-- Offset in the image and size of the tile, group, parameter, landing and schedule parts (41 R366). -/
  parts : List (Nat × Nat)
  sweep : Option (Word × Word)
  /-- The clk of its next sweep (03 R48, 05 R65). -/
  nextSweep : Nat
  /-- Codes raised by hardware (03 R36), taken into an arrival: barrier level and unit, its member (none: the combined code), code. -/
  hwCodes : List (Level × Nat × Option Nat × Nat)
  /-- Periscope buffer and size, and the length of the record log when the host enabled it (35 R346). -/
  scope : Option (Word × Nat)
  scopeFrom : Nat
  deriving DecidableEq, Repr

/-- An arrival of one continuation standing in the current superstep (03 R41). -/
structure ContArr where
  party : Nat
  member : Nat
  ts : Word
  value : Word
  code : Nat
  /-- It ended by DONE without arriving: an absent leaf. -/
  ended : Bool
  /-- Inner supersteps in which the same BARA arrived: they release first (03 R30). -/
  under : List (Level × Word)
  deriving DecidableEq, Repr

/-- An escalation of a unit (03 R38, 40 R361): the containing level, the code, the superstep that the unit's release opened, C's
superstep in which the unit's node arrived, and the continuations whose BARA at C it still answers. -/
structure Escalation where
  level : Level
  code : Nat
  opened : Word
  ref : Word
  owed : List Nat
  deriving DecidableEq, Repr

/-- A barrier unit of a launch (03 R28-R41). -/
structure Bar where
  count : Word
  exch : Bool
  /-- Members that have executed EXEND, by 48 * group + 3 * tile + role. -/
  exend : List Nat
  /-- Other packages that have executed EXEND at the pod (39 R355). -/
  farExend : List Nat
  arrs : List ContArr
  /-- Members' arrivals sent: member, value, code. -/
  members : Tab (Word × Nat)
  /-- The escalation of the unit's latest aborted release (03 R38). -/
  esc : Option Escalation
  /-- An escalation that passed this unit's node on its way to C: C and its superstep. -/
  carried : Option (Level × Word)
  /-- The value and code of the latest release. -/
  relValue : Word
  relCode : Nat
  relLevel : Nat
  relEsc : Bool
  /-- Ranges that copies of the open exchange have read: key, length, issuer's group (21 R205, 39 R357). -/
  reads : List (Nat × Nat × Nat)
  /-- Bytes as the open exchange reads them (21 R205), where the commit of a group or unit inside has changed them since: level and unit of
  the commit, key, byte. -/
  before : List (Level × Nat × Nat × Byte)
  deriving DecidableEq, Repr

/-- A launch queue (41 R364). -/
structure Queue where
  cls : Nat
  base : Word
  n : Nat
  hbm : Bool
  function : Nat
  space : Nat
  head : Word
  read : Nat
  stopped : Bool
  deriving DecidableEq, Repr

/-- A space (41 R369): root table, tensor-store allotment. -/
structure Space where
  root : Nat
  parts : BitVec 64
  bytes : Nat
  deriving DecidableEq, Repr

/-- An unacknowledged packet of a source context (25 R243), its payload in plain text. -/
structure OutPacket where
  lnum : Nat
  die : Nat
  /-- The copy that it belongs to; none: a meeting's contribution, its group, meeting and number in `elems`. -/
  copy : Option Nat
  packet : Packet
  tries : Nat
  /-- A busy acknowledgement asked for a resend that costs no try. -/
  busy : Bool
  /-- The clk of its latest sending. -/
  at_ : Nat
  /-- Elements that a read request or atomic returns to. -/
  elems : List Nat
  deriving DecidableEq, Repr

/-- What a target keeps for one source context (25 R242, R243): OSEQ values counted without their wrap in `highest` and `marks`, as they
stand in the header in `returns` and `outcomes`. -/
structure SrcCtx where
  highest : Nat
  marks : List Nat
  returns : Tab (List Byte)
  /-- Outcomes other than 0, by OSEQ. -/
  outcomes : Tab Nat
  accepted : List Nat
  expect : List Nat
  /-- Accepted packets that are still to be performed, with their epochs: ordered flags (R242), and packets that the target's phases hold
  (03 R32, 39 R358). -/
  flags : List (Word × Packet)
  deriving DecidableEq, Repr

/-- A path from this package (25 R240): VIA, 0xFF for minimal, and the port that it leaves by. -/
structure Route where
  via : Nat
  port : Nat
  deriving DecidableEq, Repr

/-- A reduction window (25 R247, R248). -/
structure Window where
  op : Nat
  homePkg : Nat
  n : Nat
  space : Nat
  base : Word
  size : Nat
  members : List Nat
  round : Nat
  contribs : List (Word × Packet)
  /-- The route of this package's contributions, fixed when the window was declared; none: none was up. -/
  route : Option Route
  /-- Rounds that have been delivered whole, and elements delivered of rounds that are still open: (round, address). -/
  delivered : List Nat
  done : List (Nat × Nat)
  deriving DecidableEq, Repr

/-- A flit in a link buffer (25 R237): its channel 4 * virtual channel + hop class, its sequence number, and its packet's identity. -/
structure Flit where
  chan : Nat
  seq : Nat
  src : BitVec 16
  ctx : BitVec 16
  dst : BitVec 16
  oseq : BitVec 32
  deriving DecidableEq, Repr

/-- A link (25 R237, R246). -/
structure Link where
  up : Bool
  /-- The clk of the latest valid flit or beat on it, and of the latest flit or beat that this package sent. -/
  last : Nat
  sentAt : Nat
  /-- The sequence number of its next flit; that of the flit whose CRC failed last, and how often in a row. -/
  seq : Nat
  failSeq : BitVec 16
  replays : Nat
  /-- Slot counts by channel since training: sent, freed by the neighbour, freed here, and the last of these told to it. -/
  sent : Store 16
  freed : Store 16
  mine : Store 16
  told : Store 16
  /-- Packets that wait, with the flits of each that have left; the link buffer; and the channel of VC0-VC2 served last. -/
  queue : List (Packet × Nat)
  buf : List Flit
  turn : Nat
  deriving DecidableEq, Repr

/-- An enclave (33 R325-R327, 25 R250). -/
structure Enclave where
  members : List Nat
  gen : Nat
  secret : BitVec 384
  oldGen : Option (Nat × BitVec 384 × List Nat)
  /-- Packages that generations have excluded. -/
  excluded : List Nat
  /-- Revocations that wait for the next rotation (33 R327). -/
  waiting : List Nat
  /-- Acknowledgements of rotations, as 2048 * generation + package, and the clk of the latest rotation (25 R250). -/
  acked : List Nat
  rotatedAt : Nat
  pkts : Store 64
  deriving DecidableEq, Repr

/-- A TDI's state (41 R362). -/
inductive Tdi where
  | unlocked | locked | run | error
  deriving DecidableEq, Repr

/-- An SPDM message leaving the security controller (33 R324): a response, or a request to another package's controller. Its code name, its
session, the peer over the fabric (none: PCIe DOE), its body, and, in a session, the same as a secured message. -/
structure SpdmResponse where
  name : String
  session : Option (BitVec 32)
  peer : Option (BitVec 11)
  body : List Byte
  secured : List Byte
  deriving DecidableEq, Repr

/-- A periscope record (35 R346): launch, clk, COORD, kind, its two values, the function it goes to, and where in its buffer; none:
dropped. -/
structure ScopeEntry where
  lnum : Nat
  clk : Word
  coord : Word
  kind : Nat
  v : Word
  w : Word
  function : Nat
  addr : Option Word
  deriving DecidableEq, Repr

/-- A tracking entry of corrected errors (43 R374). -/
structure Track where
  loc : Nat
  stamps : List Nat
  deriving DecidableEq, Repr

/-- What an admin command whose completion comes later waits for (41 R371, 33 R328). -/
inductive AdminJob where
  | none
  | drain (die part : Nat)
  /-- With the repair log's address and capacity. -/
  | test (die part : Nat) (log : Word) (cap : Nat)
  | revoke (domain : Nat)
  deriving DecidableEq, Repr

/-- An admin command that has been read: its entry index, what it waits for, and its status and result once they are known. -/
structure AdminWait where
  index : Nat
  job : AdminJob
  done : Option (Nat × Word)
  deriving DecidableEq, Repr

/-- An event of the schedule: which step the machine takes next. -/
inductive Ev where
  /-- The focused sequencer executes its next instruction. -/
  | run
  /-- The focus moves to a sequencer. -/
  | focus (sq : Nat)
  /-- A step of the table. -/
  | ev (i : Instr)
  deriving DecidableEq, Repr

/-- The state of one package. -/
structure State where
  /-- The focused sequencer, 3 * tile + role, and its state; the others are in `seqs`. -/
  cur : Nat
  q : Seq
  seqs : Tab Seq
  tiles : Tab Tile
  groups : Tab Group
  dies : Tab Die
  mem : Memory
  /-- 64-bit units of memory with an uncorrectable error (43 R372), by key / 8. -/
  bad : List Nat
  /-- Bytes of placed text that the host has rewritten, by key (11 R107); no step of the table is the host's (log 122). -/
  rewritten : List Nat
  staged : List Staged
  early : List Early
  launches : Tab Launch
  /-- Launches accepted and waiting for placement, oldest first (05 R52). -/
  accepted : List Nat
  /-- A launch waiting longer than PLWAIT (05 R52). -/
  plHalt : Option Nat
  bars : Tab Bar
  msgs : List Message
  /-- Messages whose payload has been read and that wait for an earlier access of their sender to be performed (21 R209, 23 R227). -/
  queued : List Message
  nextMsg : Nat
  nextParty : Nat
  nextOrder : Nat
  queues : Tab Queue
  /-- The queue served last in each class (05 R49). -/
  turn : Store 8
  spaces : Tab Space
  jobs : Tab (List Nat)
  jobSpaces : List (Nat × Nat × Nat)
  adminRead : Nat
  /-- Admin commands whose completion is still to be written, in entry order (41 R369). -/
  adminOut : List AdminWait
  /-- Records that the package has written for the host, by address: heads, completions, logs, reports (41). -/
  hostOut : List (Word × List Byte)
  /-- Device registers by BAR0 offset (41 R363). -/
  dev : Store 64
  form : Form
  dgrp : BitVec 6
  pkg : BitVec 5
  bootStep : Nat
  powered : Bool
  /-- Packets sent and not yet acknowledged, and every packet that left, newest last. -/
  out : List OutPacket
  sentPkts : List Packet
  oseq : Tab (BitVec 32)
  laneSeq : Store 16
  laneCnt : Store 16
  srcs : Tab SrcCtx
  windows : Tab Window
  links : Tab Link
  /-- The fabric map's rows of this dragonfly group (25 R236): the package at the end of global link f of package j, under 64 * j + f. -/
  fabricMap : Tab Nat
  /-- The clk of a flow's last packet and its path (25 R240), by the keys of Machine/Packets.lean. -/
  paths : Tab (Nat × Route)
  enclaves : Tab Enclave
  meas : Tab (BitVec 384)
  /-- SPDM sessions, and those whose KEY_EXCHANGE awaits its FINISH (33 R324). -/
  sessions : List (BitVec 32)
  handshakes : List (BitVec 32)
  /-- Keys of sessions and handshakes, with the count of messages secured under each. -/
  sessionKeys : Tab (BitVec 256 × Nat)
  /-- Sessions that this controller has opened as a requester, by the other package. -/
  asked : Tab (BitVec 32)
  algorithms : Bool
  spdmOut : List SpdmResponse
  ide : List (Nat × BitVec 256)
  tdi : Tab Tdi
  /-- Tracking entry i of a die under key 64 * die + i. -/
  tracks : Tab Track
  scopeLog : List ScopeEntry
  duty : Nat
  epoch : Word
  /-- The clk at which a junction reached its limit, while it has not been seen to cool (43 R377). -/
  hot : Option Nat
  clk : Nat
  /-- Number of the next free value (log 3). -/
  free : Nat
  agenda : List Ev
  deriving DecidableEq, Repr

/-- Why a step stops with a fault. -/
inductive Fault where
  /-- The package is powered off (33 R322: a signature failed; 43 R377): no step follows. Raised by step and by POWER_ON. Safe. -/
  | powerOff
  /-- An event names an object that does not exist or is not enabled in this state: the machine cannot take this step.
  Raised by the events. Safe: the schedule names a step that the hardware would not take. -/
  | notEnabled
  deriving DecidableEq, Repr

/-- Why a step is refused. -/
inductive Refusal where
  /-- The instruction has no meaning in this model. Safe. -/
  | notModelled (mnemonic : String)
  deriving DecidableEq, Repr

/-- A continuation before any record is picked: registers zero, VL 64 (log 2). -/
def Cont.reset : Cont where
  pc := 0
  gpr := []
  wins := []
  csr := [(0x020, 64)]
  vreg := []
  mreg := []
  bank := [(0x00, 0x80), (0x01, 0x80)]
  tok := []
  lnum := 0
  slot := 0
  home := 0
  role := 0
  pin := false
  fix := false
  sec := false
  ts := 0
  spill := 0
  vsa := 0
  uword := 0
  stage := 0
  party := 0
  born := []
  spawnCount := 0
  spawnAt := 0
  pend := none
  pendMore := []
  heldAcc := []
  handled := 0
  fault := none
  noBreak := false
  cycleBase := 0
  storeNo := 0

/-- LWGT's reset value by role (05 R61). -/
def lwgtReset (role : Nat) : Word :=
  match role with
  | 0 => 2
  | 1 => 4
  | _ => 8

/-- An idle sequencer of a role (03 R25). -/
def Seq.reset (role : Nat) : Seq where
  mode := .idle
  k := Cont.reset
  hold := none
  lwgt := lwgtReset role
  whold := 256
  stop := false
  vq := []
  mq := []
  sent := []
  received := []

def Tile.reset : Tile where
  mc := []
  chan := []
  dslot := 0xFF
  dslotSec := 0xFF
  tag := []
  accTag := []
  code := []
  scale := []
  acc := []
  aflg := []
  owner := []
  badUnit := []
  deficit := [0, 0, 0]
  ptr := 0
  busy := []

def Sig.reset : Sig where
  held := none
  lead := 0
  team := false
  d := 0
  m := 0
  lev := []
  flags := 0
  count := 0
  mismatch := false
  failed := false
  badStore := false
  queue := []

def Group.reset : Group where
  tick := []
  side := []
  spills := []
  sig := Sig.reset
  meet := []

def Die.reset : Die where
  posted := []
  timeline := []
  status := []
  copies := []
  nextId := 0
  handles := []
  unbound := []
  parts := []
  tlb := []
  cache := []
  trees := []
  leaving := []
  prQlim := 256
  sgQlim := 64

/-- Device registers with a reset value other than zero, by BAR0 offset (41 R363): SWPINT, PLWAIT (05 R65), FGAP, AKTO, RTRY
(25 R251), CEWIN and CETHR of die 0-7 (43 R375), PLIMIT (43 R376). -/
def devReset : Store 64 :=
  [(0x100000, 4096), (0x100008, 100), (0x200000, 1575), (0x200108, 21000), (0x200110, 8),
   (0x300000, 0x0000003C00000003), (0x301000, 0x0000003C00000003), (0x302000, 0x0000003C00000003),
   (0x303000, 0x0000003C00000003), (0x304000, 0x0000003C00000003), (0x305000, 0x0000003C00000003),
   (0x306000, 0x0000003C00000003), (0x307000, 0x0000003C00000003), (0x308000, 4000)]

/-- The package at power-on, before bring-up (43 R378), a V8M. -/
def State.reset : State where
  cur := 2
  q := Seq.reset 2
  seqs := []
  tiles := []
  groups := []
  dies := []
  mem := []
  bad := []
  rewritten := []
  staged := []
  early := []
  launches := []
  accepted := []
  plHalt := none
  bars := []
  msgs := []
  queued := []
  nextMsg := 0
  nextParty := 1
  nextOrder := 0
  queues := []
  turn := []
  spaces := []
  jobs := []
  jobSpaces := []
  adminRead := 0
  adminOut := []
  hostOut := []
  dev := devReset
  form := .v8m
  dgrp := 0
  pkg := 0
  bootStep := 0
  powered := true
  out := []
  sentPkts := []
  oseq := []
  laneSeq := []
  laneCnt := []
  srcs := []
  windows := []
  links := []
  fabricMap := []
  paths := []
  enclaves := []
  meas := []
  sessions := []
  handshakes := []
  sessionKeys := []
  asked := []
  algorithms := false
  spdmOut := []
  ide := []
  tdi := []
  tracks := []
  scopeLog := []
  duty := 16
  epoch := 0
  hot := none
  clk := 0
  free := 0
  agenda := []

end Sys2Proof.Machine
end

