-- ==== Sys2Proof/Machine/Base.lean ====
section
/-! DEFINITION. Stores and tables, the numbering of positions (01 R11), the memory keys, and the accessors of the state. -/

namespace Sys2Proof.Machine

/-! ## Stores -/

/-- Read a store: the word under a key, or zero. -/
def look {w : Nat} : Store w → Nat → BitVec w
  | [], _ => 0#w
  | (k', v) :: r, k => if k = k' then v else look r k

/-- Remove a word. -/
def without {w : Nat} : Store w → Nat → Store w
  | [], _ => []
  | (k', v) :: r, k => if k = k' then without r k else (k', v) :: without r k

/-- List a word under its key, keys rising. -/
def place {w : Nat} : Store w → Nat → BitVec w → Store w
  | [], k, v => [(k, v)]
  | (k', v') :: r, k, v =>
    if k < k' then (k, v) :: (k', v') :: r
    else if k = k' then (k, v) :: r
    else (k', v') :: place r k v

/-- Write a store, keeping its canonical form: a zero word removes its entry. -/
def put {w : Nat} (m : Store w) (k : Nat) (v : BitVec w) : Store w := if v = 0#w then without m k else place m k v

/-- The canonical form of a store: keys strictly rising from `lo`, no zero word. -/
def wfFrom {w : Nat} : Nat → Store w → Bool
  | _, [] => true
  | lo, (k, v) :: r => decide (lo ≤ k) && decide (v ≠ 0#w) && wfFrom (k + 1) r

/-- A store is canonical. -/
abbrev Store.wf {w : Nat} (m : Store w) : Bool := wfFrom 0 m

/-- Memory is canonical: addresses strictly rising, no entry equal to what an unlisted address reads as. -/
abbrev Memory.wf (m : Memory) : Bool := wfFrom (w := 8) 0 m

/-- Find a record. -/
def find? {α : Type} : Tab α → Nat → Option α
  | [], _ => none
  | (k', v) :: r, k => if k = k' then some v else find? r k

/-- Put a record under its key, keys rising. -/
def ins {α : Type} : Tab α → Nat → α → Tab α
  | [], k, v => [(k, v)]
  | (k', v') :: r, k, v =>
    if k < k' then (k, v) :: (k', v') :: r
    else if k = k' then (k, v) :: r
    else (k', v') :: ins r k v

/-- Remove a record. -/
def del {α : Type} (t : Tab α) (k : Nat) : Tab α := t.filter (fun p => decide (p.1 ≠ k))

/-! ## Bit fields and byte order (00 R7, 11 R122) -/

/-- bits(v, hi, lo) as a number. -/
def bits {w : Nat} (v : BitVec w) (hi lo : Nat) : Nat := v.toNat / 2 ^ lo % 2 ^ (hi + 1 - lo)
/-- One bit of a word. -/
def bit {w : Nat} (v : BitVec w) (n : Nat) : Bool := v.getLsbD n
/-- sext64(v, n). -/
def sext64 (v : Nat) (n : Nat) : Word := (BitVec.ofNat n v).signExtend 64
/-- v with bits [hi:lo] replaced by the low bits of x. -/
def setBits {w : Nat} (v : BitVec w) (hi lo x : Nat) : BitVec w :=
  let m := BitVec.ofNat w ((2 ^ (hi + 1 - lo) - 1) * 2 ^ lo)
  (v &&& ~~~m) ||| (BitVec.ofNat w (x % 2 ^ (hi + 1 - lo) * 2 ^ lo))
/-- A Bool as a bit. -/
def b2n (b : Bool) : Nat := if b then 1 else 0
/-- A Bool as a word. -/
def b2w (b : Bool) : Word := if b then 1#64 else 0#64
/-- The first of a list of numbers that passes a test. -/
def firstNat (xs : List Nat) (p : Nat → Bool) : Option Nat := xs.find? p
/-- A range of numbers. -/
def range (a n : Nat) : List Nat := (List.range n).map (· + a)

/-! ## Positions (01 R11) -/

/-- The package tile number of a sequencer; it equals COORD[13:0]. -/
def tileOf (sq : Nat) : Nat := sq / 3
/-- Its role: 0 transfer, 1 shaping, 2 arithmetic. -/
def roleOf (sq : Nat) : Nat := sq % 3
/-- The package group number of a tile: 128 * die + group. -/
def grpOf (tile : Nat) : Nat := tile / 16
/-- The die of a tile. -/
def dieOf (tile : Nat) : Nat := tile / 2048
/-- The member number of a home tile and role (03 R34): 48 * group + 3 * tile + role. -/
def memberOf (home role : Nat) : Nat := home / 16 * 48 + home % 16 * 3 + role
/-- Dies of the form (00 R2, R3). -/
def dieCount : Form → Nat
  | .v8d => 1
  | _ => 8

/-! ## Memory keys: one key space for every byte of the package -/

def tileKey (tile off : Nat) : Nat := 2 ^ 53 + tile * 2 ^ 17 + off
def groupKey (grp off : Nat) : Nat := 2 ^ 54 + grp * 2 ^ 20 + off
/-- A byte of a partition of a die's tensor store (01 R14: 24 MiB each). -/
def tsKey (die part off : Nat) : Nat := 2 ^ 55 + (die * 64 + part) * 2 ^ 25 + off
/-- A byte of a launch's parameter window (19 R190). -/
def paramKey (lnum off : Nat) : Nat := 2 ^ 57 + lnum * 2 ^ 16 + off
def tileSize : Nat := 0x18000
def ctxBase : Nat := 0xEC000
def sigBase : Nat := 0xFC000

/-- Whether a key lies in tile SRAM, and of which tile. -/
def keyTile (key : Nat) : Option Nat := if 2 ^ 53 ≤ key ∧ key < 2 ^ 54 then some ((key - 2 ^ 53) / 2 ^ 17) else none
/-- Whether a key lies in group SRAM, and of which group. -/
def keyGroup (key : Nat) : Option Nat := if 2 ^ 54 ≤ key ∧ key < 2 ^ 55 then some ((key - 2 ^ 54) / 2 ^ 20) else none
/-- Whether a key lies in the tensor store, and in which die and partition. -/
def keyPart (key : Nat) : Option (Nat × Nat) :=
  if 2 ^ 55 ≤ key ∧ key < 2 ^ 57 then some ((key - 2 ^ 55) / 2 ^ 31, (key - 2 ^ 55) / 2 ^ 25 % 64) else none

/-- n bytes of memory from a key. -/
def readBytes (m : Memory) : Nat → Nat → List Byte
  | _, 0 => []
  | k, n + 1 => look m k :: readBytes m (k + 1) n

/-- n bytes as a little-endian number. -/
def readNat (m : Memory) (k n : Nat) : Nat := leNat (readBytes m k n)

/-- Write bytes from a key. -/
def writeBytes : Memory → Nat → List Byte → Memory
  | m, _, [] => m
  | m, k, b :: bs => writeBytes (put m k b) (k + 1) bs

/-- Units of 8 bytes wholly covered by n bytes from key k. -/
def coveredUnit (k n u : Nat) : Bool := decide (k ≤ 8 * u) && decide (8 * u + 8 ≤ k + n)

namespace State

/-- Write bytes: memory, and the error marks of the units written whole (43 R372). -/
def poke (s : State) (k : Nat) (bs : List Byte) : State :=
  { s with mem := writeBytes s.mem k bs, bad := s.bad.filter (fun u => !coveredUnit k bs.length u) }

/-- Read n bytes from a key. -/
def peek (s : State) (k n : Nat) : List Byte := readBytes s.mem k n
def peekNat (s : State) (k n : Nat) : Nat := readNat s.mem k n

/-- Some byte of the range lies in a unit with an uncorrectable error (43 R372). -/
def isBad (s : State) (k n : Nat) : Bool := s.bad.any (fun u => decide (k < 8 * u + 8) && decide (8 * u < k + n))

/-- Any sequencer's state. -/
def seqAt (s : State) (sq : Nat) : Seq :=
  if sq = s.cur then s.q else (find? s.seqs sq).getD (Seq.reset (roleOf sq))
def setSeq (s : State) (sq : Nat) (q : Seq) : State :=
  if sq = s.cur then { s with q := q } else { s with seqs := ins s.seqs sq q }
def tileAt (s : State) (t : Nat) : Tile := (find? s.tiles t).getD Tile.reset
def setTile (s : State) (t : Nat) (x : Tile) : State := { s with tiles := ins s.tiles t x }
def groupAt (s : State) (g : Nat) : Group := (find? s.groups g).getD Group.reset
def setGroup (s : State) (g : Nat) (x : Group) : State := { s with groups := ins s.groups g x }
def dieAt (s : State) (d : Nat) : Die := (find? s.dies d).getD Die.reset
def setDie (s : State) (d : Nat) (x : Die) : State := { s with dies := ins s.dies d x }
def launchAt? (s : State) (l : Nat) : Option Launch := find? s.launches l
def setLaunch (s : State) (l : Nat) (x : Launch) : State := { s with launches := ins s.launches l x }

/-- Move the focus to another sequencer. -/
def focusOn (s : State) (sq : Nat) : State :=
  if sq = s.cur then s
  else { s with seqs := ins (del s.seqs sq) s.cur s.q, q := s.seqAt sq, cur := sq }

/-! ### The focused continuation -/

def k (s : State) : Cont := s.q.k
def setK (s : State) (k : Cont) : State := { s with q := { s.q with k := k } }
/-- X(n): x0 reads zero (11 R109, R122). -/
def x (s : State) (n : BitVec 5) : Word := if n = 0#5 then 0#64 else look s.q.k.gpr n.toNat
/-- X(n) := v; a write to x0 is discarded. -/
def setX (s : State) (n : BitVec 5) (v : Word) : State :=
  if n = 0#5 then s else s.setK { s.q.k with gpr := put s.q.k.gpr n.toNat v }
/-- A register of the continuation's own, by CSR number. -/
def csr (s : State) (n : Nat) : Word := look s.q.k.csr n
def setCsr (s : State) (n : Nat) (v : Word) : State := s.setK { s.q.k with csr := put s.q.k.csr n v }
def pc (s : State) : Word := s.q.k.pc
def setPc (s : State) (v : Word) : State := s.setK { s.q.k with pc := v }
def tile (s : State) : Nat := tileOf s.cur
def grp (s : State) : Nat := grpOf (tileOf s.cur)
def die (s : State) : Nat := dieOf (tileOf s.cur)
/-- The home tile of the running continuation, as a package tile number (03 R20). -/
def homeTile (s : State) : Nat := s.q.k.home.toNat
/-- Its member number. -/
def ownMember (s : State) : Nat := memberOf s.q.k.home.toNat s.q.k.role.toNat
/-- STAT.MODE: runtime (35 R329). -/
def runtime (s : State) : Bool := bit (s.csr 0x000) 0
def det (s : State) : Bool := bit (s.csr 0x000) 1

/-- The launch of the running continuation; with none live, the attributes of an empty one. -/
def Launch.empty : Launch where
  space := 0
  domain := 0
  job := 0
  secondary := false
  prim := 0
  orphan := false
  foot := []
  pods := false
  barOps := [0, 0, 0, 0]
  abcont := 0
  det := false
  detstat := 0
  detaddr := 0
  zones := []
  shBase := 0
  shSize := tileSize
  gsBase := 0
  gsSize := 0
  rtent := 0
  entries := []
  stage := 0
  lens := []
  lscl := []
  param := 0
  paramSize := 0
  textBase := 0
  textSize := 0
  text := []
  image := 0
  poolBase := 0
  poolSize := 0
  areaSize := 0x4000
  areas := []
  sched := []
  stageCtr := []
  compl := 0
  queue := 0
  function := 0
  placed := true
  acceptedAt := 0
  suspended := false
  halted := none
  shape := none
  parts := []
  sweep := none
  nextSweep := 0
  hwCodes := []
  scope := none
  scopeFrom := 0

def launchAt (s : State) (l : Nat) : Launch := (s.launchAt? l).getD Launch.empty
def launch (s : State) : Launch := s.launchAt s.q.k.lnum
/-- The primary that a secondary is bound to, while it lives (05 R51). -/
def primary (s : State) (x : Launch) : Option Launch := if x.orphan then none else s.launchAt? x.prim
/-- The footprint that counts for a launch: its own, a secondary's its primary's (05 R51), and once its primary has ended its own again, which
the spec leaves open (log 177). -/
def footOf (s : State) (l : Nat) : List Nat :=
  let x := s.launchAt l
  if x.secondary then ((s.primary x).map (·.foot)).getD x.foot else x.foot

/-- The next free value's number, taken. -/
def takeFree (s : State) : Nat × State := (s.free, { s with free := s.free + 1 })

end State
/-- The trees of a die whose commands are still to execute: those that a PRCLR has freed, and the held ones (29 R285). -/
def Die.everyTree (d : Die) : List (Nat × Tree) := d.leaving ++ d.trees

end Sys2Proof.Machine
end

