-- ==== Sys2Proof/Machine/Desc.lean ====
section
/-! DEFINITION. Lens descriptors (07 R66, R67), tensor-store blocks (19 R192, 27 R272), levels and barrier units (01 R10, 03 R27). -/

namespace Sys2Proof.Machine

/-! ## Descriptor fields (07 R66) -/

def dClass (d : Lane) : Nat := bits d 26 24
def dBlk (d : Lane) : Nat := bits d 22 21
def dSat (d : Lane) : Bool := bit d 20
def dRnd (d : Lane) : Nat := bits d 19 18
def dSpc (d : Lane) : Nat := bits d 17 16
def dBias (d : Lane) : Nat := bits d 15 8
def dNb (d : Lane) : Nat := bits d 7 7
def dSg (d : Lane) : Nat := bits d 6 6
def dMb (d : Lane) : Nat := bits d 5 3
def dEb (d : Lane) : Nat := bits d 2 0

/-- The container width w in bits. -/
def dWidth (d : Lane) : Nat :=
  match dClass d with
  | 0 | 1 => if dNb d = 1 then 4 else 8
  | 2 | 3 | 5 => 16
  | _ => 32

/-- The magnitude width of a narrow integer: MB, or w - SG when MB is 0. -/
def dMag (d : Lane) : Nat := if dMb d = 0 then dWidth d - dSg d else dMb d

/-- The run K of one scale byte, 32 or 16; 0 without block scales. -/
def dRun (d : Lane) : Nat :=
  match dBlk d with
  | 1 => 32
  | 2 => 16
  | _ => 0

/-- The lens decodes to s32: CLASS 1 with BLK 0, CLASS 5 or 6 (07 R72). -/
def dIsInt (d : Lane) : Bool := (dClass d == 1 && dBlk d == 0) || dClass d == 5 || dClass d == 6

/-- A non-zero descriptor that is impossible (07 R67). -/
def dImpossible (d : Lane) : Bool :=
  if d = 0#32 then false
  else
    let c := dClass d
    let wide := dEb d != 0 || dMb d != 0 || dSg d != 0 || dNb d != 0 || dBias d != 0 || dSpc d != 0 || dBlk d != 0
    bits d 31 27 != 0 || bit d 23 || c == 7 || dSpc d == 3 || dBlk d == 3
    || (decide (c ≤ 1) && decide (dSg d + dEb d + dMb d > dWidth d))
    || (c == 0 && (dEb d == 0 || (dSpc d == 0 && dMb d == 0) || decide (dBias d > 150 - dMb d)))
    || (c == 1 && (dEb d != 0 || dSpc d != 0 || (dBias d != 0 && dBlk d == 0)))
    || ((c == 2 || c == 3 || c == 5) && wide)
    || ((c == 4 || c == 6) && (wide || dRnd d != 0 || dSat d))

/-! ## Tensor-store blocks (19 R192, 27 R272) -/

/-- The block slot size Z in bytes. -/
def Handle.slotSize (h : Handle) : Nat :=
  128 * dWidth h.desc + (if dBlk h.desc = 0 then 0 else 1024 / dRun h.desc)
def Handle.blockCols (h : Handle) : Nat := (h.cols + 31) / 32
def Handle.blocks (h : Handle) : Nat := (h.rows + 31) / 32 * h.blockCols
/-- The partition of block b. -/
def Handle.part (h : Handle) (b : Nat) : Nat := (h.first + b % h.count) % 64
/-- The offset of block b within its partition. -/
def Handle.off (h : Handle) (b : Nat) : Nat := h.base + b / h.count * h.slotSize
/-- The memory key of block b's slot in a die. -/
def Handle.key (h : Handle) (die b : Nat) : Nat := tsKey die (h.part b) (h.off b)
/-- The block of an element, and the element's index within it (row-major, 32 x 32). -/
def Handle.blockOf (h : Handle) (row col : Nat) : Nat := row / 32 * h.blockCols + col / 32
def Handle.elemIn (row col : Nat) : Nat := row % 32 * 32 + col % 32
/-- An element lies within the handle's extent. -/
def Handle.inExtent (h : Handle) (row col : Nat) : Bool := decide (row < h.rows) && decide (col < h.cols)

/-! ## Levels (01 R10, 03 R27) -/

def Level.num : Level → Nat
  | .tile => 0
  | .group => 1
  | .die => 2
  | .package => 3
  | .pod => 4

def Level.of : Nat → Level
  | 0 => .tile
  | 1 => .group
  | 2 => .die
  | 3 => .package
  | _ => .pod

/-- The level of a two-bit level field: 0 GRP, 1 DIE, 2 PKG, 3 POD (23 R224). -/
def fieldLevel (l : BitVec 2) : Level := Level.of (l.toNat + 1)
def Level.max (a b : Level) : Level := if a.num < b.num then b else a
def Level.min (a b : Level) : Level := if a.num < b.num then a else b

/-- The unit of a level that contains a group: package group number, die, or 0. -/
def unitOf (lv : Level) (grp : Nat) : Nat :=
  match lv with
  | .tile | .group => grp
  | .die => grp / 128
  | _ => 0

/-- The smallest level, not below `lo`, that holds all of some package groups. -/
def groupsLevel (gs : List Nat) : Level :=
  match gs with
  | [] => .group
  | g :: r => if r.all (· == g) then .group else if r.all (fun x => x / 128 == g / 128) then .die else .package

/-- A launch's outermost level (03 R27). -/
def Launch.outer (x : Launch) : Level := if x.pods then .pod else groupsLevel (x.foot.map grpOf)

/-- This package's index 32 * DGRP + PKG (25 R238). -/
def State.index (s : State) : Nat := 32 * s.dgrp.toNat + s.pkg.toNat

/-- The key of a barrier unit. -/
def barKey (lnum : Nat) (lv : Level) (unit : Nat) : Nat := (lnum * 5 + lv.num) * 2048 + unit

/-- A barrier unit when its launch starts: superstep 0, exchange phase (03 R28). -/
def Bar.reset : Bar where
  count := 0
  exch := true
  exend := []
  farExend := []
  arrs := []
  members := []
  esc := none
  carried := none
  before := []
  relValue := 0
  relCode := 0
  relLevel := 0
  relEsc := false
  reads := []

namespace State

def barAt (s : State) (lnum : Nat) (lv : Level) (unit : Nat) : Bar := (find? s.bars (barKey lnum lv unit)).getD Bar.reset
def setBar (s : State) (lnum : Nat) (lv : Level) (unit : Nat) (b : Bar) : State :=
  { s with bars := ins s.bars (barKey lnum lv unit) b }

/-- A level as it acts for a launch: one wider than its outermost acts as the outermost (03 R27). -/
def effLevel (s : State) (lnum : Nat) (lv : Level) : Level := Level.min lv (s.launchAt lnum).outer

/-- The barrier unit that counts for a group of a launch at a level. -/
def barOf (s : State) (lnum : Nat) (lv : Level) (grp : Nat) : Bar :=
  let e := s.effLevel lnum lv
  s.barAt lnum e (unitOf e grp)

/-- The running continuation's superstep counter of a level (03 R33). -/
def ssc (s : State) (lv : Level) : Word := (s.barOf s.q.k.lnum lv s.grp).count

end State

/-! ## Records (03 R20-R22) -/

def recKey (grp slot : Nat) : Nat := groupKey grp (ctxBase + 64 * slot)
namespace State
/-- Record fields: STATE, ROLE, PRIO, LNUM, and so on, read from the slot's bytes. -/
def recState (s : State) (g slot : Nat) : Nat := s.peekNat (recKey g slot + 18) 1 / 4 % 8
def recRole (s : State) (g slot : Nat) : Nat := s.peekNat (recKey g slot + 18) 1 % 4
def recPin (s : State) (g slot : Nat) : Bool := s.peekNat (recKey g slot + 18) 1 / 128 % 2 == 1
def recSec (s : State) (g slot : Nat) : Bool := s.peekNat (recKey g slot + 18) 1 / 64 % 2 == 1
def recFix (s : State) (g slot : Nat) : Bool := s.peekNat (recKey g slot + 18) 1 / 32 % 2 == 1
def recPrio (s : State) (g slot : Nat) : Nat := s.peekNat (recKey g slot + 19) 1
def recLnum (s : State) (g slot : Nat) : Nat := s.peekNat (recKey g slot + 16) 2
def recHome (s : State) (g slot : Nat) : Nat := s.peekNat (recKey g slot + 20) 4 % 2 ^ 14
def recStage (s : State) (g slot : Nat) : Nat := s.peekNat (recKey g slot + 23) 1
def recDword (s : State) (g slot off : Nat) : Word := BitVec.ofNat 64 (s.peekNat (recKey g slot + off) 8)
/-- Set the STATE bits of a record: 0 free, 1 ready, 2 running, 3 waiting. -/
def setRecState (s : State) (g slot st : Nat) : State :=
  let b := s.peekNat (recKey g slot + 18) 1
  s.poke (recKey g slot + 18) [BitVec.ofNat 8 (b / 32 * 32 + st % 8 * 4 + b % 4)]
/-- Free a record slot: its bytes and what the group keeps beside it. -/
def freeSlot (s : State) (g slot : Nat) : State :=
  let s := s.poke (recKey g slot) (List.replicate 64 0#8)
  s.setGroup g { s.groupAt g with side := del (s.groupAt g).side slot }
end State

end Sys2Proof.Machine
end

