-- ==== Sys2Proof/Machine/Flags.lean ====
section
/-! DEFINITION. Numbers (07): exact values, the one rounding, binary32 and binary64 arithmetic with FFLAGS (R79-R81), the random
stream (15 R165), the reduction tree and scan (R84, R86), and the lens decode and encode (R70-R78). -/

namespace Sys2Proof.Machine

/-! ## Exact values -/

/-- A magnitude num / den * 2^e, den not zero. -/
structure Mag where
  num : Nat
  den : Nat
  e : Int
  deriving DecidableEq, Repr

/-- An extended real with a sign, or a NaN. -/
inductive FVal where
  | nan
  | inf (neg : Bool)
  | fin (neg : Bool) (m : Mag)
  deriving DecidableEq, Repr

/-- Rounding rules; `sto q` has the top 16 bits of the random word (R77). -/
inductive Rnd where
  | rne | rtz | rup | rdn | rna
  | sto (q : Nat)
  deriving DecidableEq, Repr

def Mag.isZero (x : Mag) : Bool := x.num == 0
def Mag.int (n : Nat) (e : Int) : Mag := ⟨n, 1, e⟩
def Mag.mul (x y : Mag) : Mag := ⟨x.num * y.num, x.den * y.den, x.e + y.e⟩
def Mag.div (x y : Mag) : Mag := ⟨x.num * y.den, x.den * y.num, x.e - y.e⟩
/-- x scaled by 2^k. -/
def Mag.scale (x : Mag) (k : Int) : Mag := { x with e := x.e + k }

/-- num and den with the exponent u taken out: x = fst / snd * 2^u. -/
def Mag.at (x : Mag) (u : Int) : Nat × Nat :=
  (x.num * 2 ^ (x.e - u).toNat, x.den * 2 ^ (u - x.e).toNat)

/-- floor(log2 x), for x not zero. -/
def Mag.log (x : Mag) : Int :=
  let c : Int := (Nat.log2 x.num : Int) - (Nat.log2 x.den : Int)
  let p := (Mag.mk x.num x.den 0).at c
  (if p.2 ≤ p.1 then c else c - 1) + x.e

/-- Whether a remainder r of d over a floor m rounds up in magnitude. -/
def Rnd.up (r : Rnd) (neg : Bool) (m rem den : Nat) : Bool :=
  if rem = 0 then false
  else match r with
    | .rne => decide (den < 2 * rem) || (decide (2 * rem = den) && m % 2 == 1)
    | .rna => decide (den ≤ 2 * rem)
    | .rtz => false
    | .rup => !neg
    | .rdn => neg
    | .sto q => decide (2 ^ 16 ≤ rem * 2 ^ 16 / den + q)

/-- Round x to a multiple of 2^u: the multiple, and whether it is inexact. -/
def Mag.roundAt (x : Mag) (r : Rnd) (neg : Bool) (u : Int) : Nat × Bool :=
  let p := x.at u
  let m := p.1 / p.2
  let rem := p.1 % p.2
  (if r.up neg m rem p.2 then m + 1 else m, rem != 0)

/-- A binary format: mantissa bits, exponent of the subnormal spacing and of the top binade's, largest finite multiple. -/
structure Fmt where
  mb : Nat
  emin : Int
  top : Int
  big : Nat
  deriving DecidableEq, Repr

def fmt32 : Fmt := ⟨23, -149, 104, 2 ^ 24 - 1⟩
def fmt64 : Fmt := ⟨52, -1074, 971, 2 ^ 53 - 1⟩

/-- The spacing exponent of a format at a magnitude, the top binade continuing upward (R75). -/
def Fmt.ulp (f : Fmt) (x : Mag) : Int := min f.top (max f.emin (x.log - f.mb))

/-- A rounded magnitude m * 2^u, and what happened. -/
structure Rounded where
  m : Nat
  u : Int
  inexact : Bool
  ovf : Bool
  /-- Tiny after rounding with an unbounded exponent (R80), and tiny before rounding (R78). -/
  tinyAfter : Bool
  tinyBefore : Bool
  deriving DecidableEq, Repr

/-- The one rounding of a non-zero magnitude into a format. -/
def Fmt.round (f : Fmt) (r : Rnd) (neg : Bool) (x : Mag) : Rounded :=
  let u := f.ulp x
  let p := x.roundAt r neg u
  let free := x.roundAt r neg (x.log - f.mb)
  let small : Mag := .int (2 ^ f.mb) f.emin
  let t := (Mag.int free.1 (x.log - f.mb))
  { m := p.1, u := u, inexact := p.2,
    ovf := decide (u = f.top) && decide (f.big < p.1),
    tinyAfter := decide (t.log < small.log) || free.1 == 0,
    tinyBefore := decide (x.log < small.log) }

/-- Exponent and mantissa fields of a rounded magnitude that is not an overflow. -/
def Fmt.fields (f : Fmt) (m : Nat) (u : Int) : Nat × Nat :=
  if m < 2 ^ f.mb then (0, m)
  else if m < 2 ^ (f.mb + 1) then ((u - f.emin).toNat + 1, m - 2 ^ f.mb)
  else ((u - f.emin).toNat + 2, m / 2 - 2 ^ f.mb)

/-! ## FFLAGS (R80) -/

def fNV : BitVec 5 := 0x10#5
def fDZ : BitVec 5 := 0x08#5
def fOF : BitVec 5 := 0x04#5
def fUF : BitVec 5 := 0x02#5
def fNX : BitVec 5 := 0x01#5

/-- A result with the flags it sets. -/
abbrev Fl (α : Type) := α × BitVec 5
def flagIf (b : Bool) (f : BitVec 5) : BitVec 5 := if b then f else 0#5

/-! ## binary32 (R81) -/

def qnan32 : Lane := 0x7FC00000#32
def inf32 (neg : Bool) : Lane := if neg then 0xFF800000#32 else 0x7F800000#32
def zero32 (neg : Bool) : Lane := if neg then 0x80000000#32 else 0#32
def max32 (neg : Bool) : Lane := if neg then 0xFF7FFFFF#32 else 0x7F7FFFFF#32
def exp32 (v : Lane) : Nat := bits v 30 23
def man32 (v : Lane) : Nat := bits v 22 0
def isNaN32 (v : Lane) : Bool := exp32 v == 255 && man32 v != 0
def isSNaN32 (v : Lane) : Bool := isNaN32 v && !bit v 22
def isSub32 (v : Lane) : Bool := exp32 v == 0 && man32 v != 0

/-- The value of a binary32 word. -/
def val32 (v : Lane) : FVal :=
  let e := exp32 v
  let m := man32 v
  if e = 255 then (if m = 0 then .inf (bit v 31) else .nan)
  else if e = 0 then .fin (bit v 31) (.int m (-149))
  else .fin (bit v 31) (.int (2 ^ 23 + m) ((e : Int) - 150))

/-- An operand under FTZ: subnormals read as zero of the same sign. -/
def opnd32 (ftz : Bool) (v : Lane) : FVal := if ftz && isSub32 v then .fin (bit v 31) (.int 0 0) else val32 v

def pack32 (neg : Bool) (m : Nat) (u : Int) : Lane :=
  let p := fmt32.fields m u
  BitVec.ofNat 32 ((if neg then 2 ^ 31 else 0) + p.1 * 2 ^ 23 + p.2)

/-- What an overflow gives under a rounding: infinity or the largest finite value. -/
def Rnd.overInf (r : Rnd) (neg : Bool) : Bool :=
  match r with
  | .rtz => false
  | .rup => !neg
  | .rdn => neg
  | _ => true

/-- rnd32 of an exact value, once, with flags (R79-R81). -/
def rnd32 (r : Rnd) (ftz : Bool) (v : FVal) : Fl Lane :=
  match v with
  | .nan => (qnan32, 0#5)
  | .inf n => (inf32 n, 0#5)
  | .fin n x =>
    if x.isZero then (zero32 n, 0#5)
    else
      let p := fmt32.round r n x
      if p.ovf then (if r.overInf n then inf32 n else max32 n, fOF ||| fNX)
      else if ftz && p.tinyAfter then (zero32 n, fUF ||| fNX)
      else (pack32 n p.m p.u, flagIf (p.tinyAfter && p.inexact) fUF ||| flagIf p.inexact fNX)

/-- rne32: the matrix engine's and the engines' rounding, without FTZ (R82). -/
def rne32 (v : FVal) : Fl Lane := rnd32 .rne false v

/-! ## Exact arithmetic -/

/-- The signed numerator of x over a common exponent, for dyadic x. -/
def signedAt (n : Bool) (x : Mag) (u : Int) : Int := if n then -((x.at u).1 : Int) else ((x.at u).1 : Int)

/-- The sum of dyadic values; `z` is the sign of an exact zero sum of unlike signs. -/
def FVal.add (z : Bool) : FVal → FVal → Fl FVal
  | .nan, _ => (.nan, 0#5)
  | _, .nan => (.nan, 0#5)
  | .inf a, .inf b => if a = b then (.inf a, 0#5) else (.nan, fNV)
  | .inf a, _ => (.inf a, 0#5)
  | _, .inf b => (.inf b, 0#5)
  | .fin a x, .fin b y =>
    let u := min x.e y.e
    let s := signedAt a x u + signedAt b y u
    if s = 0 then (.fin (if a = b then a else z) (.int 0 0), 0#5)
    else (.fin (decide (s < 0)) (.int s.natAbs u), 0#5)

def FVal.neg : FVal → FVal
  | .nan => .nan
  | .inf n => .inf !n
  | .fin n x => .fin (!n) x

def FVal.mul : FVal → FVal → Fl FVal
  | .nan, _ => (.nan, 0#5)
  | _, .nan => (.nan, 0#5)
  | .inf a, .inf b => (.inf (a != b), 0#5)
  | .inf a, .fin b y => if y.isZero then (.nan, fNV) else (.inf (a != b), 0#5)
  | .fin a x, .inf b => if x.isZero then (.nan, fNV) else (.inf (a != b), 0#5)
  | .fin a x, .fin b y => (.fin (a != b) (x.mul y), 0#5)

def FVal.div : FVal → FVal → Fl FVal
  | .nan, _ => (.nan, 0#5)
  | _, .nan => (.nan, 0#5)
  | .inf _, .inf _ => (.nan, fNV)
  | .inf a, .fin b _ => (.inf (a != b), 0#5)
  | .fin a _, .inf b => (.fin (a != b) (.int 0 0), 0#5)
  | .fin a x, .fin b y =>
    if y.isZero then (if x.isZero then (.nan, fNV) else (.inf (a != b), fDZ))
    else (.fin (a != b) (x.div y), 0#5)

/-- The integer square root of n below 2^k, on top of r. -/
def isqrt (n : Nat) : Nat → Nat → Nat
  | 0, r => r
  | k + 1, r => isqrt n k (if (r + 2 ^ k) * (r + 2 ^ k) ≤ n then r + 2 ^ k else r)

/-- The square root, kept to 2^-k of its last place with a sticky bit: exact to every rounding of binary32. -/
def sqrtMag (x : Mag) : Mag :=
  let e := if x.e % 2 = 0 then x.e else x.e - 1
  let n := (if x.e % 2 = 0 then x.num else 2 * x.num) * 2 ^ 80
  let r := isqrt n (Nat.log2 n / 2 + 1) 0
  .int (2 * r + (if r * r = n then 0 else 1)) (e / 2 - 41)

def FVal.sqrt : FVal → Fl FVal
  | .nan => (.nan, 0#5)
  | .inf false => (.inf false, 0#5)
  | .inf true => (.nan, fNV)
  | .fin n x => if x.isZero then (.fin n x, 0#5) else if n then (.nan, fNV) else (.fin false (sqrtMag x), 0#5)

/-- Less, on values that are not NaN; zeros are equal. -/
def FVal.lt : FVal → FVal → Bool
  | .nan, _ => false
  | _, .nan => false
  | .inf a, .inf b => a && !b
  | .inf a, .fin _ _ => a
  | .fin _ _, .inf b => !b
  | .fin a x, .fin b y => let u := min x.e y.e; decide (signedAt a x u < signedAt b y u)

def FVal.eq : FVal → FVal → Bool
  | .nan, _ => false
  | _, .nan => false
  | .inf a, .inf b => a == b
  | .fin a x, .fin b y => let u := min x.e y.e; decide (signedAt a x u = signedAt b y u)
  | _, _ => false

/-- NV for a signalling NaN among operands. -/
def nvS (xs : List Lane) : BitVec 5 := flagIf (xs.any isSNaN32) fNV

/-- The zero sign of an exact cancellation: -0 only under RDN. -/
def Rnd.zeroNeg (r : Rnd) : Bool := r == .rdn

def add32 (r : Rnd) (ftz : Bool) (a b : Lane) : Fl Lane :=
  let s := FVal.add r.zeroNeg (opnd32 ftz a) (opnd32 ftz b)
  let q := rnd32 r ftz s.1
  (q.1, q.2 ||| s.2 ||| nvS [a, b])

def sub32 (r : Rnd) (ftz : Bool) (a b : Lane) : Fl Lane :=
  let s := FVal.add r.zeroNeg (opnd32 ftz a) (opnd32 ftz b).neg
  let q := rnd32 r ftz s.1
  (q.1, q.2 ||| s.2 ||| nvS [a, b])

def mul32 (r : Rnd) (ftz : Bool) (a b : Lane) : Fl Lane :=
  let s := FVal.mul (opnd32 ftz a) (opnd32 ftz b)
  let q := rnd32 r ftz s.1
  (q.1, q.2 ||| s.2 ||| nvS [a, b])

def div32 (r : Rnd) (ftz : Bool) (a b : Lane) : Fl Lane :=
  let s := FVal.div (opnd32 ftz a) (opnd32 ftz b)
  let q := rnd32 r ftz s.1
  (q.1, q.2 ||| s.2 ||| nvS [a, b])

def sqrt32 (r : Rnd) (ftz : Bool) (a : Lane) : Fl Lane :=
  let s := FVal.sqrt (opnd32 ftz a)
  let q := rnd32 r ftz s.1
  (q.1, q.2 ||| s.2 ||| nvS [a])

/-- a * b + c, rounded once; `n` negates c. -/
def fma32 (r : Rnd) (ftz : Bool) (n : Bool) (a b c : Lane) : Fl Lane :=
  let p := FVal.mul (opnd32 ftz a) (opnd32 ftz b)
  let cv := opnd32 ftz c
  let s := FVal.add r.zeroNeg p.1 (if n then cv.neg else cv)
  let q := rnd32 r ftz s.1
  (q.1, q.2 ||| p.2 ||| s.2 ||| nvS [a, b, c])

/-- An operand as it is read under FTZ, as a word. -/
def flush32 (ftz : Bool) (v : Lane) : Lane := if ftz && isSub32 v then zero32 (bit v 31) else v

/-- minimumNumber (R152): -0 ranks below +0, one NaN gives the other operand. -/
def min32 (ftz : Bool) (a b : Lane) : Fl Lane :=
  let x := flush32 ftz a
  let y := flush32 ftz b
  (if isNaN32 x then (if isNaN32 y then qnan32 else y) else if isNaN32 y then x
   else if (val32 x).lt (val32 y) then x else if (val32 y).lt (val32 x) then y
   else if bit x 31 then x else y, nvS [a, b])

def max32f (ftz : Bool) (a b : Lane) : Fl Lane :=
  let x := flush32 ftz a
  let y := flush32 ftz b
  (if isNaN32 x then (if isNaN32 y then qnan32 else y) else if isNaN32 y then x
   else if (val32 y).lt (val32 x) then x else if (val32 x).lt (val32 y) then y
   else if bit x 31 then y else x, nvS [a, b])

def abs32 (ftz : Bool) (a : Lane) : Fl Lane :=
  if isNaN32 a then (qnan32, nvS [a]) else (flush32 ftz a &&& 0x7FFFFFFF#32, 0#5)
def neg32 (ftz : Bool) (a : Lane) : Fl Lane :=
  if isNaN32 a then (qnan32, nvS [a]) else (flush32 ftz a ^^^ 0x80000000#32, 0#5)

/-- VCLASS.F (R152). -/
def class32 (a : Lane) : Lane :=
  let n := bit a 31
  let k : Nat :=
    if isNaN32 a then (if isSNaN32 a then 8 else 9)
    else if exp32 a = 255 then (if n then 0 else 7)
    else if exp32 a ≠ 0 then (if n then 1 else 6)
    else if man32 a ≠ 0 then (if n then 2 else 5)
    else (if n then 3 else 4)
  BitVec.ofNat 32 (2 ^ k)

/-- The .F compares (R154). -/
def cmp32 (f : CmpFn) (ftz : Bool) (a b : Lane) : Bool × BitVec 5 :=
  let x := opnd32 ftz a
  let y := opnd32 ftz b
  let any := isNaN32 a || isNaN32 b
  match f with
  | .eqF => (x.eq y, nvS [a, b])
  | .ltF => (x.lt y, flagIf any fNV)
  | .leF => (!any && !y.lt x, flagIf any fNV)
  | .unF => (any, nvS [a, b])
  | .eqI => (a == b, 0#5)
  | .ltI => (a.slt b, 0#5)
  | .ltN => (a.ult b, 0#5)

/-- The exact value of an integer. -/
def ofInt (i : Int) : FVal := .fin (decide (i < 0)) (.int i.natAbs 0)

/-- VCVTFI and VCVTFN (R162): to an integer by RM, clamped to [lo, hi]. -/
def toInt32 (r : Rnd) (ftz : Bool) (lo hi : Int) (a : Lane) : Fl Lane :=
  match opnd32 ftz a with
  | .nan => (0#32, fNV)
  | .inf n => (BitVec.ofInt 32 (if n then lo else hi), fNV)
  | .fin n x =>
    let p := x.roundAt r n 0
    let i : Int := if n then -(p.1 : Int) else p.1
    if i < lo then (BitVec.ofInt 32 lo, fNV)
    else if hi < i then (BitVec.ofInt 32 hi, fNV)
    else (BitVec.ofInt 32 i, flagIf p.2 fNX)

/-! ## binary64 sums, for AMOFADD.D and barriers (R220, R35) -/

def qnan64 : Word := 0x7FF8000000000000#64
def val64 (v : Word) : FVal :=
  let e := bits v 62 52
  let m := bits v 51 0
  if e = 2047 then (if m = 0 then .inf (bit v 63) else .nan)
  else if e = 0 then .fin (bit v 63) (.int m (-1074))
  else .fin (bit v 63) (.int (2 ^ 52 + m) ((e : Int) - 1075))

/-- rne64 of an exact value; subnormals kept. -/
def rne64 (v : FVal) : Word :=
  match v with
  | .nan => qnan64
  | .inf n => if n then 0xFFF0000000000000#64 else 0x7FF0000000000000#64
  | .fin n x =>
    if x.isZero then (if n then 0x8000000000000000#64 else 0#64)
    else
      let p := fmt64.round .rne n x
      let q := if p.ovf then (2047, 0) else fmt64.fields p.m p.u
      BitVec.ofNat 64 ((if n then 2 ^ 63 else 0) + q.1 * 2 ^ 52 + q.2)

def add64 (a b : Word) : Word := rne64 (FVal.add false (val64 a) (val64 b)).1

/-! ## The random stream (15 R165) -/

/-- One round. -/
def philoxRound (c : Nat × Nat × Nat × Nat) (k0 k1 : Nat) : Nat × Nat × Nat × Nat :=
  let p := 0xD2511F53 * c.1
  let q := 0xCD9E8D57 * c.2.2.1
  (Nat.xor (Nat.xor (q / 2 ^ 32) c.2.1) k0, q % 2 ^ 32, Nat.xor (Nat.xor (p / 2 ^ 32) c.2.2.2) k1, p % 2 ^ 32)

def philoxRounds : Nat → Nat × Nat × Nat × Nat → Nat → Nat → Nat × Nat × Nat × Nat
  | 0, c, _, _ => c
  | n + 1, c, k0, k1 => philoxRounds n (philoxRound c k0 k1) ((k0 + 0x9E3779B9) % 2 ^ 32) ((k1 + 0xBB67AE85) % 2 ^ 32)

/-- Word j of the block at counter C under a key, key word 1 high. -/
def philoxWord (key : Word) (ctr j : Nat) : Nat :=
  let c := ctr % 2 ^ 128
  let r := philoxRounds 10 (c % 2 ^ 32, c / 2 ^ 32 % 2 ^ 32, c / 2 ^ 64 % 2 ^ 32, c / 2 ^ 96) (bits key 31 0) (bits key 63 32)
  match j with
  | 0 => r.1
  | 1 => r.2.1
  | 2 => r.2.2.1
  | _ => r.2.2.2

/-- The random word of lane i of an instruction whose first block is at counter C (R77). -/
def laneWord (key : Word) (ctr i : Nat) : Nat := philoxWord key (ctr + i / 4) (i % 4)

/-! ## Trees (R84, R86) -/

/-- One level of the tree, on an even number of nodes. -/
def treeLevel {α φ : Type} (op : α → α → φ → α × φ) : List (Option α) → φ → List (Option α) × φ
  | some a :: some b :: r, f =>
    let p := op a b f
    let q := treeLevel op r p.2
    (some p.1 :: q.1, q.2)
  | some a :: none :: r, f => let q := treeLevel op r f; (some a :: q.1, q.2)
  | none :: b :: r, f => let q := treeLevel op r f; (b :: q.1, q.2)
  | [x], f => ([x], f)
  | [], f => ([], f)

def treeGo {α φ : Type} (op : α → α → φ → α × φ) : Nat → List (Option α) → φ → Option α × φ
  | 0, xs, f => (xs.head?.getD none, f)
  | n + 1, xs, f => let p := treeLevel op xs f; treeGo op n p.1 p.2

/-- The least k with n ≤ 2^k. -/
def log2up (n : Nat) : Nat := if n ≤ 1 then 0 else Nat.log2 (n - 1) + 1

/-- tree(op, x) over leaves that may be absent, with a state that the nodes thread (flags). -/
def tree {α φ : Type} (op : α → α → φ → α × φ) (xs : List (Option α)) (f : φ) : Option α × φ :=
  let k := log2up xs.length
  treeGo op k (xs ++ List.replicate (2 ^ k - xs.length) none) f

/-- The aligned blocks of R86 for lanes 0 to m - 1: start and length, from the widest power down. -/
def scanBlocks (m : Nat) : List (Nat × Nat) :=
  ((List.range 11).foldl (fun (acc : List (Nat × Nat) × Nat) k =>
    let p := 2 ^ (10 - k)
    if m / p % 2 = 1 then (acc.1 ++ [(acc.2, p)], acc.2 + p) else acc) ([], 0)).1

/-- The inclusive scan's value at lane i. -/
def scanAt {α φ : Type} (op : α → α → φ → α × φ) (xs : List (Option α)) (i : Nat) (f : φ) : Option α × φ :=
  (scanBlocks (i + 1)).foldl (fun acc b =>
    let p := tree op ((xs.drop b.1).take b.2) acc.2
    match acc.1, p.1 with
    | some a, some v => let q := op a v p.2; (some q.1, q.2)
    | none, v => (v, p.2)
    | some a, none => (some a, p.2)) (none, f)

/-! ## Lens decode (R70-R74) -/

/-- The value of a narrow float code. -/
def valNarrow (d : Lane) (c : Nat) : FVal :=
  let eb := dEb d
  let mb := dMb d
  let s := decide (dSg d = 1) && c / 2 ^ (eb + mb) % 2 == 1
  let e := c / 2 ^ mb % 2 ^ eb
  let m := c % 2 ^ mb
  let ones := e == 2 ^ eb - 1
  if dSpc d = 0 && ones then (if m = 0 then .inf s else .nan)
  else if dSpc d = 1 && ones && m == 2 ^ mb - 1 then .nan
  else if e = 0 then .fin s (.int m (1 - (dBias d : Int) - mb))
  else .fin s (.int (2 ^ mb + m) ((e : Int) - dBias d - mb))

/-- The integer of a narrow integer code. -/
def intNarrow (d : Lane) (c : Nat) : Int :=
  let n := dSg d + dMag d
  let v := c % 2 ^ n
  if dSg d = 1 && v / 2 ^ (n - 1) % 2 == 1 then (v : Int) - 2 ^ n else v

/-- The value of a binary16 or bfloat16 code. -/
def valWide (eb mb : Nat) (c : Nat) : FVal :=
  let s := c / 2 ^ (eb + mb) % 2 == 1
  let e := c / 2 ^ mb % 2 ^ eb
  let m := c % 2 ^ mb
  let bias : Int := 2 ^ (eb - 1) - 1
  if e = 2 ^ eb - 1 then (if m = 0 then .inf s else .nan)
  else if e = 0 then .fin s (.int m (1 - bias - mb))
  else .fin s (.int (2 ^ mb + m) ((e : Int) - bias - mb))

/-- The exact value of a code, without block scale: dec of R82. -/
def valCode (d : Lane) (c : Nat) : FVal :=
  match dClass d with
  | 0 => valNarrow d c
  | 1 => (ofInt (intNarrow d c) |> fun v => match v with
      | .fin n x => .fin n (x.scale (-(dBias d : Int)))
      | v => v)
  | 2 => valWide 5 10 c
  | 3 => valWide 8 7 c
  | 4 => val32 (BitVec.ofNat 32 c)
  | 5 => ofInt (BitVec.ofNat 16 c).toInt
  | _ => ofInt (BitVec.ofNat 32 c).toInt

/-- The scale 2^(X - 127) applied to a value; NaN for X = 0xFF (R74). -/
def FVal.scaled (v : FVal) (x : Nat) : FVal :=
  if x = 255 then .nan
  else match v with
    | .fin n m => .fin n (m.scale ((x : Int) - 127))
    | v => v

/-- dec(d, code) to a register word, with scale byte X (R70-R74). -/
def decode32 (d : Lane) (code x : Nat) : Fl Lane :=
  match dClass d with
  | 4 => (BitVec.ofNat 32 code, 0#5)
  | 6 => (BitVec.ofNat 32 code, 0#5)
  | 5 => ((BitVec.ofNat 16 code).signExtend 32, 0#5)
  | 1 => if dBlk d = 0 then (BitVec.ofInt 32 (intNarrow d code), 0#5) else rne32 ((valCode d code).scaled x)
  | 0 => if dBlk d = 0 then ((rne32 (valCode d code)).1, 0#5) else rne32 ((valCode d code).scaled x)
  | _ => ((rne32 (valCode d code)).1, 0#5)

/-! ## Lens encode (R75-R78) -/

/-- The format of a float class. -/
def dFmt (d : Lane) : Fmt :=
  match dClass d with
  | 2 => ⟨10, -24, 5, 2 ^ 11 - 1⟩
  | 3 => ⟨7, -133, 120, 2 ^ 8 - 1⟩
  | _ =>
    let eb := dEb d
    let mb := dMb d
    let emin : Int := 1 - (dBias d : Int) - mb
    let last := 2 ^ eb - 1
    -- the largest exponent field that holds a finite code, and the largest mantissa in it
    let e := if dSpc d = 0 then last - 1 else if dSpc d = 1 && mb == 0 then last - 1 else last
    let m := if dSpc d = 1 && mb != 0 then 2 ^ mb - 2 else 2 ^ mb - 1
    if e = 0 then ⟨mb, emin, emin, m⟩ else ⟨mb, emin, emin + (e : Int) - 1, 2 ^ mb + m⟩

/-- Exponent and mantissa widths of a float class. -/
def dEM (d : Lane) : Nat × Nat :=
  match dClass d with
  | 2 => (5, 10)
  | 3 => (8, 7)
  | _ => (dEb d, dMb d)
/-- Whether a float class has a sign, and its SPC. -/
def dSigned (d : Lane) : Bool := dClass d != 0 || dSg d == 1
def dSpc' (d : Lane) : Nat := if dClass d = 0 then dSpc d else 0

/-- A code from its fields. -/
def packCode (d : Lane) (neg : Bool) (e m : Nat) : Nat :=
  let p := dEM d
  (if neg && dSigned d then 2 ^ (p.1 + p.2) else 0) + e * 2 ^ p.2 + m

def largestCode (d : Lane) (neg : Bool) : Nat :=
  let f := dFmt d
  let p := f.fields f.big f.top
  packCode d neg p.1 p.2
def infCode (d : Lane) (neg : Bool) : Nat := packCode d neg (2 ^ (dEM d).1 - 1) 0
/-- The NaN code: all ones under SPC 1, else E all ones and the top mantissa bit. -/
def nanCode (d : Lane) (neg : Bool) : Nat :=
  let p := dEM d
  if dSpc' d = 1 then packCode d neg (2 ^ p.1 - 1) (2 ^ p.2 - 1) else packCode d neg (2 ^ p.1 - 1) (2 ^ (p.2 - 1))

/-- An encode to a narrow float, binary16 or bfloat16 (R75, R78). -/
def encFloat (d : Lane) (r : Rnd) (v : FVal) : Fl Nat :=
  let spc := dSpc' d
  match v with
  | .nan => if spc = 2 then (0, fNV) else (nanCode d false, 0#5)
  | .inf n =>
    if n && !dSigned d then (0, fNV)
    else if spc = 2 then (largestCode d n, fOF ||| fNX)
    else if dSat d then (largestCode d n, fOF ||| fNX)
    else if spc = 1 then (nanCode d n, fOF ||| fNX)
    else (infCode d n, 0#5)
  | .fin n x =>
    if x.isZero then ((if n && dSigned d then packCode d true 0 0 else 0), 0#5)
    else if n && !dSigned d then (0, fNV)
    else
      let p := (dFmt d).round r n x
      if p.ovf then
        (if dSat d || r == .rtz || spc == 2 then largestCode d n
         else if spc = 1 then nanCode d n else infCode d n, fOF ||| fNX)
      else
        let q := (dFmt d).fields p.m p.u
        (packCode d n q.1 q.2, flagIf p.inexact fNX ||| flagIf (p.tinyBefore && p.inexact) fUF)

/-- An integer put into n bits, signed or not, clamped or wrapped (R76). -/
def encInt (d : Lane) (sg : Bool) (n : Nat) (i : Int) : Fl Nat :=
  let lo : Int := if sg then -(2 ^ (n - 1)) else 0
  let hi : Int := if sg then 2 ^ (n - 1) - 1 else 2 ^ n - 1
  let c := if i < lo then lo else if hi < i then hi else i
  if c = i then ((i % 2 ^ n).toNat, 0#5)
  else (((if dSat d then c else i) % 2 ^ n).toNat, fOF ||| fNX)

/-- The rounding that a descriptor's RND asks for; `q` is the random word's top half, none: nearest even (15 R167). -/
def dRounding (d : Lane) (q : Option Nat) : Rnd :=
  match dRnd d with
  | 1 => (match q with
    | some q => .sto q
    | none => .rne)
  | 2 => .rtz
  | 3 => .rna
  | _ => .rne

/-- An encode of a block-scaled narrow integer: the scaled value rounded to an integer (R76). -/
def encBlkInt (d : Lane) (r : Rnd) (v : FVal) : Fl Nat :=
  let sg := dSg d == 1
  let n := dSg d + dMag d
  match v with
  | .nan => (0, fNV)
  | .inf neg =>
    (if dSat d then (encInt d sg n (if neg then -(2 ^ 64) else 2 ^ 64)).1 else 0, fOF ||| fNX)
  | .fin neg x =>
    let p := (x.scale (dBias d)).roundAt r neg 0
    let i : Int := if neg then -(p.1 : Int) else p.1
    let q := encInt d sg n i
    (q.1, q.2 ||| flagIf p.2 fNX)

/-- enc(d, word) to a code, with scale byte X and the random half word (R72, R74-R78). -/
def encode32 (d : Lane) (x : Nat) (q : Option Nat) (w : Lane) : Fl Nat :=
  let r := dRounding d q
  match dClass d with
  | 4 => (w.toNat, 0#5)
  | 6 => (w.toNat, 0#5)
  | 5 => encInt d true 16 w.toInt
  | 1 =>
    if dBlk d = 0 then encInt d (dSg d == 1) (dSg d + dMag d) w.toInt
    else if x = 255 then (0, fNV)
    else encBlkInt d r (match val32 w with
      | .fin n m => .fin n (m.scale (127 - (x : Int)))
      | v => v)
  | 0 =>
    if dBlk d = 0 then encFloat d r (val32 w)
    else if x = 255 then (if dSpc d = 2 then (0, fNV) else (nanCode d false, 0#5))
    else encFloat d r (match val32 w with
      | .fin n m => .fin n (m.scale (127 - (x : Int)))
      | v => v)
  | _ => encFloat d r (val32 w)

end Sys2Proof.Machine
end

