-- ==== Sys2Proof/Machine/Device.lean ====
section
/-! DEFINITION. The device registers of the package (19 R194, 41 R363, R370, 05 R65, 25 R251, 29 R292, 31 R308, 43 R375 R376). -/

namespace Sys2Proof.Machine

/-- Whole bits that a write may change, by register; none: the offset is read-only or unassigned. -/
def devMask (off : Nat) : Option Word :=
  if off < 0x40000 ∧ off % 0x1000 = 0 then some 0xFFFFFFFF#64
  else match off with
    | 0x40000 => some 0xFFFFFFFF#64
    | 0x40008 => some 0xFFFFFFFFFFFFFFFF#64
    | 0x40010 => some 0x1F#64
    | 0x40018 => some 0xFFFFFFFFFFFFFFFF#64
    | 0x100000 => some 0xFFFFFFFF#64
    | 0x100008 => some 0xFFFFFFFF#64
    | 0x200000 => some 0xFFFFFFFF#64
    | 0x200010 => some 0x7#64
    | 0x200100 => some 0x3#64
    | 0x200108 => some 0xFFFFFFFF#64
    | 0x200110 => some 0xFF#64
    | 0x308000 => some 0x1FFF#64
    | _ =>
      if 0x300000 ≤ off ∧ off < 0x308000 then
        (match off % 0x1000 with
          | 0 => some 0xFFFFFFFF0000000F#64
          | 0x10 => some 0x7#64
          | _ => none)
      else if 0x1000000 ≤ off ∧ off < 0x1800000 then
        (match off % 0x100000 with
          | 0x100 => some 0x1FF#64
          | 0x10400 => some 0x7F#64
          | _ => none)
      else none

/-- Read-only registers that the maps assign. -/
def devReadOnly (off : Nat) : Bool :=
  off == 0x200008 || (decide (0x300000 ≤ off) && decide (off < 0x308000) && off % 0x1000 == 8)
  || (decide (0x1000000 ≤ off) && decide (off < 0x1800000)
      && (decide (off % 0x100000 < 0x20) || (decide (0x10000 ≤ off % 0x100000) && decide (off % 0x100000 < 0x10400))))

/-- The die that a per-die register belongs to. -/
def devDie (off : Nat) : Nat := if off < 0x1000000 then (off - 0x300000) / 0x1000 else (off - 0x1000000) / 0x100000

/-- Whether an offset is one of a die that the package does not have. -/
def devAbsent (f : Form) (off : Nat) : Bool :=
  ((decide (0x300000 ≤ off) && decide (off < 0x308000)) || (decide (0x1000000 ≤ off) && decide (off < 0x1800000)))
  && decide (dieCount f ≤ devDie off)

/-- The value of the doubleword at an offset (41 R363). -/
def devRead (s : State) (off : Nat) : Word :=
  if devAbsent s.form off ∨ off % 8 ≠ 0 then Config.unassigned off
  else if 0x1000000 ≤ off ∧ off < 0x1800000 then
    let d := devDie off
    let r := off % 0x100000
    if r < 0x20 then
      (match find? (s.dieAt d).trees (r / 8) with
        | some t => BitVec.ofNat 64 (0x10000 + t.lnum)
        | none => 0#64)
    else if r = 0x100 then BitVec.ofNat 64 (s.dieAt d).prQlim
    else if 0x10000 ≤ r ∧ r < 0x10400 then
      let g := (s.groupAt (128 * d + (r - 0x10000) / 8)).sig
      (match g.held with
        | some l => BitVec.ofNat 64 (l + 0x10000 + (if g.team then 0x20000 + g.lead % 128 * 2 ^ 32 else 0))
        | none => 0#64)
    else if r = 0x10400 then BitVec.ofNat 64 (s.dieAt d).sgQlim
    else Config.unassigned off
  else if (devMask off).isSome ∨ devReadOnly off then look s.dev off
  else Config.unassigned off

/-- A value between bounds. -/
def clamp (lo hi v : Nat) : Nat := if v < lo then lo else if hi < v then hi else v

/-- The two halves of a doubleword that a write covers. -/
structure Halves where
  low : Bool
  high : Bool
  deriving DecidableEq, Repr

def DevSize.halves : DevSize → Halves
  | .wordLow => ⟨true, false⟩
  | .wordHigh => ⟨false, true⟩
  | .dword => ⟨true, true⟩

def Halves.mask (h : Halves) : Word :=
  (if h.low then 0xFFFFFFFF#64 else 0#64) ||| (if h.high then 0xFFFFFFFF00000000#64 else 0#64)

/-- FGAP just above a path skew (25 R251); above the greatest skew no value fits, and the spec gives none (log 195). -/
def gapAbove (skew : Nat) : Word := if skew + 1 < 2 ^ 32 then BitVec.ofNat 64 (skew + 1) else Config.freeWord skew &&& 0xFFFFFFFF#64

/-- What a register holds after its bits have been merged: the limits and effects of its map. `low`: the low word was written. -/
def devSettle (s : State) (off : Nat) (low high : Bool) (old v new : Word) : State :=
  let keep (w : Word) : State := { s with dev := put s.dev off w }
  if off < 0x40000 then
    -- a doorbell of a queue that does not exist has nothing to ring (41 R369)
    (if low && (find? s.queues (off / 0x1000)).isSome then keep new else s)
  else if off = 0x200000 then
    let skew := bits (look s.dev 0x200008) 31 0
    keep (if bits new 31 0 ≤ skew then gapAbove skew else new)
  else if off = 0x200010 then keep (if low then old &&& ~~~v else old)
  else if 0x300000 ≤ off ∧ off < 0x308000 then
    (if off % 0x1000 = 0x10 then keep (if low then old &&& ~~~v else old)
     else
      let thr := if low ∧ bits new 3 0 < 2 then 2 else bits new 3 0
      let win := bits new 63 32
      let w : Nat := if high ∧ win = 0 then 1 else if high ∧ 3600 < win then clamp 1 3600 (Config.freeWord s.free).toNat else win
      let s' := if high ∧ 3600 < win then { s with free := s.free + 1 } else s
      { s' with dev := put s'.dev off (BitVec.ofNat 64 (w * 2 ^ 32 + thr)) })
  else if 0x1000000 ≤ off then
    let d := s.dieAt (devDie off)
    (if !low then s
     else if off % 0x100000 = 0x100 then s.setDie (devDie off) { d with prQlim := clamp 16 256 (bits v 8 0) }
     else s.setDie (devDie off) { d with sgQlim := clamp 4 64 (bits v 6 0) })
  else keep new

/-- A write of one or both halves of the doubleword at an offset; `v` holds the written half in its place (19 R194). -/
def devWrite (s : State) (off : Nat) (h : Halves) (v : Word) : State :=
  match devMask off with
  | none => s
  | some m =>
    if devAbsent s.form off then s
    else
      let old := look s.dev off
      let wm := m &&& h.mask
      devSettle s off h.low h.high old (v &&& wm) ((old &&& ~~~wm) ||| (v &&& wm))

/-- A die's sticky UE: an uncorrectable error was found (43 R375). -/
def State.markUe (s : State) (die : Nat) : State :=
  let off := 0x300010 + 0x1000 * die
  { s with dev := put s.dev off (look s.dev off ||| 2) }

/-- The same where a cause is that of an uncorrectable error, found when its trap becomes pending. -/
def State.noteCause (s : State) (die code : Nat) : State := if code = 0x14 then s.markUe die else s

/-- The offset within the device registers of a physical address. -/
def devOff (pa : Nat) : Nat := pa - 0x0E0000000000

/-- A naturally aligned word or doubleword read of the device registers. -/
def devReadN (s : State) (pa n : Nat) : Nat :=
  let w := devRead s (devOff pa / 8 * 8)
  if n = 4 ∧ pa % 8 = 4 then bits w 63 32 else w.toNat % 2 ^ (8 * n)

def devWriteN (s : State) (pa n v : Nat) : State :=
  if n = 4 ∧ pa % 8 = 4 then devWrite s (devOff pa / 8 * 8) ⟨false, true⟩ (BitVec.ofNat 64 (v * 2 ^ 32))
  else devWrite s (devOff pa / 8 * 8) ⟨true, n == 8⟩ (BitVec.ofNat 64 v)

end Sys2Proof.Machine
end

