-- ==== Sys2Proof/Machine/Xlat.lean ====
section
/-! DEFINITION. Physical space, page tables and stations (19 R194-R199), the regions of the address map (R187), and hardware's own accesses
to translated memory. -/

namespace Sys2Proof.Machine

/-! ## Physical space and page tables (19 R194-R197) -/

inductive PhysKind where
  | hbm | dev | host
  deriving DecidableEq, Repr

/-- What a physical address names (R194). -/
def physKind (f : Form) (pa : Nat) : Option PhysKind :=
  if pa < (match f with
    | .v8d => 2 ^ 36
    | _ => 2 ^ 39) then some .hbm
  else if 0x0E0000000000 ≤ pa ∧ pa < 0x0E0100000000 then some .dev
  else if 2 ^ 51 ≤ pa ∧ pa < 2 ^ 52 then some .host
  else none

/-- How a walk fails (R197). -/
inductive WalkErr where
  | invalid | prot | ecc
  deriving DecidableEq, Repr

/-- The kinds of sequencer access. -/
inductive Acc where
  | ld | st | sigLd | sigSt | amo | fetch
  deriving DecidableEq, Repr

def Acc.writes : Acc → Bool
  | .st | .sigSt | .amo => true
  | _ => false

/-- The cause of a failed walk for an access. -/
def WalkErr.cause (e : WalkErr) (k : Acc) : Nat :=
  match e with
  | .invalid => if k.writes then 0x0A else 0x09
  | .prot => 0x0B
  | .ecc => 0x14

/-- The target of a table or page entry. -/
def entryPa (e : Word) : Nat := bits e 51 8 * 256
def entryAttr (e : Word) : Nat := bits e 61 60

/-- A table entry, read whole. -/
def State.readEntry (s : State) (pa : Nat) : Except WalkErr Word :=
  match physKind s.form pa with
  | none => .error .prot
  | some .dev => .ok (devRead s (devOff pa))
  | some _ => if s.isBad pa 8 then .error .ecc else .ok (BitVec.ofNat 64 (s.peekNat pa 8))

/-- The checks of one entry: whether it is a leaf. `page` and `table`: log2 of the alignments; none: not allowed here. -/
def checkEntry (e : Word) (page table : Option Nat) : Except WalkErr Bool :=
  if !bit e 0 then .error .invalid
  else if bits e 63 62 ≠ 0 ∨ bits e 59 52 ≠ 0 ∨ bits e 7 5 ≠ 0 then .error .prot
  else if bit e 1 then
    match page with
    | none => .error .prot
    | some b =>
      if entryAttr e = 3 ∨ (bit e 3 ∧ !bit e 2) ∨ entryPa e % 2 ^ b ≠ 0 then .error .prot else .ok true
  else
    match table with
    | none => .error .prot
    | some b => if entryPa e % 2 ^ b ≠ 0 then .error .prot else .ok false

/-- The table levels below the root: shift and width of the index, page size, alignment of the next table. -/
def walkLevels : List (Nat × Nat × Option Nat × Option Nat) :=
  [(39, 17, none, some 12), (30, 9, some 30, some 12), (21, 9, some 21, some 8), (16, 5, some 16, none)]

/-- A walk from a table (R196): the leaf entry and its page size in bits. -/
def State.walkFrom (s : State) (va : Nat) : List (Nat × Nat × Option Nat × Option Nat) → Nat → Except WalkErr (Word × Nat)
  | [], _ => .error .prot
  | (sh, wd, page, table) :: r, base =>
    match s.readEntry (base + 8 * (va / 2 ^ sh % 2 ^ wd)) with
    | .error e => .error e
    | .ok e =>
      match checkEntry e page table with
      | .error x => .error x
      | .ok true => .ok (e, sh)
      | .ok false => s.walkFrom va r (entryPa e)

/-- A walk of a space's tables; a space that is not mapped has no translation. -/
def State.walk (s : State) (space va : Nat) : Except WalkErr (Word × Nat) :=
  match find? s.spaces space with
  | none => .error .invalid
  | some sp => s.walkFrom va walkLevels sp.root

/-- A station caches a translation, giving one up when it holds 1,024 (R195). -/
def Die.cacheTlb (d : Die) (victim : Nat) (e : Tlb) : Die :=
  let mine := d.tlb.filter (fun x => x.station == e.station)
  if mine.length < 1024 then { d with tlb := d.tlb ++ [e] }
  else
    match mine[victim % mine.length]? with
    | some v => { d with tlb := d.tlb.erase v ++ [e] }
    | none => d

/-- Translate an address at a die's stations (R195-R199): the leaf entry, the physical address, and the stations after. Without a cached
translation the walk sees the tables as they stand at one moment (log 9). -/
def State.translate (s : State) (die space va : Nat) : Except WalkErr (Word × Nat × State) :=
  let st := va / 2 ^ 16 % 16
  let d := s.dieAt die
  let hit := d.tlb.find? (fun e => e.station == st && e.space == space && e.page == va / 2 ^ e.bits)
  let entry (leaf : Word) (b : Nat) : Tlb := { station := st, space := space, page := va / 2 ^ b, bits := b, leaf := leaf }
  let finish (leaf : Word) (b : Nat) (s : State) : Except WalkErr (Word × Nat × State) :=
    let pa := entryPa leaf + va % 2 ^ b
    if (physKind s.form pa).isNone then .error .prot else .ok (leaf, pa, s)
  match s.walk space va, hit with
  | .ok (leaf, b), none =>
    finish leaf b (State.setDie { s with free := s.free + 1 } die (d.cacheTlb (Config.tlbVictim s.free) (entry leaf b)))
  | .error e, none => .error e
  | w, some h =>
    -- a walk that races a page-table store (R199): the cached translation or the new one
    if (match w with
      | .ok p => p == (h.leaf, h.bits)
      | .error _ => false) then finish h.leaf h.bits s
    else if Config.useCached s.free then finish h.leaf h.bits { s with free := s.free + 1 }
    else match w with
      | .error e => .error e
      | .ok (leaf, b) =>
        finish leaf b (State.setDie { s with free := s.free + 1 } die { d with tlb := d.tlb.erase h ++ [entry leaf b] })

/-- The permission of a leaf for an access (R196). -/
def permits (leaf : Word) : Acc → Bool
  | .ld | .sigLd => bit leaf 2
  | .fetch => bit leaf 4
  | .st | .sigSt | .amo => bit leaf 3

/-- An address in the 64 KiB pages of a placed launch's text, which are mapped for read and execute only (11 R107). -/
def Launch.textPage (x : Launch) (va : Nat) : Bool :=
  x.placed && x.textSize != 0 && decide (x.textBase.toNat / 65536 ≤ va / 65536)
  && decide (va / 65536 ≤ (x.textBase.toNat + x.textSize - 1) / 65536)
/-- The same for the launches of a space. -/
def State.inText (s : State) (space va : Nat) : Bool := s.launches.any (fun p => p.2.space == space && p.2.textPage va)
/-- The permission that counts for an access: that of the page's leaf, and on text pages, which the command processor has mapped at
placement, read and execute (11 R107). -/
def State.allows (s : State) (space va : Nat) (leaf : Word) (k : Acc) : Bool := if s.inText space va then !k.writes else permits leaf k

/-! ## The address map (19 R187) -/

inductive Region where
  | raw (off : Nat)
  | lens (n off : Nat)
  | param (off : Nat)
  | gmem (off : Nat)
  | ctx
  | sig (off : Nat)
  | peer (t off : Nat)
  | xlat
  | none
  deriving DecidableEq, Repr

def regionOf (a : Nat) : Region :=
  if a < 0x18000 then .raw a
  else if a < 0x100000 then .none
  else if a < 0x800000 then .lens (a / 0x100000) (a % 0x100000)
  else if a < 0x810000 then .param (a - 0x800000)
  else if a < 0x1000000 then .none
  else if a < 0x10EC000 then .gmem (a - 0x1000000)
  else if a < 0x10FC000 then .ctx
  else if a < 0x1100000 then .sig (a - 0x1000000)
  else if a < 0x2000000 then .none
  else if a < 0x2200000 then (if a % 0x20000 < 0x18000 then .peer ((a - 0x2000000) / 0x20000) (a % 0x20000) else .none)
  else if a < 2 ^ 40 then .none
  else if a < 2 ^ 56 then .xlat
  else .none

/-! ## Translated memory for hardware's own accesses (spill engine, queues) -/

/-- One doubleword of translated memory, read by a die's hardware under a space. -/
def State.xlatWord (s : State) (die space : Nat) (va : Word) : Except WalkErr (Word × State) :=
  if regionOf va.toNat ≠ .xlat then .error .invalid
  else
    match s.translate die space va.toNat with
    | .error e => .error e
    | .ok (leaf, pa, s') =>
      if !s.allows space va.toNat leaf .ld then .error .prot
      else if s.isBad pa 8 then .error .ecc
      else .ok (BitVec.ofNat 64 (s.peekNat pa 8), s')

/-- n doublewords from an address. -/
def State.xlatWords (s : State) (die space : Nat) (va : Word) : Nat → Except WalkErr (List Word × State)
  | 0 => .ok ([], s)
  | n + 1 =>
    match s.xlatWord die space va with
    | .error e => .error e
    | .ok (w, s') =>
      match s'.xlatWords die space (va + 8) n with
      | .error e => .error e
      | .ok (ws, s'') => .ok (w :: ws, s'')

/-- Write doublewords to translated memory; a word whose address cannot be written is lost, and so is one to a device register's page, where
the spec says nothing of a spill (log 151). -/
def State.xlatStore (s : State) (die space : Nat) (va : Word) : List Word → State
  | [] => s
  | w :: ws =>
    let s' := match s.translate die space va.toNat with
      | .error _ => s
      | .ok (leaf, pa, s') => if s.allows space va.toNat leaf .st && physKind s.form pa != some PhysKind.dev then s'.poke pa (leBytes 8 w.toNat) else s'
    s'.xlatStore die space (va + 8) ws

end Sys2Proof.Machine
end

