-- ==== Sys2Proof/Machine/Life.lean ====
section
/-! DEFINITION. How a launch ends: releases and completion record (03 R48, 17 R169, 27 R272, 29 R285, 31 R301, 33 R320,
35 R333, 41 R367). -/

namespace Sys2Proof.Machine

/-- Memory with n bytes from key k written with zeros (05 R54, 27 R272). -/
def zeroRange (m : Memory) (k n : Nat) : Memory := m.filter (fun c => !(decide (k ≤ c.1) && decide (c.1 < k + n)))

/-- A mark of an uncorrectable error is of a unit, 0 to 7 a slot and 8 to 11 an accumulator. -/
def badOf (u x : Nat) : Bool := if u < 8 then x / 32 == u || x / 32 == 8 + u else x == 504 + u

/-- A scrubbed unit of a tile: code, scale and tag zero, or +0 elements and flags clear (17 R169). -/
def Tile.scrub (t : Tile) (u : Nat) : Tile :=
  let t := { t with owner := del t.owner u, badUnit := t.badUnit.filter (fun x => !badOf u x) }
  if u < 8 then
    { t with tag := put t.tag u 0, accTag := put t.accTag u 0,
             code := t.code.filter (fun p => decide (p.1 / 1024 ≠ u)), scale := t.scale.filter (fun p => decide (p.1 / 64 ≠ u)) }
  else { t with acc := t.acc.filter (fun p => decide (p.1 / 1024 ≠ u - 8)), aflg := put t.aflg (u - 8) 0 }

/-- A vector load that has not been read. -/
def VEntry.isLoad (e : VEntry) : Bool :=
  match e.op with
  | .load _ _ => true
  | _ => false

/-- A sequencer stops: a load that it waits for is abandoned (35 R341). -/
def Seq.halt (q : Seq) : Seq :=
  { q with mode := .idle, hold := none, stop := false, vq := q.vq.filter (fun e => !e.isLoad),
           -- what its station held is discarded (19 R198)
           k := { q.k with heldAcc := [], handled := 0, fault := none } }

namespace State

def zero (s : State) (k n : Nat) : State :=
  { s with mem := zeroRange s.mem k n, bad := s.bad.filter (fun u => !coveredUnit k n u) }

/-- Slots of a group whose records belong to a launch. -/
def slotsOf (s : State) (g l : Nat) : List Nat :=
  (List.range 256).filter (fun i => s.recState g i != 0 && s.recLnum g i == l)

/-- Free the claimed units that a launch holds on a tile. -/
def freeUnits (s : State) (l t : Nat) : State :=
  let x := s.tileAt t
  s.setTile t (((x.owner.filter (fun p => p.2.lnum == l)).map (·.1)).foldl Tile.scrub x)

/-- Free a group's accumulator and meetings that a launch holds. -/
def freeEngines (s : State) (l g : Nat) : State :=
  let x := s.groupAt g
  s.setGroup g { x with sig := (if x.sig.held = some l then Sig.reset else x.sig),
                        meet := x.meet.filter (fun p => p.2.lnum ≠ l) }

/-- Unbind a launch's handles on a die, zero the block slots that any handle of it covered, and free its trees (27 R272, 29 R285). -/
def freeHandles (s : State) (l d : Nat) : State :=
  let x := s.dieAt d
  let hs := (x.handles.map (·.2) ++ x.unbound).filter (fun h => h.lnum == l)
  let s := hs.foldl (fun s h => (List.range h.blocks).foldl (fun s b => s.zero (h.key d b) h.slotSize) s) s
  s.setDie d { x with handles := x.handles.filter (fun p => p.2.lnum ≠ l), unbound := x.unbound.filter (fun h => h.lnum ≠ l),
                      trees := x.trees.filter (fun p => p.2.lnum ≠ l), leaving := x.leaving.filter (fun p => p.2.lnum ≠ l) }

/-- Launches that end with a launch: itself and the secondaries bound to it (35 R333). -/
def withSecondaries (s : State) (l : Nat) : List Nat :=
  l :: (s.launches.filter (fun p => p.2.secondary && p.2.prim == l && !p.2.orphan)).map (·.1)

/-- The launches that are left when one ends; secondaries bound to it have no primary any more (log 177). -/
def launchesAfter (s : State) (l : Nat) : Tab Launch :=
  (del s.launches l).map (fun p => if p.2.secondary ∧ p.2.prim = l then (p.1, { p.2 with orphan := true }) else p)

/-- Stop the sequencers that run a continuation of a launch. -/
def stopSeqs (s : State) (l : Nat) : State :=
  let stop (q : Seq) : Seq := if q.k.lnum = l ∧ q.mode ≠ .idle then q.halt else q
  { s with q := stop s.q, seqs := s.seqs.map (fun p => (p.1, stop p.2)) }

/-- Copies, engine commands, matrix commands and pushed vector instructions of a launch that have not ended (03 R48, 35 R333). -/
def outstanding (s : State) (l : Nat) : Bool :=
  let seq (q : Seq) : Bool := q.mq.any (fun e => e.lnum == l) || (q.k.lnum == l && !q.vq.isEmpty)
  seq s.q || s.seqs.any (fun p => seq p.2)
  || s.dies.any (fun d => d.2.copies.any (fun c => c.lnum == l) || d.2.everyTree.any (fun t => t.2.lnum == l && !t.2.queue.isEmpty))
  || s.groups.any (fun g => (g.2.sig.held == some l && !g.2.sig.queue.isEmpty)
      || g.2.meet.any (fun m => m.2.lnum == l && !m.2.queue.isEmpty))

/-- Discard the records of a launch and its staged stores; the number of waiting records comes with it. Spills that their engine has accepted
are still written out, except those of a continuation that executed DONE (13 R129, log 184). -/
def discardRecords (s : State) (l : Nat) : State × Nat :=
  let gs := ((s.footOf l).map grpOf).dedup
  let waiting := (gs.map (fun g => ((s.slotsOf g l).filter (fun i => s.recState g i == 3)).length)).sum
  let s := s.stopSeqs l
  let s := gs.foldl (fun s g => (s.slotsOf g l).foldl (fun s i => s.freeSlot g i) s) s
  ({ s with staged := s.staged.filter (fun e => e.lnum ≠ l), early := s.early.filter (fun e => e.lnum ≠ l) }, waiting)

/-- Copies that were posted behind accesses which a station held may start: these have been replayed, or discarded (19 R198, 35 R333). -/
def freeCopies (s : State) (mine : Copy → Bool) : State :=
  if s.dies.all (fun d => d.2.copies.all (fun c => !(c.held && mine c))) then s
  else { s with dies := s.dies.map (fun d => (d.1, { d.2 with copies := d.2.copies.map (fun c => if mine c then { c with held := false } else c) })) }

/-- The completion record (41 R367), 64 bytes. -/
def completion (status waiting : Nat) (detstat : BitVec 3) (detaddr : Word) (rest : List Word) : List Byte :=
  leBytes 4 status ++ leBytes 4 waiting ++ leBytes 8 detstat.toNat ++ leBytes 8 detaddr.toNat
    ++ ((rest ++ List.replicate (5 - rest.length) 0#64).flatMap (fun w => leBytes 8 w.toNat))

/-- A record for the host is written whole, at a translated address of a space (41 R367). -/
def report (s : State) (space : Nat) (a : Word) (bs : List Byte) : State :=
  let ws := (List.range (bs.length / 8)).map (fun i => BitVec.ofNat 64 (leNat ((bs.drop (8 * i)).take 8)))
  let s := s.xlatStore 0 space a ws
  { s with hostOut := s.hostOut ++ [(a, bs)] }

/-- End a launch with a status: records, staged stores, units, engines, handles and barriers go; the record is written. `w`: waiting
records discarded before. -/
def endLaunch (s : State) (l status : Nat) (rest : List Word) (w : Nat) : State :=
  match s.launchAt? l with
  | none => s
  | some x =>
    let foot := s.footOf l
    let p := s.discardRecords l
    let s := foot.foldl (fun s t => s.freeUnits l t) p.1
    let s := (foot.map grpOf).dedup.foldl (fun s g => s.freeEngines l g) s
    let s := (List.range (dieCount s.form)).foldl (fun s d => s.freeHandles l d) s
    let s := { s with launches := s.launchesAfter l, msgs := s.msgs.filter (fun m => m.lnum ≠ l),
                      queued := s.queued.filter (fun m => m.lnum ≠ l),
                      bars := s.bars.filter (fun p => decide (p.1 / 2048 / 5 ≠ l)),
                      mem := zeroRange s.mem (paramKey l 0) (2 ^ 16) }
    -- the job table lives as long as a launch of the job (25 R245)
    let s := if s.launches.any (fun p => p.2.job == x.job) then s
      else { s with jobSpaces := s.jobSpaces.filter (fun j => j.1 ≠ x.job) }
    s.report x.space x.compl (completion status (w + p.2) x.detstat x.detaddr rest)

/-- COORD of a sequencer (01 R11). -/
def coordOf (s : State) (sq : Nat) : Word :=
  BitVec.ofNat 64 (roleOf sq * 2 ^ 25 + s.dgrp.toNat * 2 ^ 19 + s.pkg.toNat * 2 ^ 14 + tileOf sq)

/-- Halt one launch: its records and staged stores go at once; it ends once what it has posted has (35 R333). -/
def haltOne (s : State) (l status : Nat) (rest : List Word) : State :=
  match s.launchAt? l with
  | none => s
  | some x =>
    if x.halted.isSome then s
    else
      let p := (s.freeCopies (fun c => c.lnum == l)).discardRecords l
      if p.1.outstanding l then p.1.setLaunch l { x with halted := some (status, rest, p.2) } else p.1.endLaunch l status rest p.2

/-- Halt a launch and its secondaries as trapped (35 R333). -/
def haltLaunch (s : State) (l : Nat) (rest : List Word) : State := (s.withSecondaries l).foldl (fun s l => s.haltOne l 2 rest) s

end State
end Sys2Proof.Machine
end

