-- ==== Sys2Proof/Machine/Ops.lean ====
section
/-! DEFINITION. The shared operations of a sequencer: outcomes, retiring, holding, taking a trap and returning from one
(35 R329-R335), determinism events (37 R349-R352), and the checks of the address map (19 R187-R189). -/

namespace Sys2Proof.Machine

abbrev Res := Host.Outcome State Fault Refusal

/-! ## Traps (35 R330-R333) -/

/-- A cause with what it sets. -/
structure Trap where
  code : Nat
  /-- BADADDR; none: unchanged. -/
  addr : Option Word := none
  /-- BADINST; none: unchanged. -/
  inst : Option Lane := none
  /-- EPC at the next instruction. -/
  after : Bool := false
  info : Nat := 0
  hwbp : Bool := false
  async : Bool := false
  deriving DecidableEq, Repr

/-- A trap with a failing address. -/
def Trap.at (code : Nat) (a : Word) : Trap := { code := code, addr := some a }
/-- A trap of the decode checks, with the instruction word (11 R120). -/
def Trap.word (code : Nat) (w : Lane) : Trap := { code := code, inst := some w }

/-- CAUSE as R330 lays it out. -/
def Trap.cause (t : Trap) : Word :=
  BitVec.ofNat 64 (t.info % 1024 * 2 ^ 16 + b2n t.hwbp * 2 ^ 9 + b2n t.async * 2 ^ 8 + t.code % 256)

namespace State

/-- TVEC.BASE · 4. -/
def handler (s : State) : Word := s.csr 0x005 &&& 0x00FFFFFFFFFFFFFC#64

/-- The resume address of a trap. -/
def resumeAt (s : State) (t : Trap) : Word := if t.after then s.pc + 4 else s.pc

/-- A trap is fatal (R333). -/
def fatal (s : State) : Bool := s.handler == 0#64 || bit (s.csr 0x000) 3

/-- Records of a launch that lie in its buffer, 40 bytes each (log 128). -/
def scopeUsed (s : State) (l : Nat) : Nat :=
  40 * ((s.scopeLog.drop (s.launchAt l).scopeFrom).filter (fun e => e.lnum == l && e.addr.isSome)).length
/-- Records of a launch that were dropped since the host enabled them: the trace buffer was full. -/
def scopeDrops (s : State) (l : Nat) : Nat :=
  ((s.scopeLog.drop (s.launchAt l).scopeFrom).filter (fun e => e.lnum == l && e.addr.isNone)).length

/-- Where the next record of a launch goes: in its buffer while there is room. -/
def scopeRoom (s : State) (l : Nat) (buf : Word) (size : Nat) : Option Word :=
  if s.scopeUsed l + 40 ≤ size then some (buf + BitVec.ofNat 64 (s.scopeUsed l)) else none

/-- A periscope record of a sequencer, when the host has enabled them for the launch (35 R346): it goes to the function that owns the launch. -/
def recordAt (s : State) (sq l kind : Nat) (v w : Word) : State :=
  match (s.launchAt l).scope with
  | none => s
  | some (buf, size) =>
    { s with scopeLog := s.scopeLog ++ [{ lnum := l, clk := BitVec.ofNat 64 s.clk, coord := s.coordOf sq, kind := kind, v := v, w := w,
                                          function := (s.launchAt l).function, addr := s.scopeRoom l buf size }] }
/-- One of the focused sequencer. -/
def record (s : State) (kind : Nat) (v w : Word) : State := s.recordAt s.cur s.q.k.lnum kind v w

/-- The bytes of a record in its buffer (log 128). -/
def scopeBytes (e : ScopeEntry) : List Byte :=
  leBytes 8 e.clk.toNat ++ leBytes 8 e.coord.toNat ++ leBytes 8 e.kind ++ leBytes 8 e.v.toNat ++ leBytes 8 e.w.toNat

/-- Taking a trap (35 R331, R333): the one operation of every cause. An uncorrectable error that it reports has been found (43 R375), that of an
asynchronous trap when it became pending. -/
def enterTrap (s : State) (t : Trap) : State :=
  let s := if t.code = 0x14 ∧ !t.async then s.markUe s.die else s
  let bad := t.addr.getD (s.csr 0x004)
  let inst := match t.inst with
    | some w => w.zeroExtend 64
    | none => s.csr 0x003
  let epc := s.resumeAt t
  if s.fatal then s.haltLaunch s.q.k.lnum [s.coordOf s.cur, t.cause, epc, bad, inst]
  else
    let stat := s.csr 0x000
    let entry := s.handler
    let s := s.record 0 t.cause epc
    let s := s.setCsr 0x201 stat
    let s := s.setCsr 0x001 t.cause
    let s := s.setCsr 0x002 epc
    let s := s.setCsr 0x004 bad
    let s := s.setCsr 0x003 inst
    let s := s.setCsr 0x000 (stat ||| 0x9#64)
    let s := s.setPc entry
    let s := s.setK { s.q.k with noBreak := false }
    { s with q := { s.q with hold := none } }

/-- One more instruction retired (35 R337). -/
def countRetired (s : State) : State := s.setCsr 0x015 (s.csr 0x015 + 1)

/-- An instruction completes and control goes to `target`. -/
def goto (s : State) (target : Word) : State :=
  let s := s.countRetired
  let s := s.setK { s.q.k with pc := target, noBreak := false }
  { s with q := { s.q with hold := none } }

/-- An instruction completes (11 R106: the next PC is PC + 4). -/
def retire (s : State) : State := s.goto (s.pc + 4)

/-- The PC stays at the instruction (05 R382). -/
def holdFor (s : State) (h : Hold) : State := { s with q := { s.q with hold := some h } }

end State

def trapR (s : State) (t : Trap) : Res := .next (s.enterTrap t)
def heldR (s : State) : Res := .next (s.holdFor .other)
def doneR (s : State) : Res := .next s.retire

/-- What a checked operation answers: a trap, or the state it leaves, retired. -/
def checked (s : State) : Except Trap State → Res
  | .error t => trapR s t
  | .ok s' => doneR s'

/-- X(d) := v, and the instruction completes: the shape of a register instruction. -/
def writeR (s : State) (d : BitVec 5) (v : Word) : Res := doneR (s.setX d v)

namespace State

/-- Set sticky flags in FFLAGS (07 R80). -/
def addFlags (s : State) (f : BitVec 5) : State := s.setCsr 0x007 (s.csr 0x007 ||| f.zeroExtend 64)

/-! ## Determinism (37 R351, R352) -/

/-- An event that finds STCONF and ORDDEP clear samples its address. -/
def detEvent (s : State) (l : Nat) (orddep : Bool) (addr : Word) : State :=
  match s.launchAt? l with
  | none => s
  | some x =>
    let fresh := x.detstat &&& 3#3 == 0#3
    let b : BitVec 3 := if orddep then 2#3 else 1#3
    let x := if fresh then { x with detaddr := addr, detstat := (if orddep then 4#3 else 0#3) } else x
    s.setLaunch l { x with detstat := x.detstat ||| b }

/-! ## Phases (03 R28, R32) -/

/-- The exchange phase of a level is open for a group of a launch. -/
def exchOpen (s : State) (l : Nat) (lv : Level) (grp : Nat) : Bool := (s.barOf l lv grp).exch

/-- The first byte at or after `lo`, below lo + n, of a frozen landing zone of a memory (03 R32), as an offset from lo. -/
def frozenAt (s : State) (l grp memory lo n : Nat) : Option Nat :=
  let zs := (s.launchAt l).zones.filter (fun z =>
    z.memory == memory && decide (z.start < lo + n) && decide (lo < z.start + z.size) && s.exchOpen l z.lv grp)
  (zs.map (fun z => z.start - lo)).min?

end State

/-- An asynchronous error becomes pending; one at a time, further ones stay with their source (35 R332). -/
def Cont.addPending (k : Cont) (code : BitVec 8) (a : Word) : Cont :=
  match k.pend with
  | none => { k with pend := some (code, a) }
  | some _ => { k with pendMore := k.pendMore ++ [(code, a)] }

/-! ## Accesses (19 R187-R189) -/

/-- Bytes from an address to its region's end. -/
def Region.room (a : Nat) (desc : Lane) : Region → Nat
  | .raw off => 0x18000 - off
  | .lens _ off => 4 * (786432 / dWidth desc) - off
  | .param off => 0x10000 - off
  | .gmem off => 0xEC000 - off
  | .sig off => 0x100000 - off
  | .peer _ off => 0x18000 - off
  | .xlat => 2 ^ 56 - a
  | .ctx => 0
  | .none => 0

/-- An access that cannot be made: cause, failing address, and whether a station found it (R198). -/
structure Fail where
  code : Nat
  addr : Word
  station : Bool
  deriving DecidableEq, Repr

def Fail.trap (f : Fail) : Trap := .at f.code f.addr

/-- The scale byte of an element at raw bit offset b (07 R73): none: treated as 127. -/
def scaleOff (desc : Lane) (lscl : Word) (b : Nat) : Option Nat :=
  let eorg := bits lscl 48 32
  if dBlk desc = 0 ∨ b < 8 * eorg then none
  else some (bits lscl 16 0 + (b / dWidth desc - 8 * eorg / dWidth desc) / dRun desc)

namespace State

/-- LENSn and LSCLn of the running continuation. -/
def lensOf (s : State) (n : Nat) : Lane := (s.csr (0x08F + n)).truncate 32
def lsclOf (s : State) (n : Nat) : Word := s.csr (0x097 + n)

/-- The first byte outside the launch's tile SRAM share, as an offset from `off` (19 R188). -/
def outsideShare (s : State) (l tile off n : Nat) : Option Nat :=
  let x := s.launchAt l
  if !(s.footOf l).contains tile then some 0
  else if off < x.shBase then some 0
  else if x.shBase + x.shSize < off + n then some (x.shBase + x.shSize - off)
  else none

/-- The first byte outside a secondary's group share (03 R47). -/
def outsideGroupShare (s : State) (l off n : Nat) : Option Nat :=
  let x := s.launchAt l
  if !x.secondary then none
  else if off < x.gsBase then some 0
  else if x.gsBase + x.gsSize < off + n then some (x.gsBase + x.gsSize - off)
  else none

/-- The effective level and unit to which a plain store of the running continuation is staged. -/
def stageAt (s : State) (lv : Level) : Path :=
  let e := s.effLevel s.q.k.lnum lv
  .staged e (unitOf e s.grp)

/-- The checks of a translated access (19 R189 steps 5 to 7, R196, R197) and its target. Where the rules give two of a page's faults no order,
the permission comes before ATTR, and both before the size of a device-register access (log 199). -/
def locateXlat (s : State) (k : Acc) (a : Word) (n : Nat) : Except Fail (Target × State) :=
  let l := s.q.k.lnum
  match s.frozenAt l s.grp 3 a.toNat n with
  | some d => .error ⟨0x08, a + BitVec.ofNat 64 d, false⟩
  | none =>
    match s.translate s.die s.launch.space a.toNat with
    | .error e => .error ⟨e.cause k, a, true⟩
    | .ok (leaf, pa, s') =>
      let kind := (physKind s.form pa).getD .hbm
      let attr := entryAttr leaf
      if k = .ld ∧ kind ≠ .dev ∧ attr ≠ 2 ∧ !s.exchOpen l .package s.grp then .error ⟨0x07, a, false⟩
      else if !s.allows s.launch.space a.toNat leaf k then .error ⟨0x0B, a, true⟩
      else if k = .amo ∧ attr ≠ 0 then .error ⟨0x0C, a, true⟩
      else if kind = .dev ∧ n ≠ 4 ∧ n ≠ 8 then .error ⟨0x04, a, false⟩
      else
        let p : Path :=
          if kind = .dev then .register (devOff pa)
          else if attr = 2 then .device
          else if k = .st then s.stageAt .package
          else .now
        .ok (⟨pa, p, 0, 0, a⟩, s')

/-- The checks of R189 for one access of n bytes, in their order, and its target. `scalar`: a word access is expected through a
lens window (07 R68). -/
def locate (s : State) (k : Acc) (a : Word) (n : Nat) : Except Fail (Target × State) :=
  let l := s.q.k.lnum
  let r := regionOf a.toNat
  let bad (c : Nat) (d : Nat) : Except Fail (Target × State) := .error ⟨c, a + BitVec.ofNat 64 d, false⟩
  let desc := match r with
    | .lens w _ => s.lensOf w
    | _ => 0#32
  let room := r.room a.toNat desc
  let tileTarget (tile off len w b : Nat) (addr : Nat) : Except Fail (Target × State) :=
    match s.outsideShare l tile off len with
    | some d => bad 0x0B (if w = 0 then d else 0)
    | none =>
      match s.frozenAt l s.grp 0 off len with
      | some d => bad 0x08 (if w = 0 then d else 0)
      | none =>
        .ok (⟨tileKey tile off, (if k = .st ∧ tile ≠ s.tile then s.stageAt .group else .now), w, b, BitVec.ofNat 64 addr⟩, s)
  match r with
  | .none => bad 0x05 0
  | .ctx => bad 0x05 0
  | .raw off =>
    if room < n then bad 0x05 room
    else if a.toNat % n ≠ 0 then bad 0x04 0
    else tileTarget s.tile off n 0 0 a.toNat
  | .peer t off =>
    if room < n then bad 0x05 room
    else if a.toNat % n ≠ 0 then bad 0x04 0
    else tileTarget (s.grp * 16 + t) off n 0 0 a.toNat
  | .lens w off =>
    if desc = 0#32 then bad 0x05 0
    else if off ≥ 4 * (786432 / dWidth desc) then bad 0x05 0
    else if room < n then bad 0x05 room
    else
      let b := off / 4 * dWidth desc
      if (scaleOff desc (s.lsclOf w) b).any (fun o => decide (0x18000 ≤ o)) then bad 0x05 0
      else if a.toNat % n ≠ 0 then bad 0x04 0
      else if k ≠ .ld ∧ k ≠ .st then bad 0x0B 0
      else if n ≠ 4 then bad 0x04 0
      else tileTarget s.tile (b / 8) ((dWidth desc + 7) / 8) w b a.toNat
  | .param off =>
    if room < n then bad 0x05 room
    else if bits (s.csr 0x081) 16 0 = 0 then bad 0x06 0
    else if a.toNat % n ≠ 0 then bad 0x04 0
    else if k ≠ .ld then bad 0x0B 0
    else .ok (⟨paramKey l off, .now, 0, 0, a⟩, s)
  | .gmem off =>
    if room < n then bad 0x05 room
    else if a.toNat % n ≠ 0 then bad 0x04 0
    else if k = .sigLd ∨ k = .sigSt then bad 0x0B 0
    else
      match s.outsideGroupShare l off n, s.frozenAt l s.grp 1 off n with
      | some d, _ => bad 0x0B d
      | none, some d => bad 0x08 d
      | none, none =>
        if k = .ld ∧ !s.exchOpen l .group s.grp then bad 0x07 0
        else .ok (⟨groupKey s.grp off, (if k = .st then s.stageAt .group else .now), 0, 0, a⟩, s)
  | .sig off =>
    if room < n then bad 0x05 room
    else if a.toNat % n ≠ 0 then bad 0x04 0
    else if k = .ld ∨ k = .st then bad 0x0B 0
    else
      match s.outsideGroupShare l off n, s.frozenAt l s.grp 1 off n with
      | some d, _ => bad 0x0B d
      | none, some d => bad 0x08 d
      | none, none => .ok (⟨groupKey s.grp off, .now, 0, 0, a⟩, s)
  | .xlat =>
    if room < n then bad 0x05 room
    else if a.toNat % n ≠ 0 then bad 0x04 0
    else s.locateXlat k a n

end State
end Sys2Proof.Machine
end

