-- ==== Sys2Proof/Machine/Blocks.lean ====
section
/-! DEFINITION. Parameter blocks of the copy engines (27 R255-R262): fields, checks, and where each element lies. -/

namespace Sys2Proof.Machine

/-- n bytes of a block at an offset, as a number. -/
def fieldAt (bs : List Byte) (off n : Nat) : Nat := leNat ((bs.drop off).take n)
/-- A signed 24-bit stride. -/
def stride24 (v : Nat) : Int := (BitVec.ofNat 24 v).toInt

/-- A block's size from its first word (R255). -/
def blockSize (w0 : Nat) : Nat := if w0 / 2 ^ 30 = 3 ∨ 4 ≤ w0 / 2 ^ 27 % 8 then 128 else 64

/-- The fields of a block (R255-R257). -/
def parseBlock (bs : List Byte) : Block :=
  let w0 : Lane := BitVec.ofNat 32 (fieldAt bs 0 4)
  let w1 : Lane := BitVec.ofNat 32 (fieldAt bs 4 4)
  let big := blockSize w0.toNat = 128
  let str (d : Nat) : Nat := if d < 4 then 40 + 6 * d else 64 + 6 * (d - 4)
  { kind := bits w0 31 30, ndim := bits w0 29 27 + 1, esz := bits w0 26 25, sk := bits w0 24 23, dk := bits w0 22 21,
    tls := bits w0 20 18, scope := bits w0 17 15, rop := bits w0 14 11, of := bit w0 10, spx := bit w0 9, sig := bit w0 8,
    lanes := bits w0 7 6 + 1, ret := bit w0 4, mcn := bits w0 3 0, rdir := bits w1 31 30, rpkg := bits w1 29 19,
    lwin := bits w1 18 16, mb := bit w1 15, mboff := 4 * bits w1 14 0, src := BitVec.ofNat 64 (fieldAt bs 8 8),
    dst := BitVec.ofNat 64 (fieldAt bs 16 8), ext := (List.range 8).map (fun d => fieldAt bs (24 + 2 * d) 2),
    ss := (List.range 8).map (fun d => if d < 4 ∨ big then stride24 (fieldAt bs (str d) 3) else 0),
    ds := (List.range 8).map (fun d => if d < 4 ∨ big then stride24 (fieldAt bs (str d + 3) 3) else 0),
    colmask := BitVec.ofNat 64 (if big then fieldAt bs 88 8 else 0), rowmask := BitVec.ofNat 32 (if big then fieldAt bs 96 4 else 0) }

/-- Reserved bits and values of a block (R255-R257). -/
def blockReserved (bs : List Byte) (b : Block) : Bool :=
  bit (BitVec.ofNat 32 (fieldAt bs 0 4)) 5 || decide (5 ≤ b.scope) || b.rdir == 3
  || (decide (blockSize (fieldAt bs 0 4) = 128) && fieldAt bs 100 28 != 0)
  || (b.kind != 3 && (b.colmask != 0#64 || b.rowmask != 0#32))

namespace Block

/-- The number of elements. -/
def count (b : Block) : Nat := (b.ext.take b.ndim).foldl (· * ·) 1
def bytes (b : Block) : Nat := 2 ^ b.esz
/-- The index vector of element e (R259). -/
def index (b : Block) (e : Nat) : List Nat :=
  ((b.ext.take b.ndim).foldl (fun (acc : List Nat × Nat) x => (acc.1 ++ [acc.2 % max x 1], acc.2 / max x 1)) ([], e)).1
/-- The address of element e on a side with linear addresses. -/
def sideAt (b : Block) (base : Word) (strides : List Int) (e : Nat) : Word :=
  base + BitVec.ofInt 64 (2 ^ b.esz * (List.zipWith (fun (i : Nat) (s : Int) => (i : Int) * s) (b.index e) strides).sum)
def srcAt (b : Block) (e : Nat) : Word := b.sideAt b.src b.ss e
def dstAt (b : Block) (e : Nat) : Word := b.sideAt b.dst b.ds e
end Block

/-- Where a linear address leads: its memory key and its region's name for zones (03 R26), or why not. -/
structure Place where
  key : Nat
  deriving DecidableEq, Repr

/-- A TILE word (23 R227, 27 R258): package tile and raw offset. -/
def tileWordTile (a : Word) : Nat := bits a 30 28 * 2048 + bits a 27 21 * 16 + bits a 20 17
def tileWordOff (a : Word) : Nat := bits a 16 0

namespace State

/-- A LOCAL address of an issuer on a tile, for an engine (R258, R265 step 5); `psz`: its parameter window's size (19 R191). -/
def localKey (s : State) (l tile psz : Nat) (source : Bool) (a : Word) (n : Nat) : Except Fail Nat :=
  let r := regionOf a.toNat
  let room := r.room a.toNat 0
  let bad (c d : Nat) : Except Fail Nat := .error ⟨c, a + BitVec.ofNat 64 d, false⟩
  let aligned (ok : Except Fail Nat) : Except Fail Nat :=
    if room < n then bad 0x05 room else if a.toNat % n ≠ 0 then bad 0x04 0 else ok
  let tiled (t off : Nat) : Except Fail Nat :=
    match s.outsideShare l t off n with
    | some d => bad 0x0B d
    | none => .ok (tileKey t off)
  let grouped (off : Nat) : Except Fail Nat :=
    match s.outsideGroupShare l off n with
    | some d => bad 0x0B d
    | none => .ok (groupKey (grpOf tile) off)
  match r with
  | .raw off => aligned (tiled tile off)
  | .peer t off => aligned (tiled (grpOf tile * 16 + t) off)
  | .gmem off => aligned (grouped off)
  | .sig off => aligned (grouped off)
  | .param off =>
    if psz = 0 then bad 0x06 0
    else aligned (if source then .ok (paramKey l off) else bad 0x0B 0)
  | _ => bad 0x05 0

/-- A TILE address within the package (R258, R265 step 5). -/
def tileWordKey (s : State) (l : Nat) (a : Word) (n : Nat) : Except Fail Nat :=
  let off := tileWordOff a
  let t := tileWordTile a
  if bits a 63 31 ≠ 0 ∨ tileSize < off + n then .error ⟨0x05, a, false⟩
  else if off % n ≠ 0 then .error ⟨0x04, a, false⟩
  else
    match s.outsideShare l t off n with
    | some _ => .error ⟨0x0B, a, false⟩
    | none => .ok (tileKey t off)

/-- An element of a MCAST at a chosen tile of the die: its address keeps GRP and TILE zero (R260). -/
def mcastKey (s : State) (l die : Nat) (a : Word) (t n : Nat) : Except Fail Nat :=
  if bits a 30 28 ≠ die ∨ bits a 27 17 ≠ 0 then .error ⟨0x05, a, false⟩
  else s.tileWordKey l (a + BitVec.ofNat 64 (t % 2048 * 2 ^ 17)) n

end State

/-- The regions a LOCAL address may name at posting, others being refused with 0x15 (R258). -/
def localRefused (a : Word) : Bool :=
  match regionOf a.toNat with
  | .lens _ _ => true
  | .ctx => true
  | .xlat => true
  | _ => false
def isRawOrPeer (a : Word) : Bool :=
  match regionOf a.toNat with
  | .raw _ => true
  | .peer _ _ => true
  | _ => false
def isGmem (a : Word) : Bool :=
  match regionOf a.toNat with
  | .gmem _ => true
  | _ => false
def isSigArea (a : Word) : Bool :=
  match regionOf a.toNat with
  | .sig _ => true
  | _ => false
def isParam (a : Word) : Bool :=
  match regionOf a.toNat with
  | .param _ => true
  | _ => false

/-- Fields of a fetch word (17 R178): handle, row 0, column 0. -/
def fetchHandle (a : Word) : Nat := bits a 11 0
def fetchRow (a : Word) : Nat := bits a 63 38
def fetchCol (a : Word) : Nat := bits a 37 12

/-- A TENSOR side keeps R259 for a bound handle. -/
def Block.tensorOk (b : Block) (h : Option Handle) (a : Word) (strides : List Int) : Bool :=
  match h with
  | none => false
  | some h =>
    decide (b.ndim ≤ 2) && strides.all (· == 0)
    && (if dWidth h.desc = 4 then b.esz == 0 && fetchCol a % 2 == 0 else 2 ^ b.esz * 8 == dWidth h.desc)

/-- The checks of R265 step 4 for the command of a kind; `lens`: the descriptor of LWIN. -/
def Block.ok (b : Block) (bs : List Byte) (kind : Nat) (die : Nat) (lens : Lane) (hsrc hdst : Option Handle) : Bool :=
  let tileDst := b.dk == 3 || (b.dk == 0 && isRawOrPeer b.dst)
  !blockReserved bs b && b.kind == kind
  && (match kind with
      | 1 => decide (b.rop ≤ 5) && (b.esz == (if b.rop = 1 ∨ b.rop = 3 then 3 else 2))
      | 2 => decide (2 ≤ b.esz) && (decide (b.rop ≤ 8) || b.rop == 10)
      | _ => b.rop == 0)
  && (b.ext.drop b.ndim).all (· == 0)
  && (b.sk != 0 || !localRefused b.src) && (b.dk != 0 || (!localRefused b.dst && !isParam b.dst))
  && (b.sk != 1 || bits b.src 63 56 == 0) && (b.dk != 1 || bits b.dst 63 56 == 0)
  && (b.sk != 3 || bits b.src 63 31 == 0) && (b.dk != 3 || bits b.dst 63 31 == 0)
  && (b.rdir != 1 || b.dk == 1 || b.dk == 3) && (b.rdir != 2 || b.sk == 1)
  && (match kind with
      | 3 => b.dk == 3 && b.rdir != 1 && bits b.dst 30 28 == die && bits b.dst 27 17 == 0
      | 1 => (b.dk == 0 && (isRawOrPeer b.dst || isGmem b.dst)) || b.dk == 1
      | 2 => (b.dk == 0 && (isRawOrPeer b.dst || isGmem b.dst || isSigArea b.dst)) || b.dk == 1
      | _ => true)
  && (b.lwin == 0 || (kind == 1 && b.rop == 2 && b.esz == 2 && lens != 0#32 && !dImpossible lens
        && (dClass lens == 0 || dClass lens == 2 || dClass lens == 3) && dBlk lens == 0 && dRnd lens != 1))
  && (!b.mb || b.lwin != 0)
  && (b.sk != 2 || b.tensorOk hsrc b.src b.ss) && (b.dk != 2 || b.tensorOk hdst b.dst b.ds)
  && (!b.spx || (kind == 0 && tileDst && b.ss.head? == some 1 && b.ext.headD 0 % 4 == 0))
  && (!b.sig || tileDst)
  && (!b.of || (kind == 0 && b.ndim == 1 && b.ext.headD 0 == 1 && decide (2 ≤ b.esz)))
  && (!b.ret || (kind == 2 && b.sk == 0 && !(List.range b.count).any (fun e => isParam (b.srcAt e))))

/-- Tiles of a die that a multicast chooses (R260): mesh row r and column c of R11. -/
def mcastTiles (die : Nat) (b : Block) : List Nat :=
  (List.range 2048).filterMap (fun i =>
    let g := i / 16
    let t := i % 16
    let row := 4 * (g / 16) + t / 4
    let col := 4 * (g % 16) + t % 4
    if bit b.rowmask row && bit b.colmask col then some (die * 2048 + i) else none)

/-- The offset within a tensor-store block of an element's bytes, and its block, for a TENSOR side (R259). -/
def Block.tensorAt (b : Block) (h : Handle) (a : Word) (e : Nat) : Nat × Nat :=
  let i := b.index e
  let row := fetchRow a + i.getD 1 0
  let col := fetchCol a + (if dWidth h.desc = 4 then 2 else 1) * i.getD 0 0
  (row, col)

/-- The key of a TENSOR element's bytes. -/
def Handle.elemKey (h : Handle) (die row col : Nat) : Nat :=
  h.key die (h.blockOf row col) + Handle.elemIn row col * dWidth h.desc / 8

/-- A source row of a sparse copy: values first, then metadata (R262). The address of value j and of metadata byte j. -/
def Block.spxRow (b : Block) (e : Nat) : Word := b.sideAt b.src b.ss (e / max (b.ext.headD 1) 1 * max (b.ext.headD 1) 1)
def Block.spxValue (b : Block) (e j : Nat) : Word := b.spxRow e + BitVec.ofNat 64 (2 ^ b.esz * j)
def Block.spxMeta (b : Block) (e g : Nat) : Word :=
  b.spxRow e + BitVec.ofNat 64 (2 ^ b.esz * (b.ext.headD 0 / 2) + g / 2)

/-- The source addresses, with sizes, that element e of a block is read from. -/
def Block.reads (b : Block) (e : Nat) : List (Word × Nat) :=
  if b.spx then
    let i0 := e % max (b.ext.headD 1) 1
    [(b.spxValue e (i0 / 4 * 2), 2 ^ b.esz), (b.spxValue e (i0 / 4 * 2 + 1), 2 ^ b.esz), (b.spxMeta e (i0 / 4), 1)]
  else [(b.srcAt e, 2 ^ b.esz)]

/-- The memory keys that a posted copy's source occupies, for R205, R357 and R32: (key, length); nothing for a remote source. -/
def State.copySource (s : State) (die : Nat) (c : Copy) : List (Nat × Nat) :=
  match c.op with
  | .block b =>
    if b.rdir = 2 then []
    else (List.range b.count).flatMap (fun e => (b.reads e).filterMap (fun p =>
      match b.sk with
      | 0 => (s.localKey c.lnum c.tile c.psz true p.1 1).toOption.map (fun k => (k, p.2))
      | 3 => (s.tileWordKey c.lnum p.1 1).toOption.map (fun k => (k, p.2))
      | 1 => (match s.walk c.space p.1.toNat with
          | .ok (leaf, bits) => some (entryPa leaf + p.1.toNat % 2 ^ bits, p.2)
          | .error _ => none)
      | _ => c.hsrc.bind (fun h =>
          let rc := b.tensorAt h b.src e
          if h.inExtent rc.1 rc.2 then some (h.elemKey die rc.1 rc.2, p.2) else none)))
  | .tsz _ _ _ => []
  | .tsc h first count _ _ => (range first count).map (fun k => (h.key die k, h.slotSize))
  | .tscmp h first count h2 first2 _ =>
    (range first count).map (fun k => (h.key die k, h.slotSize)) ++ (range first2 count).map (fun k => (h2.key die k, h2.slotSize))

def overlaps (k n k' n' : Nat) : Bool := decide (k < k' + n') && decide (k' < k + n)

/-- The fields of a copy's block. -/
def Copy.block (c : Copy) : Option Block :=
  match c.op with
  | .block b => some b
  | _ => none

namespace State

/-- The current generation of a domain excludes source or target (25 R250): of a domain, or of a launch's. -/
def domainRevoked (s : State) (d dst : Nat) : Bool := (find? s.enclaves d).any (fun e => e.excluded.contains dst || e.excluded.contains s.index)
def keyRevoked (s : State) (l dst : Nat) : Bool := s.domainRevoked (s.launchAt l).domain dst

/-- What a remote operation of a launch toward a package meets (25 R245). -/
inductive Remote where
  | outside
  | waits
  | space (n : Nat)
  deriving DecidableEq, Repr

def remote (s : State) (l pkg : Nat) : Remote :=
  let job := (s.launchAt l).job
  if job = 0 ∨ pkg = s.index ∨ !((find? s.jobs job).getD []).contains pkg then .outside
  else match s.jobSpaces.find? (fun x => x.1 == job && x.2.1 == pkg) with
    | some x => .space x.2.2
    | none => .waits

/-- The reduction window of a home package that holds an address (25 R247). -/
def windowAt (s : State) (pkg : Nat) (a : Word) : Option (Nat × Window) :=
  s.windows.find? (fun w => w.2.homePkg == pkg && decide (w.2.base.toNat ≤ a.toNat) && decide (a.toNat < w.2.base.toNat + w.2.size))

/-- The status that a remote copy ends with where it may not start at all (25 R245, R250, R247, 27 R270). -/
def copyRefused (s : State) (c : Copy) (b : Block) : Option Nat :=
  if b.rdir = 0 then none
  else match s.remote c.lnum b.rpkg with
    | .outside => some 6
    | .waits => none
    | .space _ =>
      if s.keyRevoked c.lnum b.rpkg then some 4
      else if b.rdir = 1 ∧ ((b.ret ∧ (List.range b.count).any (fun e => (s.windowAt b.rpkg (b.dstAt e)).isSome))
          ∨ (b.kind = 1 ∧ (List.range b.count).any (fun e => regionOf (b.dstAt e).toNat != .xlat))) then some 3
      else none

/-- A waiting copy is to read its source: it is not to end in error before. -/
def willRead (s : State) (c : Copy) : Bool := c.st == .waiting && c.status == 0 && c.block.all (fun b => (s.copyRefused c b).isNone)

end State

/-- The levels wider than a group of the open exchanges that a copy belongs to. -/
def State.openJoins (s : State) (c : Copy) : List Level :=
  (c.joins.filter (fun p => decide (1 < p.1.num) && (s.barOf c.lnum p.1 (grpOf c.tile)).exch
    && p.2 == (s.barOf c.lnum p.1 (grpOf c.tile)).count)).map (·.1)

/-- The ranges that copies of the open exchanges wider than a group read or have read, for a launch, but for some copies (21 R205, 39 R357,
R358): level, key, length, and the issuer's group. The bytes of a deferred store count too, since a later commit to them comes after it
(39 R357). -/
def State.openReadsBut (s : State) (l : Nat) (but : Copy → Bool) : List (Level × Nat × Nat × Nat) :=
  (s.dies.flatMap (fun d => d.2.copies.flatMap (fun c =>
    if c.lnum == l && s.willRead c && !but c then
      (s.openJoins c).flatMap (fun lv => (s.copySource d.1 c).map (fun p => (lv, p.1, p.2, grpOf c.tile)))
    else [])))
  ++ s.bars.flatMap (fun b =>
    if b.1 / 2048 / 5 = l ∧ b.2.exch then b.2.reads.map (fun p => (Level.of (b.1 / 2048 % 5), p)) else [])
  ++ s.staged.filterMap (fun e => if e.lnum = l ∧ e.lv ≠ .tile ∧ e.deferred ≠ some .tile then e.deferred.map (fun lv => (lv, e.key, e.bytes.length, 1024)) else none)
def State.openReads (s : State) (l : Nat) : List (Level × Nat × Nat × Nat) := s.openReadsBut l (fun _ => false)

/-- The open exchanges of a launch, wider than a level, that hold a group: their level and unit. -/
def State.outerExchanges (s : State) (l grp : Nat) (lv : Level) : List (Level × Nat) :=
  ([Level.die, .package, .pod].filter (fun o => decide (lv.num < o.num) && decide (o.num ≤ (s.launchAt l).outer.num)
    && (s.barOf l o grp).exch)).map (fun o => (o, unitOf o grp))

/-- Bytes that a unit inside them is about to change stay, as they are, those that the open exchanges outside it read (21 R205). -/
def State.noteBefore (s : State) (l grp : Nat) (lv : Level) (key n : Nat) : State :=
  (s.outerExchanges l grp lv).foldl (fun s o =>
    let b := s.barAt l o.1 o.2
    let u := unitOf lv grp
    let fresh := (range key n).filter (fun k => !b.before.any (fun x => x.1 == lv && x.2.1 == u && x.2.2.1 == k))
    if fresh.isEmpty then s
    else s.setBar l o.1 o.2 { b with before := b.before ++ fresh.map (fun k => (lv, u, k, look s.mem k)) }) s

/-- A byte as an exchange of a launch reads it, for an issuer in a group; a reader outside the package: group 1024 (21 R205, R210). -/
def State.exchangeByte (s : State) (l : Nat) (lv : Level) (unit grp key : Nat) : Byte :=
  let b := s.barAt l lv unit
  match (if b.exch then b.before.find? (fun x => x.2.2.1 == key && (grp == 1024 || unitOf x.1 grp != x.2.1)) else none) with
  | some x => x.2.2.2
  | none => look s.mem key

/-- A write of an exchange's own copies: the exchange reads it (21 R205). -/
def State.forgetBefore (s : State) (l : Nat) (lv : Level) (unit key n : Nat) : State :=
  let b := s.barAt l lv unit
  if b.before.any (fun x => decide (key ≤ x.2.2.1) && decide (x.2.2.1 < key + n)) then
    s.setBar l lv unit { b with before := b.before.filter (fun x => !(decide (key ≤ x.2.2.1) && decide (x.2.2.1 < key + n))) }
  else s

/-- The level of an open exchange that reads, from outside the reader's own group, bytes that an early-path write would change. -/
def State.sourceLevelBut (s : State) (l k n : Nat) (but : Copy → Bool) : Option Level :=
  ((s.openReadsBut l but).find? (fun r => overlaps r.2.1 r.2.2.1 k n && keyGroup k != some r.2.2.2
    && (keyTile k).map grpOf != some r.2.2.2)).map (·.1)
def State.sourceLevel (s : State) (l k n : Nat) : Option Level := s.sourceLevelBut l k n (fun _ => false)

/-- Such a write waits for that exchange's compute phase (21 R205). -/
def State.sourceHeld (s : State) (l k n : Nat) : Bool := (s.sourceLevel l k n).isSome

end Sys2Proof.Machine
end

