-- ==== Sys2Proof/Machine/Access.lean ====
section
/-! DEFINITION. Loads, stores, signal accesses and atomics once their checks have passed (23 R215-R222), staged stores and their
commit (21 R203, R204, 37 R348-R352), early-path writes, and accesses held at a station (19 R198). -/

namespace Sys2Proof.Machine

/-- A queued command that is not dispatched keeps bytes, with those of them that lie in a unit in error, but for those that it keeps already. -/
def MEntry.kept (e : MEntry) (old : List Host.Cell) (bad : List Nat) : MEntry :=
  let fresh (k : Nat) : Bool := !e.shadow.any (fun d => d.1 == k)
  if e.running then e
  else { e with shadow := e.shadow ++ old.filter (fun c => fresh c.1), shadowBad := e.shadowBad ++ bad.filter fresh }

/-- A byte stored over another: all of it, or its high (true) or low half (07 R66, R78). -/
def nibOver (nib : Option Bool) (b old : Byte) : Byte :=
  match nib with
  | none => b
  | some true => (b &&& 0xF0#8) ||| (old &&& 0x0F#8)
  | some false => (old &&& 0xF0#8) ||| (b &&& 0x0F#8)

/-- A staged store holds a byte of a key. -/
def Staged.covers (e : Staged) (key : Nat) : Bool := decide (e.key ≤ key) && decide (key < e.key + e.bytes.length)
/-- A byte with a staged store over it. -/
def Staged.over (e : Staged) (key : Nat) (old : Byte) : Byte :=
  match e.bytes[key - e.key]? with
  | some b => if e.covers key then nibOver e.nib b old else old
  | none => old
/-- A byte with staged stores over it, in their order, and whether what it reads as is in error (43 R372, 00 R4). -/
def stagedOver (xs : List Staged) (key : Nat) (old : Byte) : Byte := xs.foldl (fun r e => e.over key r) old
def stagedBad (xs : List Staged) (key : Nat) (old : Bool) : Bool :=
  xs.foldl (fun r e => if e.covers key then e.bad || (e.nib.isSome && r) else r) old

/-- The kinds that store at their address; of these, the signal stores. -/
def HeldKind.stores : HeldKind → Bool
  | .store => true
  | .signal _ => true
  | _ => false
def HeldKind.signals : HeldKind → Bool
  | .signal _ => true
  | _ => false

/-- A held access that names no target yet has the byte at an address (19 R198): with its store number. -/
def HeldAcc.byteAt (h : HeldAcc) (a : Nat) : Option (Nat × Byte) :=
  if h.at_.isNone && regionOf h.addr.toNat == .xlat && decide (h.addr.toNat ≤ a) then
    (h.bytes[a - h.addr.toNat]?).map (fun b => (h.no, b))
  else none

namespace State

/-! ## Reading -/

/-- What a party has stored and not yet committed, oldest first (21 R203). -/
def ownStaged (s : State) (party : Nat) : List Staged := s.staged.filter (fun e => e.party == party)

/-- What a plain load of the running continuation finds at a key: its own staged stores over memory. -/
def viewByte (s : State) (key : Nat) : Byte := stagedOver (s.ownStaged s.q.k.party) key (look s.mem key)

/-- Some byte that it reads, of memory or of its own staged stores, is in error (43 R372, 00 R4). -/
def viewBad (s : State) (key n : Nat) : Bool := (range key n).any (fun k => stagedBad (s.ownStaged s.q.k.party) k (s.isBad k 1))

def viewNat (s : State) (key n : Nat) : Nat := leNat ((range key n).map s.viewByte)

/-- The byte at an address in translated memory that the running continuation's latest store of some kinds has, which a station holds and
whose page no station could translate (19 R198, 21 R208): with its store number. -/
def heldByte (s : State) (ok : HeldKind → Bool) (a : Nat) : Option (Nat × Byte) :=
  s.q.k.heldAcc.foldl (fun r h => if ok h.kind then (h.byteAt a).or r else r) none

/-- Bytes of a target as the running continuation reads them: those that such a held store has, where no later store of its own among `xs`
covers them, else as `view` gives them. -/
def overHeld (s : State) (ok : HeldKind → Bool) (xs : List Staged) (t : Target) (n : Nat) (view : Nat → Byte) : List Byte :=
  (List.range n).map (fun i =>
    match s.heldByte ok (t.addr.toNat + i) with
    | some (no, b) => if xs.any (fun e => e.covers (t.key + i) && decide (no < e.seqNo)) then view (t.key + i) else b
    | none => view (t.key + i))

/-- A parameter-window read of n bytes: zero at and beyond SIZE, with OVR and OOFF (19 R191). -/
def paramRead (s : State) (off n : Nat) : Nat × State :=
  let pw := s.csr 0x081
  let size := bits pw 16 0
  let v := leNat ((range off n).map (fun o => if o < size then look s.mem (paramKey s.q.k.lnum o) else 0#8))
  if off + n ≤ size then (v, s)
  else
    let first := max off size
    (v, s.setCsr 0x081 (if bit pw 63 then pw else setBits (setBits pw 47 32 first) 63 63 1))

/-- The scale byte of a lens element; 127 below EORG (07 R73). -/
def scaleByte (s : State) (desc : Lane) (lscl : Word) (tile b : Nat) : Nat :=
  match scaleOff desc lscl b with
  | none => 127
  | some o => (s.viewByte (tileKey tile o)).toNat

/-- The code of a lens element at raw bit offset b. -/
def codeAt (s : State) (desc : Lane) (tile b : Nat) : Nat :=
  let w := dWidth desc
  if w = 4 then (s.viewByte (tileKey tile (b / 8))).toNat / 2 ^ (b % 8) % 16 else s.viewNat (tileKey tile (b / 8)) (w / 8)

/-- A lens element read meets an uncorrectable error in its code or scale byte. -/
def lensBad (s : State) (desc : Lane) (lscl : Word) (tile b : Nat) : Bool :=
  s.viewBad (tileKey tile (b / 8)) ((dWidth desc + 7) / 8)
  || (scaleOff desc lscl b).any (fun o => s.viewBad (tileKey tile o) 1)

/-- The scale byte that a store of a lens element reads is in error (43 R372, 00 R4). -/
def scaleBad (s : State) (desc : Lane) (lscl : Word) (tile b : Nat) : Bool :=
  (scaleOff desc lscl b).any (fun o => s.viewBad (tileKey tile o) 1)
/-- The same at a checked target, with the bindings in force. -/
def storeBad (s : State) (t : Target) : Bool := t.lens != 0 && s.scaleBad (s.lensOf t.lens) (s.lsclOf t.lens) s.tile t.bit

/-- ld(a, n) at a checked target: the raw value, or the decoded element, with the flags a decode sets (23 R215). -/
def loadAt (s : State) (t : Target) (n : Nat) : Except Trap (Nat × State) :=
  match t.path with
  | .register off => .ok (devReadN s (0x0E0000000000 + off) n, s)
  | _ =>
    if t.lens ≠ 0 then
      let desc := s.lensOf t.lens
      let lscl := s.lsclOf t.lens
      if s.lensBad desc lscl s.tile t.bit then .error (.at 0x14 t.addr)
      else
        let r := decode32 desc (s.codeAt desc s.tile t.bit) (s.scaleByte desc lscl s.tile t.bit)
        .ok (r.1.toNat, s.addFlags r.2)
    else if s.viewBad t.key n then .error (.at 0x14 t.addr)
    else
      match regionOf t.addr.toNat with
      | .param off => .ok (s.paramRead off n)
      | _ => .ok (leNat (s.overHeld HeldKind.stores (s.ownStaged s.q.k.party) t n s.viewByte), s)

/-! ## Early-path writes (21 R202, R204, 23 R222) -/

/-- The level that owns a key for R204 and R222: tile SRAM counts for the group. -/
def ownerLevel (key : Nat) : Level :=
  if (keyTile key).isSome ∨ (keyGroup key).isSome then .group else if (keyPart key).isSome then .die else .package
/-- The group of a key in tile or group memory, else the writer's. -/
def ownerGroup (key grp : Nat) : Nat :=
  match keyTile key, keyGroup key with
  | some t, _ => grpOf t
  | _, some g => g
  | _, _ => grp

/-- A write of the package takes the parameter blocks that it touches out of the engines' caches (27 R266). -/
def touch (s : State) (key n : Nat) : State :=
  let hit (c : Cached) : Bool := overlaps c.key c.data.length key n
  if s.dies.any (fun d => d.2.cache.any hit) then
    { s with dies := s.dies.map (fun d => (d.1, { d.2 with cache := d.2.cache.filter (fun c => !hit c) })) }
  else s

/-- An early-path write: memory, and its record for ORDDEP; two of kind 1 or of kind 2 by different parties in one superstep of the
owner set it. `kind`: 0 other, 1 a signal store, 2 a floating atomic add. -/
def earlyWrite (s : State) (l party grp key : Nat) (bs : List Byte) (kind : Nat) (addr : Word) : State :=
  let lv := s.effLevel l (ownerLevel key)
  let u := unitOf lv (ownerGroup key grp)
  let cnt := (s.barAt l lv u).count
  let e : Early := { lnum := l, key := key, len := bs.length, party := party, kind := kind, lv := lv, unit := u, count := cnt }
  let clash := kind != 0 && s.early.any (fun x => x.lnum == l && x.kind == kind && x.party != party && x.lv == lv && x.unit == u
    && x.count == cnt && overlaps x.key x.len key bs.length)
  let s := (s.poke key bs).touch key bs.length
  let s := { s with early := s.early ++ [e] }
  if clash then s.detEvent l true addr else s

/-- A fill that is accepted and not dispatched does not observe later stores of its sequencer, or of its continuation elsewhere (17 R185):
it keeps the whole beats that one writes as they were. -/
def shadow (s : State) (key n : Nat) : State :=
  let beats := key / 32 * 32
  let keys := range beats ((key + n + 31) / 32 * 32 - beats)
  let old : List Host.Cell := keys.map (fun k => (k, look s.mem k))
  let bad := keys.filter (fun k => s.isBad k 1)
  let other (q : Seq) : Seq := { q with mq := q.mq.map (fun e => if e.party = s.q.k.party then e.kept old bad else e) }
  { s with q := { s.q with mq := s.q.mq.map (·.kept old bad) }, seqs := s.seqs.map (fun p => (p.1, other p.2)) }

/-- A continuation that runs an inner superstep early (03 R31) changes bytes: the pod's open exchange keeps them, as they are, for the reads of
other packages that are still to arrive (21 R205, 39 R358). -/
def noteEarly (s : State) (key n : Nat) : State :=
  let b := s.barOf s.q.k.lnum .pod s.grp
  if b.exch && b.exend.contains s.ownMember then s.noteBefore s.q.k.lnum s.grp .package key n else s

/-- The running continuation's own early-path write. -/
def earlyOwn (s : State) (key : Nat) (bs : List Byte) (kind : Nat) (addr : Word) : State :=
  ((s.noteEarly key bs.length).shadow key bs.length).earlyWrite s.q.k.lnum s.q.k.party s.grp key bs kind addr

/-! ## Staging and commit (21 R203, R204, 37 R348-R350) -/

/-- Field 1 of the commit key (37 R348). -/
def placeOf (s : State) (home : BitVec 14) (role : BitVec 2) : Nat :=
  ((32 * s.dgrp.toNat + s.pkg.toNat) * 2 ^ 14 + home.toNat) * 4 + role.toNat

/-- A plain store accepted by its stage. -/
def stage (s : State) (t : Target) (lv : Level) (u : Nat) (bs : List Byte) : State :=
  let k := s.q.k
  let e : Staged := { lnum := k.lnum, key := t.key, bytes := bs, nib := none, addr := t.addr, lv := lv, unit := u,
                      place := s.placeOf k.home k.role, ts := k.ts, seqNo := k.storeNo, party := k.party, grp := s.grp,
                      deferred := none,
                      steps := [Level.group, .die, .package, .pod].map s.ssc, ep := s.epoch, bad := false }
  let s := { s with staged := s.staged ++ [e] }
  s.setK { s.q.k with storeNo := k.storeNo + 1 }

/-- An early write of a party that waits for a compute phase (21 R205), or for its RFE at a station (19 R198). -/
def earlyWaits (l party : Nat) (e : Staged) : Bool := e.lv == .tile && e.party == party && e.lnum == l

/-- A party's early writes that wait, oldest first. -/
def waitingOf (s : State) (l party : Nat) : List Staged := s.staged.filter (earlyWaits l party)

/-- A byte as a party's commands and its signal loads read it (21 R208): its own waiting early writes over memory (R203: no staged store). -/
def partyByte (s : State) (l party key : Nat) : Byte := stagedOver (s.waitingOf l party) key (look s.mem key)
def partyPeek (s : State) (l party key n : Nat) : List Byte := (range key n).map (s.partyByte l party)
def partyBad (s : State) (l party key n : Nat) : Bool := (range key n).any (fun k => stagedBad (s.waitingOf l party) k (s.isBad k 1))
/-- The same for the running continuation; `signalBad`: a byte of them is in error (43 R372). -/
def signalByte (s : State) (key : Nat) : Byte := s.partyByte s.q.k.lnum s.q.k.party key
def signalPeek (s : State) (key n : Nat) : List Byte := s.partyPeek s.q.k.lnum s.q.k.party key n
def signalNat (s : State) (key n : Nat) : Nat := leNat (s.signalPeek key n)
def signalBad (s : State) (key n : Nat) : Bool := s.partyBad s.q.k.lnum s.q.k.party key n
/-- What a signal load finds at a target: what its own held signal stores have, and else the same (21 R208). -/
def signalView (s : State) (t : Target) (n : Nat) : Nat :=
  leNat (s.overHeld HeldKind.signals (s.waitingOf s.q.k.lnum s.q.k.party) t n s.signalByte)

/-- A store that a station holds (19 R198): its replay performs or stages it, and no compute phase or barrier. -/
def stationKeeps (e : Staged) : Bool := e.deferred == some .tile

/-- The level whose compute phase an early write of a party waits for: that of an exchange which reads the range (21 R205), but for the copies
that the party has posted behind its own held accesses, which are to read it (R210), or that of an earlier write of the same party to it
which waits (R208), among those of `ok`. -/
def waitLevel (s : State) (l party key n : Nat) (ok : Staged → Bool) : Option Level :=
  (s.sourceLevelBut l key n (fun c => c.held && c.party == party)).or
    ((s.staged.find? (fun e => earlyWaits l party e && ok e && overlaps e.key e.bytes.length key n)).bind (·.deferred))
/-- The same for a write of the running continuation; tile: an earlier one that a station holds overlaps it. -/
def ownLevel (s : State) (key n : Nat) : Option Level := s.waitLevel s.q.k.lnum s.q.k.party key n (fun _ => true)
def ownHeld (s : State) (key n : Nat) : Bool := (s.ownLevel key n).isSome

/-- A store accepted to a level and unit that waits there for the compute phase of another level, or, tile, for its replay. -/
def stageLate (s : State) (t : Target) (lv : Level) (u : Nat) (nib : Option Bool) (bs : List Byte) (late : Level) : State :=
  let s := s.stage t lv u bs
  { s with staged := s.staged.dropLast ++ (s.staged.getLast?.map (fun e => { e with deferred := some late, nib := nib })).toList }

/-- An early write that waits for a level's compute phase (21 R205): only its issuer observes it until then. -/
def waitAt (s : State) (t : Target) (lv : Level) (nib : Option Bool) (bs : List Byte) : State :=
  (s.shadow t.key bs.length).stageLate t .tile 0 nib bs lv

/-- TS as R56 orders it: deterministic mode by distance from SSCGRP, normal mode unsigned. Lower is first. -/
def tsOrder (det : Bool) (ssc ts : Word) : Nat :=
  if det then (2 ^ 24 - 1 - (bits ssc 23 0 + 2 ^ 24 - bits ts 63 40) % 2 ^ 24) * 2 ^ 40 + bits ts 39 0 else ts.toNat

/-- Its issuer's home group (37 R348 field 1). -/
def homeGroupOf (place : Nat) : Nat := place / 64 % 1024

/-- Field 2 of the commit key of a staged store: its TS against SSCGRP of its home group (05 R56). -/
def tsKey (s : State) (l : Nat) (e : Staged) : Nat :=
  tsOrder (s.launchAt l).det (s.barOf l .group (homeGroupOf e.place)).count e.ts

/-- Whether a staged store comes before another in commit order (37 R348); `ts`: field 2. -/
def stagedBefore (ts : Staged → Nat) (a b : Staged) : Bool :=
  if a.place ≠ b.place then decide (a.place < b.place)
  else if ts a ≠ ts b then decide (ts a < ts b) else decide (a.seqNo ≤ b.seqNo)

/-- Insertion in commit order. -/
def insertStaged (ts : Staged → Nat) (e : Staged) : List Staged → List Staged
  | [] => [e]
  | x :: r => if stagedBefore ts x e then x :: insertStaged ts e r else e :: x :: r
def sortStaged (ts : Staged → Nat) (xs : List Staged) : List Staged := xs.foldl (fun acc e => insertStaged ts e acc) []

/-- The address that the first staged store of a byte names, as the address of that store (37 R351). -/
def firstStore (xs : List Staged) (key : Nat) : Word :=
  match xs.find? (fun e => decide (e.key ≤ key) && decide (key < e.key + e.bytes.length)) with
  | some e => e.addr
  | none => 0

def minWord (xs : List Word) : Option Word := (xs.map (·.toNat)).min?.map (BitVec.ofNat 64)

/-- The keys that two ranges share. -/
def shared (k n k' n' : Nat) : List Nat := range (max k k') (min (k + n) (k' + n') - max k k')

/-- Addresses of STCONF events: every byte that stores of different parties overlap in (37 R349, R351). -/
def conflicts (xs : List Staged) : List Word :=
  xs.flatMap (fun a => xs.flatMap (fun b =>
    if a.party ≠ b.party then (shared a.key a.bytes.length b.key b.bytes.length).map (firstStore xs) else []))

/-- Addresses of ORDDEP events: bytes where an early write of another party fell in the same superstep (21 R204). -/
def earlyMeets (xs : List Staged) (early : List Early) (lv : Level) (u : Nat) (count : Word) : List Word :=
  xs.flatMap (fun a => early.flatMap (fun b =>
    if b.lnum = a.lnum ∧ b.lv = lv ∧ b.unit = u ∧ b.count = count ∧ b.party ≠ a.party
    then (shared a.key a.bytes.length b.key b.len).map (firstStore xs) else []))

/-- The bytes that a store leaves: its own, or a half of its byte with the other half as it stands. -/
def bytesOver (s : State) (nib : Option Bool) (key : Nat) (bs : List Byte) : List Byte :=
  match nib with
  | none => bs
  | some _ => ((range key bs.length).zip bs).map (fun p => nibOver nib p.2 (look s.mem p.1))

/-- Apply stores in their order. -/
def applyStaged (s : State) (xs : List Staged) : State :=
  xs.foldl (fun s e => (s.poke e.key (s.bytesOver e.nib e.key e.bytes)).touch e.key e.bytes.length) s
/-- What the open exchanges outside the stores' units read is kept before they are applied (21 R205). -/
def noteStaged (s : State) (xs : List Staged) : State := xs.foldl (fun s e => s.noteBefore e.lnum e.grp e.lv e.key e.bytes.length) s

/-- One byte of a staged store, with the store's place in commit order. -/
def oneByte (e : Staged) (i : Nat) : Staged := { e with key := e.key + i, bytes := (e.bytes.drop i).take 1 }

/-- The level of an open exchange, wider than a store's own, that reads a byte (39 R357). -/
def readAbove (reads : List (Level × Nat × Nat × Nat)) (lv : Level) (key : Nat) : Option Level :=
  reads.findSome? (fun r => if decide (lv.num < r.1.num) && overlaps r.2.1 r.2.2.1 key 1 then some r.1 else none)

/-- A store's part that takes effect now, and the bytes of it that an open exchange reads, each with that exchange's level (39 R357). -/
def splitStaged (reads : List (Level × Nat × Nat × Nat)) (e : Staged) : List Staged × List Staged :=
  if reads.all (fun r => !(decide (e.lv.num < r.1.num) && overlaps r.2.1 r.2.2.1 e.key e.bytes.length)) then ([e], [])
  else
    let bs := (List.range e.bytes.length).map (oneByte e)
    (bs.filter (fun b => (readAbove reads e.lv b.key).isNone),
     (bs.filter (fun b => (readAbove reads e.lv b.key).isSome)).map (fun b => { b with deferred := readAbove reads e.lv b.key }))

/-- Stores of a launch in commit order take effect at one moment, but for the bytes that an open exchange reads. The stores' conflicts
and the deferral set DETSTAT (37 R349, 39 R357); `met`: an ORDDEP event that the commit finds (21 R204). -/
def commitSorted (s : State) (l : Nat) (all : List Staged) (met : Option Word) : State :=
  let reads := s.openReads l
  let now := all.flatMap (fun e => (splitStaged reads e).1)
  let later := all.flatMap (fun e => (splitStaged reads e).2)
  let s := (s.noteStaged now).applyStaged now
  let s := { s with staged := s.staged ++ later }
  let s := match minWord (conflicts all) with
    | some a => s.detEvent l false a
    | none => s
  let s := match met with
    | some a => s.detEvent l true a
    | none => s
  match later.head? with
  | some e => s.detEvent l true e.addr
  | none => s

/-- Commit the staged stores of a launch at one barrier (21 R204), with the deferral of 39 R357. -/
def commit (s : State) (l : Nat) (lv : Level) (u : Nat) : State :=
  let due (e : Staged) : Bool := e.lnum == l && e.lv == lv && e.unit == u && e.deferred.isNone
  let all := sortStaged (s.tsKey l) (s.staged.filter due)
  let met := (earlyMeets all s.early lv u (s.barAt l lv u).count).head?
  { s with staged := s.staged.filter (fun e => !due e) }.commitSorted l all met

/-- An early write that has waited for an exchange is performed, or waits for the next one that reads its range (21 R205). -/
def performWaiting (s : State) (e : Staged) : State :=
  match s.waitLevel e.lnum e.party e.key e.bytes.length (fun x => !stationKeeps x) with
  | some lv => { s with staged := s.staged ++ [{ e with deferred := some lv }] }
  | none => s.earlyWrite e.lnum e.party e.grp e.key (s.bytesOver e.nib e.key e.bytes) 0 e.addr

/-- What waited for an exchange, its compute phase having begun: the deferred stores commit (39 R357), and then the early writes, kept
at level tile, are performed (21 R205). -/
def commitDeferred (s : State) (l : Nat) (lv : Level) (u : Nat) : State :=
  let mine (e : Staged) : Bool := e.lnum == l && e.deferred == some lv && unitOf lv e.grp == u
  let due := sortStaged (s.tsKey l) ((s.staged.filter (fun e => mine e && e.lv != .tile)).map (fun e => { e with deferred := none }))
  let waiting := s.staged.filter (fun e => mine e && e.lv == .tile)
  waiting.foldl performWaiting ({ s with staged := s.staged.filter (fun e => !mine e) }.commitSorted l due none)

/-- An early write of an engine, whose commands are of a level's exchange: that exchange reads it, and those open outside the level the bytes
as they were (21 R205). -/
def engineEarly (s : State) (l party grp : Nat) (lv : Level) (key : Nat) (bs : List Byte) (addr : Word) : State :=
  ((s.noteBefore l grp lv key bs.length).earlyWrite l party grp key bs 0 addr).forgetBefore l lv (unitOf lv grp) key bs.length

/-! ## Storing -/

/-- The bytes that a store of n bytes writes at its target: of a lens element, its container's (07 R66). -/
def storeLen (t : Target) (desc : Lane) (n : Nat) : Nat := if t.lens = 0 then n else (dWidth desc + 7) / 8

/-- An element's container with a code in it: a nibble with its neighbour, or whole bytes (07 R66, R78). -/
def elementBytes (s : State) (t : Target) (w c : Nat) : List Byte :=
  if w = 4 then
    let old := (s.signalByte t.key).toNat
    [BitVec.ofNat 8 (if t.bit % 8 = 0 then old / 16 * 16 + c % 16 else c % 16 * 16 + old % 16)]
  else leBytes (w / 8) c

/-- The half of its byte that a store to a 4-bit element writes: of a container of w bits at a target. -/
def nibAt (t : Target) (w : Nat) : Option Bool := if t.lens ≠ 0 ∧ w = 4 then some (decide (t.bit % 8 ≠ 0)) else none
/-- The same with the bindings in force. -/
def nibOf (s : State) (t : Target) : Option Bool := nibAt t (dWidth (s.lensOf t.lens))

/-- The stream's counter and key (15 R164). -/
def rngCtr (s : State) : Nat := ((List.range 4).map (fun i => (s.csr (0x050 + i)).toNat % 2 ^ 32 * 2 ^ (32 * i))).sum
def rngKey (s : State) : Word := BitVec.ofNat 64 ((s.csr 0x055).toNat % 2 ^ 32 * 2 ^ 32 + (s.csr 0x054).toNat % 2 ^ 32)
def setRngCtr (s : State) (c : Nat) : State :=
  (List.range 4).foldl (fun s i => s.setCsr (0x050 + i) (BitVec.ofNat 64 (c / 2 ^ (32 * i) % 2 ^ 32))) s

/-- A scalar store through a lens: the bytes that it stores, with its flags set and the random block drawn (07 R75-R78). -/
def lensEncode (s : State) (t : Target) (v : Lane) : List Byte × State :=
  let desc := s.lensOf t.lens
  let drawn := dRnd desc == 1
  let q := if drawn then some (philoxWord s.rngKey s.rngCtr 0 / 2 ^ 16) else none
  let r := encode32 desc (s.scaleByte desc (s.lsclOf t.lens) s.tile t.bit) q v
  let s := s.addFlags r.2
  let s := if drawn then s.setRngCtr (s.rngCtr + 1) else s
  (s.elementBytes t (dWidth desc) r.1, s)
def lensStore (s : State) (t : Target) (v : Lane) : State :=
  let r := s.lensEncode t v
  r.2.earlyOwn t.key r.1 0 t.addr

/-- st(a, n, v) at a checked target of a plain store (23 R215, R216). -/
def storeAt (s : State) (t : Target) (n v : Nat) : State :=
  match t.path with
  | .register off => devWriteN s (0x0E0000000000 + off) n v
  | .device => (s.poke t.key (leBytes n v)).touch t.key n
  | .staged lv u => s.stage t lv u (leBytes n v)
  | .now => if t.lens ≠ 0 then s.lensStore t (BitVec.ofNat 32 v) else s.earlyOwn t.key (leBytes n v) 0 t.addr

/-- A signal store at a checked target (23 R218): an early-path write, on an uncached page too (21 R202, 37 R350). -/
def signalAt (s : State) (t : Target) (n v : Nat) : State :=
  match t.path with
  | .register off => devWriteN s (0x0E0000000000 + off) n v
  | _ => s.earlyOwn t.key (leBytes n v) 1 t.addr

/-! ## Accesses held at a station (19 R198) -/

/-- A fault of this continuation waits at a station, its trap not yet taken: every younger access of it that reaches a station is held. -/
def faultHeld (s : State) : Bool := decide (s.q.k.handled < s.q.k.heldAcc.length)
/-- A station holds accesses of this continuation, until its RFE (35 R335). -/
def replayDue (s : State) : Bool := !s.q.k.heldAcc.isEmpty
/-- An early write or a message of a party is issued and not performed (21 R202, R205, R213). -/
def unperformed (s : State) (l party : Nat) : Bool :=
  s.staged.any (earlyWaits l party) || s.msgs.any (fun m => m.sender == party && m.lnum == l)
  || s.queued.any (fun m => m.sender == party && m.lnum == l)
/-- The same but for what a station holds, which counts as accepted (35 R342). -/
def underWay (s : State) (l party : Nat) : Bool :=
  s.staged.any (fun e => earlyWaits l party e && !stationKeeps e) || s.msgs.any (fun m => m.sender == party && m.lnum == l)
  || s.queued.any (fun m => m.sender == party && m.lnum == l)
/-- An access of this continuation is not performed: a station holds it, or an early write or a message is still under way. -/
def stationHeld (s : State) : Bool := s.replayDue || s.unperformed s.q.k.lnum s.q.k.party

/-- An access joins those that a station holds, with the fault that it found, if any. -/
def keepHeld (s : State) (h : HeldAcc) (f : Option Fail) : State :=
  let k := s.q.k
  let s := match f with
    | some f => s.noteCause s.die f.code
    | none => s
  s.setK { k with heldAcc := k.heldAcc ++ [h],
                  -- an access of a handler joins those that wait for its RFE
                  handled := if f.isNone ∧ !s.faultHeld then k.handled + 1 else k.handled,
                  fault := match k.fault, f with
                    | none, some f => some (BitVec.ofNat 8 f.code, f.addr)
                    | x, _ => x }

/-- A store of the running continuation is held at a station: it takes its place in program order (37 R348), and where its target is known
the continuation's own loads find it there: an early write's its signal loads too (21 R208), a staged store's none but plain ones (R203). -/
def holdStore (s : State) (kind : HeldKind) (a : Word) (nib : Option Bool) (bs : List Byte) (t : Option Target) (again : Bool) (f : Option Fail) : State :=
  let k := s.q.k
  let h : HeldAcc := { addr := a, bytes := bs, nib := nib, kind := kind, at_ := if again then none else t.map (fun t => { t with lens := 0 }),
                       no := k.storeNo, ep := s.epoch }
  let s := s.keepHeld h f
  let passed := s.setK { s.q.k with storeNo := k.storeNo + 1 }
  match t with
  | none => passed
  | some t =>
    match t.path with
    | .now => s.waitAt t .tile nib bs
    | .staged lv u => s.stageLate t lv u nib bs .tile
    | _ => passed

/-- A store that a station holds has bytes of a range of addresses, its target not known (19 R198). -/
def heldOver (s : State) (ok : HeldKind → Bool) (a n : Nat) : Bool := (range a n).any (fun x => (s.heldByte ok x).isSome)

/-- A store of the running continuation to raw SRAM of its own tile (`nib`: one half of a byte), performed at once (03 R29), waiting as R205 asks, or held with an
earlier one of its own that a station holds (R208). -/
def putOwn (s : State) (key : Nat) (nib : Option Bool) (bs : List Byte) (addr : Word) : State :=
  let t : Target := ⟨key, .now, 0, 0, addr⟩
  match s.ownLevel key bs.length with
  | none => s.earlyOwn key bs 0 addr
  | some .tile => s.holdStore .store addr nib bs (some t) false none
  | some lv => s.waitAt t lv nib bs
def ownStore (s : State) (off : Nat) (bs : List Byte) (addr : Word) : State := s.putOwn (tileKey s.tile off) none bs addr

/-- A release by another rule than a store's joins them (19 R198). -/
def holdRelease (s : State) (kind : HeldKind) : State :=
  s.keepHeld { addr := 0, bytes := [], nib := none, kind := kind, at_ := none, no := s.q.k.storeNo, ep := s.epoch } none

/-- Taking the pending asynchronous cause (35 R332). -/
def takePending (s : State) : State :=
  match s.q.k.pend with
  | none => s
  | some (c, a) =>
    let k := s.q.k
    -- causes 0x0A and 0x0B are a station's (35 R332), and 0x14 that of a walk for a posted store: what it holds now waits for RFE
    let walked : Bool := k.fault.isNone && (k.heldAcc[k.handled]?).any (fun h => decide (h.addr.toNat ≤ a.toNat) && decide (a.toNat < h.addr.toNat + h.bytes.length))
    let handled := if c = 0x0A#8 ∨ c = 0x0B#8 ∨ (c = 0x14#8 ∧ walked) then k.heldAcc.length else k.handled
    let s := s.setK { k with pend := k.pendMore.head?, pendMore := k.pendMore.tail, handled := handled }
    s.enterTrap { code := c.toNat, addr := some a, async := true }

/-- Posted stores may go ahead: no vector store is queued ahead (15 R157), and none waits for an exchange's source (21 R205). -/
def vectorStores (s : State) : Bool := s.q.vq.any (fun e => match e.op with
  | .store _ _ => true
  | _ => false)

end State

/-! ## The scalar accesses (23 R214-R221) -/

open State in
/-- A plain store of n bytes: its checks, posting, staging or effect. -/
def plainStore (s : State) (a : Word) (n v : Nat) : Res :=
  if s.vectorStores then heldR s
  else
    match s.locate .st a n with
    | .error f =>
      if f.station then doneR (s.holdStore .store a none (leBytes n v) none true (if s.faultHeld then none else some f)) else trapR s f.trap
    | .ok (t, s') =>
      if decide (regionOf a.toNat = .xlat) && (s.faultHeld || (t.path == .device && s.heldOver HeldKind.stores a.toNat n)) then
        doneR (s'.holdStore .store a none (leBytes n v) (some t) true none)
      else
        match (match t.path with
            | .now => s.ownLevel t.key (storeLen t (s.lensOf t.lens) n)
            | _ => none) with
        | none => if s.storeBad t then trapR s (.at 0x14 a) else doneR (s'.storeAt t n v)
        | some lv =>
          if s.storeBad t then trapR s (.at 0x14 a)
          else
            let r := if t.lens ≠ 0 then s'.lensEncode t (BitVec.ofNat 32 v) else (leBytes n v, s')
            doneR (if lv = .tile then r.2.holdStore .store a (s.nibOf t) r.1 (some t) false none else r.2.waitAt t lv (s.nibOf t) r.1)

/-- A plain load of n bytes, its result extended by `ext` (23 R215). -/
def plainLoad (s : State) (d : BitVec 5) (a : Word) (n : Nat) (ext : Nat → Word) : Res :=
  if s.vectorStores then heldR s
  else
    match s.locate .ld a n with
    | .error f => trapR s f.trap
    | .ok (t, s') =>
      if decide (regionOf a.toNat = .xlat) && s.faultHeld then heldR s
      else
        match s'.loadAt t n with
        | .error e => trapR s e
        | .ok (v, s'') => writeR s'' d (ext v)

/-- An atomic's order: REL or SC. -/
def releases (o : BitVec 2) : Bool := o == 2#2 || o == 3#2

/-- A signal store of SC that a station holds: a later SC access waits for it (21 R207). -/
def State.scHeld (s : State) : Bool := s.q.k.heldAcc.any (fun h => h.kind == .signal 3#2)

/-- A signal load (23 R218): memory as it stands, but for the continuation's own earlier writes that wait (21 R208). -/
def signalLoad (s : State) (d : BitVec 5) (a : Word) (o : BitVec 2) (z : BitVec 1) : Res :=
  let n := if z = 0#1 then 4 else 8
  if s.vectorStores || (o == 3#2 && s.scHeld) then heldR s
  else
    match s.locate .sigLd a n with
    | .error f => trapR s f.trap
    | .ok (t, s') =>
      if decide (regionOf a.toNat = .xlat) && s.faultHeld then heldR s
      else
        match t.path with
        | .register off => writeR s' d (let v := devReadN s (0x0E0000000000 + off) n; if n = 4 then sext64 v 32 else BitVec.ofNat 64 v)
        | _ =>
          if s.signalBad t.key n then trapR s (.at 0x14 a)
          else writeR s' d (let v := s.signalView t n; if n = 4 then sext64 v 32 else BitVec.ofNat 64 v)

/-- A signal store (23 R218): posted, and held with a station's held accesses when it releases (19 R198). -/
def signalStore (s : State) (d : BitVec 5) (a : Word) (o : BitVec 2) (z : BitVec 1) : Res :=
  let n := if z = 0#1 then 4 else 8
  let v := (s.x d).toNat % 2 ^ (8 * n)
  let kind : HeldKind := .signal o
  let xlat := decide (regionOf a.toNat = .xlat)
  if s.vectorStores then heldR s
  else
    match s.locate .sigSt a n with
    | .error f =>
      if !f.station then trapR s f.trap
      else doneR (s.holdStore kind a none (leBytes n v) none true (if s.faultHeld then none else some f))
    | .ok (t, s') =>
      if s.replayDue && (o != 0#2 || (s.faultHeld && xlat) || s.ownLevel t.key n == some .tile || s.heldOver HeldKind.stores a.toNat n) then
        doneR (s'.holdStore kind a none (leBytes n v) (some t) xlat none)
      else if (o != 0#2 && s.stationHeld) || s.ownHeld t.key n then heldR s
      else doneR (s'.signalAt t n v)

/-! ### Atomics -/

/-- The integer atomics of R220: the new value of n bytes. -/
def amoNew (op : Nat) (n old b : Nat) : Nat :=
  let m := 2 ^ (8 * n)
  let so := (BitVec.ofNat (8 * n) old).toInt
  let sb := (BitVec.ofNat (8 * n) b).toInt
  match op with
  | 0 => (old + b) % m
  | 1 => Nat.land old b
  | 2 => Nat.lor old b
  | 3 => Nat.xor old b
  | 4 => if so < sb then old else b
  | 5 => if so < sb then b else old
  | 6 => if old < b then old else b
  | 7 => if old < b then b else old
  | 8 => b
  | _ => if n = 4 then (add32 .rne false (BitVec.ofNat 32 old) (BitVec.ofNat 32 b)).1.toNat
         else (add64 (BitVec.ofNat 64 old) (BitVec.ofNat 64 b)).toNat

/-- What an atomic stores: AMOCAS its operand, the others their result. -/
def amoNew' (op n old b : Nat) : Nat := if op = 9 then b else amoNew op n old b

/-- An atomic at X(a) with operation `op`; 9 is AMOCAS, 10 AMOFADD (23 R220). `w`: its word, for scope POD. -/
def atomic (s : State) (op : Nat) (d a b : BitVec 5) (o : BitVec 2) (z : BitVec 1) : Res :=
  let n := if z = 0#1 then 4 else 8
  let adr := s.x a
  if s.vectorStores then heldR s
  else
    match s.locate .amo adr n with
    | .error f => trapR s f.trap
    | .ok (t, s') =>
      if (s.stationHeld && releases o) || (s.faultHeld && decide (regionOf adr.toNat = .xlat)) then heldR s
      else
        let bv := (s.x b).toNat % 2 ^ (8 * n)
        let result (old : Nat) : Word := if n = 4 then sext64 old 32 else BitVec.ofNat 64 old
        let stores (old : Nat) : Bool := op != 9 || old == (s.x d).toNat % 2 ^ (8 * n)
        match t.path with
        | .register off =>
          let old := devReadN s (0x0E0000000000 + off) n
          writeR (if stores old then devWriteN s' (0x0E0000000000 + off) n (amoNew' op n old bv) else s') d (result old)
        | _ =>
          if s.isBad t.key n then trapR s (.at 0x14 adr)
          else if s.ownHeld t.key n || s.heldOver HeldKind.signals adr.toNat n then heldR s
          else
            let old := s.peekNat t.key n
            writeR (if stores old then s'.earlyOwn t.key (leBytes n (amoNew' op n old bv)) (if op = 10 then 2 else 0) adr else s') d (result old)

/-- Scope POD raises cause 0x0D (11 R120). -/
def podScope (s : State) (scope : BitVec 3) (w : Lane) (r : Res) : Res := if scope = 4#3 then trapR s (.word 0x0D w) else r

end Sys2Proof.Machine
end

