-- ==== Sys2Proof/Machine/Operands.lean ====
section
/-! DEFINITION. Operand forms: immediates and targets (11 R110), load and store addresses (23 R215), register windows and their
frames (13 R124-R130), message and channel units (23 R226). -/

namespace Sys2Proof.Machine

/-! ## Immediates and targets (R110) -/

def immS (i : BitVec 16) : Word := i.signExtend 64
def immZ (i : BitVec 16) : Word := i.zeroExtend 64
/-- sext64(imm21, 21) · 2^11. -/
def immHi (i : BitVec 21) : Word := i.signExtend 64 <<< 11
def targetB (s : State) (o : BitVec 13) : Word := s.pc + 4 * o.signExtend 64
def targetJ (s : State) (o : BitVec 26) : Word := s.pc + 4 * o.signExtend 64
/-- The address of a load or store: X(ra) + offset14 · n. -/
def memAddr (s : State) (a : BitVec 5) (o : BitVec 14) (n : Nat) : Word := s.x a + o.signExtend 64 * BitVec.ofNat 64 n
/-- A register target must be a multiple of 4. -/
def misaligned4 (t : Word) : Bool := bits t 1 0 != 0

/-! ## Windows (13 R124-R130) -/

namespace State

def depth (s : State) : Nat := bits (s.csr 0x030) 15 0
def resident (s : State) : Nat := bits (s.csr 0x030) 19 16
def setWp (s : State) (res depth : Nat) : State := s.setCsr 0x030 (BitVec.ofNat 64 (res % 16 * 2 ^ 16 + depth % 2 ^ 16))
/-- FBASE + 144 · d. -/
def frame (s : State) (d : Nat) : Word := BitVec.ofNat 64 (bits (s.csr 0x031) 55 4 * 16) + 144 * BitVec.ofNat 64 d
def flim (s : State) : Nat := bits (s.csr 0x032) 15 0

end State

/-- The 18 registers of a window: i0-i5 and l0-l11. -/
def windowRegs : List Nat := range 8 18
/-- The words of a resident caller window. -/
def Cont.window (k : Cont) (d : Nat) : List Word := windowRegs.map (fun r => look k.wins (32 * d + r))
def Cont.setWindow (k : Cont) (d : Nat) (ws : List Word) : Cont :=
  { k with wins := (windowRegs.zip ws).foldl (fun m p => put m (32 * d + p.1) p.2) k.wins }
def Cont.dropWindow (k : Cont) (d : Nat) : Cont := k.setWindow d (List.replicate 18 0#64)
/-- The current window's i0-i5 and l0-l11. -/
def Cont.current (k : Cont) : List Word := windowRegs.map (fun r => look k.gpr r)
def Cont.setCurrent (k : Cont) (ws : List Word) : Cont :=
  { k with gpr := (windowRegs.zip ws).foldl (fun m p => put m p.1 p.2) k.gpr }
/-- The outs q0-q5. -/
def Cont.outs (k : Cont) : List Word := (range 26 6).map (fun r => look k.gpr r)
def Cont.setOuts (k : Cont) (ws : List Word) : Cont :=
  { k with gpr := ((range 26 6).zip ws).foldl (fun m p => put m p.1 p.2) k.gpr }

/-- Bytes that the group's spill buffer holds (03 R20: 48 KiB). -/
def Group.spilled (g : Group) : Nat := (g.spills.map (fun x => 8 * x.data.length)).sum

/-- The latest spill of a continuation to a frame address that is still buffered (13 R129). -/
def Group.findSpill (g : Group) (party : Nat) (a : Word) : Option (List Word) :=
  (g.spills.reverse.find? (fun x => x.party == party && x.addr == a)).map (·.data)

/-- Hand words to the spill engine of the focused sequencer. -/
def State.spillTo (s : State) (a : Word) (ws : List Word) : State :=
  let g := s.groupAt s.grp
  s.setGroup s.grp { g with spills := g.spills ++ [{ party := s.q.k.party, space := s.launch.space, sq := s.cur, addr := a, data := ws }] }

/-- Entering a window: the callee's i0-i5 are the caller's q0-q5, with q5 the return address (13 R141). -/
def Cont.enter (k : Cont) (d : Nat) (ret : Word) : Cont :=
  let outs := k.outs.take 5 ++ [ret]
  ((k.setWindow d k.current).setCurrent (outs ++ List.replicate 12 0#64)).setOuts (List.replicate 6 0#64)

/-- Leaving a window: q0-q5 of the caller are i0-i5 of the callee (13 R142). -/
def Cont.leave (k : Cont) (ws : List Word) : Cont := (k.setOuts (k.current.take 6)).setCurrent ws

/-- CALL and CALLR to a checked target (13 R141). The cause of a frame outside the translated range, and which of two faulting pages is
reported, are the model's choices (log 150). -/
def callTo (s : State) (t : Word) : Res :=
  let d := s.depth
  let a := s.frame (d - 7)
  let go (s : State) (res : Nat) : Res :=
    .next (((s.setK (s.q.k.enter d (s.pc + 4))).setWp res (d + 1)).goto t)
  if s.flim ≤ d then trapR s (.at 0x0E (s.frame d))
  else if s.resident = 7 then
    match (if regionOf a.toNat ≠ .xlat then .error .invalid else s.translate s.die s.launch.space a.toNat) with
    | .error e => trapR s (.at (WalkErr.cause e .st) a)
    | .ok (leaf, _, s1) =>
      match s1.translate s.die s.launch.space (a + 143).toNat with
      | .error e => trapR s (.at (WalkErr.cause e .st) a)
      | .ok (leaf2, _, s2) =>
        let may (x leaf : Word) : Bool := s.allows s.launch.space x.toNat leaf .st
        if !may a leaf ∨ !may (a + 143) leaf2 then trapR s (.at 0x0B a)
        else if 0xC000 < (s.groupAt s.grp).spilled + 144 then heldR s
        else go ((s2.spillTo a (s.q.k.window (d - 7))).setK (s.q.k.dropWindow (d - 7))) 7
  else go s (s.resident + 1)

/-- RET (13 R142). -/
def returnTo (s : State) : Res :=
  let d := s.depth
  let t := s.x 13
  let a := s.frame (d - 1)
  let go (s : State) (ws : List Word) (res : Nat) : Res :=
    .next (((s.setK ((s.q.k.leave ws).dropWindow (d - 1))).setWp res (d - 1)).goto t)
  if d = 0 then trapR s (.at 0x0E 0)
  else if misaligned4 t then trapR s (.at 0x04 t)
  else if s.resident = 0 then
    match (s.groupAt s.grp).findSpill s.q.k.party a with
    | some ws => go s ws 0
    | none =>
      match s.xlatWords s.die s.launch.space a 18 with
      | .error e => trapR s (.at (WalkErr.cause e .ld) a)
      | .ok (ws, s') => go s' ws 0
  else go s (s.q.k.window (d - 1)) (s.resident - 1)

/-! ## Units of the home tile (23 R226): the set of the running continuation's own launch -/

namespace State
def home (s : State) : Tile := s.tileAt s.homeTile
def setHome (s : State) (t : Tile) : State := s.setTile s.homeTile t
/-- Set index of primary or secondary. -/
def setOff (s : State) (n : Nat) : Nat := if s.q.k.sec then n else 0
/-- The scope of a channel operation, and the release it makes, are TILE on the home tile and GRP elsewhere (23 R230). -/
def onHome (s : State) : Bool := s.homeTile == s.tile
end State

/-- A releasing operation waits while a station holds a fault of this continuation (19 R198). -/
def whenReleasable (s : State) (r : Res) : Res := if s.stationHeld || s.vectorStores then heldR s else r

end Sys2Proof.Machine
end

