-- ==== Sys2Proof/Machine/Memory.lean ====
section
/-! DEFINITION. Loads, stores, signal accesses, atomics and fences (23 R214-R223, 19 R199). -/

namespace Sys2Proof.Machine

/-! ## Plain accesses (R215) -/

/-- The result of a load that extends by the sign of n bytes. -/
def extS (n v : Nat) : Word := sext64 (v % 2 ^ (8 * n)) (8 * n)
/-- The result of a load that extends by zeros. -/
def extZ (v : Nat) : Word := BitVec.ofNat 64 v

def execLdb (d a : BitVec 5) (o : BitVec 14) (s : State) : Res := plainLoad s d (memAddr s a o 1) 1 (extS 1)
def execLdh (d a : BitVec 5) (o : BitVec 14) (s : State) : Res := plainLoad s d (memAddr s a o 2) 2 (extS 2)
def execLdw (d a : BitVec 5) (o : BitVec 14) (s : State) : Res := plainLoad s d (memAddr s a o 4) 4 (extS 4)
def execLdbz (d a : BitVec 5) (o : BitVec 14) (s : State) : Res := plainLoad s d (memAddr s a o 1) 1 extZ
def execLdhz (d a : BitVec 5) (o : BitVec 14) (s : State) : Res := plainLoad s d (memAddr s a o 2) 2 extZ
def execLdwz (d a : BitVec 5) (o : BitVec 14) (s : State) : Res := plainLoad s d (memAddr s a o 4) 4 extZ
def execLdd (d a : BitVec 5) (o : BitVec 14) (s : State) : Res := plainLoad s d (memAddr s a o 8) 8 extZ

def execStb (d a : BitVec 5) (o : BitVec 14) (s : State) : Res := plainStore s (memAddr s a o 1) 1 (bits (s.x d) 7 0)
def execSth (d a : BitVec 5) (o : BitVec 14) (s : State) : Res := plainStore s (memAddr s a o 2) 2 (bits (s.x d) 15 0)
def execStw (d a : BitVec 5) (o : BitVec 14) (s : State) : Res := plainStore s (memAddr s a o 4) 4 (bits (s.x d) 31 0)
def execStd (d a : BitVec 5) (o : BitVec 14) (s : State) : Res := plainStore s (memAddr s a o 8) 8 (s.x d).toNat

/-! ## Signal accesses and atomics (R217-R221) -/

def execLdsg (d a : BitVec 5) (o : BitVec 2) (c : BitVec 3) (z : BitVec 1) (s : State) : Res :=
  podScope s c (encR 0x13#6 d a 0#5 (o ++ c ++ 1#1 ++ z ++ 0#4)) (signalLoad s d (s.x a) o z)
def execStsg (d a : BitVec 5) (o : BitVec 2) (c : BitVec 3) (z : BitVec 1) (s : State) : Res :=
  podScope s c (encR 0x14#6 d a 0#5 (o ++ c ++ 1#1 ++ z ++ 0#4)) (signalStore s d (s.x a) o z)

/-- An atomic with its scope check; `op` as R220 numbers them. -/
def amo (op : Nat) (d a b : BitVec 5) (o : BitVec 2) (c : BitVec 3) (z : BitVec 1) (s : State) : Res :=
  podScope s c (encR 0x15#6 d a b (BitVec.ofNat 5 op ++ o ++ c ++ z)) (atomic s op d a b o z)

def execAmoadd (d a b : BitVec 5) (o : BitVec 2) (c : BitVec 3) (z : BitVec 1) (s : State) : Res := amo 0 d a b o c z s
def execAmoand (d a b : BitVec 5) (o : BitVec 2) (c : BitVec 3) (z : BitVec 1) (s : State) : Res := amo 1 d a b o c z s
def execAmoor (d a b : BitVec 5) (o : BitVec 2) (c : BitVec 3) (z : BitVec 1) (s : State) : Res := amo 2 d a b o c z s
def execAmoxor (d a b : BitVec 5) (o : BitVec 2) (c : BitVec 3) (z : BitVec 1) (s : State) : Res := amo 3 d a b o c z s
def execAmosmin (d a b : BitVec 5) (o : BitVec 2) (c : BitVec 3) (z : BitVec 1) (s : State) : Res := amo 4 d a b o c z s
def execAmosmax (d a b : BitVec 5) (o : BitVec 2) (c : BitVec 3) (z : BitVec 1) (s : State) : Res := amo 5 d a b o c z s
def execAmonmin (d a b : BitVec 5) (o : BitVec 2) (c : BitVec 3) (z : BitVec 1) (s : State) : Res := amo 6 d a b o c z s
def execAmonmax (d a b : BitVec 5) (o : BitVec 2) (c : BitVec 3) (z : BitVec 1) (s : State) : Res := amo 7 d a b o c z s
def execAmoswap (d a b : BitVec 5) (o : BitVec 2) (c : BitVec 3) (z : BitVec 1) (s : State) : Res := amo 8 d a b o c z s
def execAmocas (d a b : BitVec 5) (o : BitVec 2) (c : BitVec 3) (z : BitVec 1) (s : State) : Res := amo 9 d a b o c z s
def execAmofadd (d a b : BitVec 5) (o : BitVec 2) (c : BitVec 3) (z : BitVec 1) (s : State) : Res := amo 10 d a b o c z s

/-! ## Fences (R212, R223) -/

/-- A fence holds until the accesses it orders are performed; loads are satisfied when they retire. -/
def execFence (c : BitVec 3) (s : State) : Res :=
  podScope s c (encR 0x16#6 0#5 0#5 0#5 (0#3 ++ c ++ 0#5)) (whenReleasable s (doneR s))
def execFencea (c : BitVec 3) (s : State) : Res :=
  podScope s c (encR 0x16#6 0#5 0#5 0#5 (1#3 ++ c ++ 0#5)) (doneR s)
def execFencer (c : BitVec 3) (s : State) : Res :=
  podScope s c (encR 0x16#6 0#5 0#5 0#5 (2#3 ++ c ++ 0#5)) (whenReleasable s (doneR s))

/-- Cached translations of a space go at the stations of some dies (19 R199). -/
def State.dropTlb (s : State) (space : Nat) (hit : Nat → Bool) : State :=
  { s with dies := s.dies.map (fun d => if hit d.1 then (d.1, { d.2 with tlb := d.2.tlb.filter (fun e => e.space != space) }) else d) }

/-- TFENCE (19 R199): scopes TILE, GRP and DIE reach the issuing die's stations, PKG all. -/
def execTfence (c : BitVec 3) (s : State) : Res :=
  podScope s c (encR 0x16#6 0#5 0#5 0#5 (3#3 ++ c ++ 0#5))
    (doneR (s.dropTlb s.launch.space (fun d => c == 3#3 || d == s.die)))

end Sys2Proof.Machine
end

