-- ==== Sys2Proof/Machine/Records.lean ====
section
/-! DEFINITION. Continuation records: the wait descriptor (03 R22), writing a record and its spill area (13 R128, R130, 35 R343 R344),
picking one (05 R56), suspending (03 R23), and making records (03 R24, R26, 23 R234). -/

namespace Sys2Proof.Machine

/-! ## Wait descriptors (03 R22) -/

def waitDesc (kind obj thr : Nat) : Word := BitVec.ofNat 64 (kind * 2 ^ 60 + obj % 4096 * 2 ^ 48 + thr % 2 ^ 48)
def low48 (w : Word) : Nat := bits w 47 0

/-- The waits that pin their record (03 R22). -/
def waitPins (desc : Word) : Bool := [1, 5, 6, 7].contains (bits desc 63 60)

/-- Whether a wait's condition holds for a continuation of a launch, by its home tile, group and tokens. -/
def State.descHolds (s : State) (desc : Word) (l : Nat) (sec : Bool) (home grp : Nat) (tok : Store 8) : Bool :=
  let obj := bits desc 59 48
  let thr := bits desc 47 0
  let b := b2n sec
  let lv := Level.of (obj % 4 + 1)
  match bits desc 63 60 with
  | 0 => true
  | 1 => decide (thr ≤ (look (s.tileAt home).mc (obj % 16 + 16 * b)).toNat)
  | 2 => decide (thr ≤ (look (s.groupAt grp).tick (2 * (obj % 64) + 1 + 128 * b)).toNat)
  | 3 => decide (thr ≤ low48 (s.barOf l lv grp).count)
  | 4 => decide (thr ≤ low48 (look (s.dieAt (grp / 128)).timeline obj))
  | 5 => decide (thr ≤ ((find? (s.tileAt home).chan (obj % 8 + 8 * b)).map (·.filled)).getD 0)
  | 6 => decide (thr ≤ ((find? (s.tileAt home).chan (obj % 8 + 8 * b)).map (·.free)).getD 0)
  | 7 => (List.range 8).all (fun t => obj / 2 ^ t % 2 == 0 || look tok t == 0#8)
  | 8 => decide (thr ≤ ((find? (s.groupAt grp).meet (obj % 16)).map (·.open_)).getD 0)
  | 9 => decide (thr ≤ s.clk % 2 ^ 48)
  | 10 => let bar := s.barOf l lv grp
          decide (thr < low48 bar.count) || (decide (thr = low48 bar.count) && !bar.exch)
  | _ => false

/-! ## What a register can hold (00 R8) -/

/-- The bits of a register that a write changes. -/
def csrMask (n : Nat) : Word :=
  match n with
  | 0x001 => 0x3FF03FF#64
  | 0x002 => ~~~3#64
  | 0x003 => 0xFFFFFFFF#64
  | 0x005 => 0x00FFFFFFFFFFFFFC#64
  | 0x007 => 0x1F#64
  | 0x008 => 7#64
  | 0x011 => 0xFF#64
  | 0x020 => 0x7F#64
  | 0x021 => 0xF#64
  | 0x031 => 0x00FFFFFFFFFFFFF0#64
  | 0x032 => 0xFFFF#64
  | 0x040 => 7#64
  | 0x062 => 7#64
  | 0x081 => 0x8000FFFF0001FFFF#64
  | 0x200 => 0xFFFF#64
  | 0x201 => 0xFF0F#64
  | n =>
    if 0x050 ≤ n ∧ n ≤ 0x055 then 0xFFFFFFFF#64
    else if 0x090 ≤ n ∧ n ≤ 0x096 then 0xFFFFFFFF#64
    else if 0x098 ≤ n ∧ n ≤ 0x09E then 0x0001FFFF0001FFFF#64
    else if 0x0B0 ≤ n ∧ n ≤ 0x0B7 then 0xFFF#64
    else if 0x100 ≤ n ∧ n < 0x110 then 0x0000FFFFFFFFFFFF#64
    else if 0x220 ≤ n ∧ n ≤ 0x223 then 0x00FFFFFFFFFFFFFD#64
    else -1#64

/-- STAT and ESTAT: a PRIO above 7 becomes 7 (35 R329, R330, 05 R55). -/
def capPrio (v : Word) : Word := if 7 < bits v 15 8 then setBits v 15 8 7 else v

/-- The bits that a restored register keeps: those of a write, and the fields that only hardware sets. -/
def csrKept (n : Nat) : Word :=
  match n with
  | 0x030 => 0xFFFF#64
  | 0x060 => 0x1FFF#64
  | 0x080 => 0x00FFFFFFFFFFFFC0#64
  | n => if 0x0B0 ≤ n ∧ n ≤ 0x0B7 then ~~~0xF000#64 else csrMask n

/-- A register from a spill area, which software may have written against R131: reserved bits read zero, and a value that no write could
leave gives way to the register's reset value. -/
def csrRestored (n : Nat) (w : Word) : Word :=
  let v := w &&& csrKept n
  if 0x090 ≤ n ∧ n ≤ 0x096 ∧ dImpossible (v.truncate 32) then 0#64
  else if n = 0x008 ∧ 5 ≤ v.toNat then 0#64
  else if n = 0x020 ∧ 64 < v.toNat then 64#64
  else if n = 0x201 then capPrio v
  else v

/-- The same for a bank register (17 R183). -/
def bankRestored (n : Nat) (w : Word) : Word :=
  match n with
  | 0 | 1 => w &&& 0xFFFFFFFF#64
  | 2 => if dImpossible (w.truncate 32) then 0#64 else w &&& 0xFFFFFFFF#64
  | 3 => w &&& csrMask 0x098
  | 4 => w &&& 0x3FF#64
  | _ => w

/-- A launch owns a context of a die (27 R252). -/
def State.ownsCtx (s : State) (l die c : Nat) : Bool :=
  (s.footOf l).any (fun t => grpOf t == 128 * die + c / 32)
  && (if (s.launchAt l).secondary then decide (24 ≤ c % 32) else decide (c % 32 < 24))

/-- The reset value of CTX of a context slot (27 R253). -/
def slotContext (grp : Nat) (sec : Bool) (n : Nat) : Word := BitVec.ofNat 64 (32 * (grp % 128) + (if sec then 24 else 0) + n)

/-- A context slot that names a context its launch does not own takes its reset value (00 R6, 13 R131). -/
def State.ownContexts (s : State) (grp : Nat) (k : Cont) : Cont :=
  (List.range 8).foldl (fun k n =>
    if s.ownsCtx k.lnum (grp / 128) (bits (look k.csr (0x0B0 + n)) 11 0) then k
    else { k with csr := put k.csr (0x0B0 + n) (slotContext grp k.sec n) }) k

/-! ## The spill area's rows (13 R128, 35 R343) -/

/-- The registers of the rows from 0x0F8 that are kept by CSR number, in order, with their first offset. -/
def rowCsrs : List (Nat × List Nat) :=
  [(0x0F8, [0x006]), (0x100, [0x008, 0x007]), (0x110, range 0x090 7), (0x148, range 0x098 7), (0x180, range 0x050 6),
   (0x1B0, [0x030, 0x031, 0x032, 0x080, 0x081]), (0x1D8, range 0x0B0 8), (0x260, [0x001, 0x002, 0x003, 0x004, 0x201]),
   (0x2A0, [0x015]), (0x2A8, range 0x220 4), (0x2C8, [0x005]), (0x2D0, [0x061, 0x060])]

/-- Every CSR of the rows with its doubleword index. -/
def rowIndex : List (Nat × Nat) := rowCsrs.flatMap (fun p => (p.2.zip (range (p.1 / 8) p.2.length)).map (fun q => (q.2, q.1)))
/-- The bank registers of rows 0x218-0x25F, in order (17 R183). -/
def bankOrder : List Nat := [0, 1, 2, 3, 4, 5, 6, 7, 0x12]

/-- CYCLE at a clk (35 R337). -/
def Cont.cycle (k : Cont) (clk : Nat) : Word := BitVec.ofNat 64 clk - BitVec.ofNat 64 k.cycleBase

/-- The 128 doublewords of a saved continuation's first kilobyte. -/
def Cont.rows (k : Cont) (clk : Nat) : List Word :=
  (List.range 128).map (fun i =>
    if i < 31 then look k.gpr (i + 1)
    else if 0x218 / 8 ≤ i ∧ i < 0x260 / 8 then look k.bank (bankOrder.getD (i - 0x218 / 8) 0)
    else if i = 0x288 / 8 then (match k.pend with
      | some (c, _) => BitVec.ofNat 64 (2 ^ 63 + c.toNat)
      | none => 0#64)
    else if i = 0x290 / 8 then (match k.pend with
      | some (_, a) => a
      | none => 0#64)
    else if i = 0x298 / 8 then k.cycle clk
    else match rowIndex.find? (fun p => p.1 == i) with
      | some p => look k.csr p.2
      | none => 0#64)

/-- A pending error of a spill area: one of the codes of asynchronous causes, or none, so that no other code can come into CAUSE
(35 R332, R342, 44 R381). -/
def pendRestored (w bad : Word) : Option (BitVec 8 × Word) :=
  if bit w 63 ∧ w.truncate 8 ∈ [0x0A#8, 0x0B#8, 0x0F#8, 0x14#8] then some (w.truncate 8, bad) else none

/-- Registers put back from the rows; WP.RES is restored as 0 (13 R130). -/
def Cont.fromRows (k : Cont) (ws : List Word) (clk : Nat) : Cont :=
  let w (i : Nat) : Word := ws.getD i 0#64
  let gpr : Store 64 := (List.range 31).foldl (fun m i => put m (i + 1) (w i)) []
  let csr : Store 64 := rowIndex.foldl (fun m p => put m p.2 (csrRestored p.2 (w p.1))) k.csr
  { k with
    gpr := gpr, wins := [],
    csr := put csr 0x030 (setBits (look csr 0x030) 19 16 0),
    bank := (bankOrder.zip (range (0x218 / 8) 9)).foldl (fun m p => put m p.1 (bankRestored p.1 (w p.2))) [],
    pend := pendRestored (w (0x288 / 8)) (w (0x290 / 8)),
    cycleBase := (BitVec.ofNat 64 clk - w (0x298 / 8)).toNat }

/-- CODE of CAUSE: trap entry and the writes of R336 alone change it, so that a row that cannot be read, or that software has written against
R131, leaves it as it was saved (44 R381, log 205). -/
def Cont.withCode (k : Cont) (c : BitVec 8) : Cont := { k with csr := put k.csr 0x001 (setBits (look k.csr 0x001) 7 0 c.toNat) }

/-- The vector area (35 R344): 1,032 doublewords. -/
def Cont.vectorArea (k : Cont) : List Word :=
  (List.range 1024).map (fun i => BitVec.ofNat 64 ((look k.vreg (2 * i)).toNat + (look k.vreg (2 * i + 1)).toNat * 2 ^ 32))
  ++ (range 1 7).map (fun n => look k.mreg n) ++ [look k.csr 0x020]

def Cont.fromVector (k : Cont) (ws : List Word) : Cont :=
  { k with
    vreg := ((List.range 1024).zip (ws.take 1024)).foldl (fun (m : Store 32) (p : Nat × Word) =>
      put (put m (2 * p.1) (p.2.truncate 32)) (2 * p.1 + 1) ((p.2 >>> 32).truncate 32)) [],
    mreg := ((range 1 7).zip ((ws.drop 1024).take 7)).foldl (fun m p => put m p.1 p.2) [],
    csr := put k.csr 0x020 (csrRestored 0x020 (ws.getD 1031 64#64)) }

/-- Nothing of the vector state differs from a new record's. -/
def Cont.vectorClear (k : Cont) : Bool := k.vreg.isEmpty && k.mreg.isEmpty && look k.csr 0x020 == 64#64

/-! ## Writing and reading a record -/

/-- The spill-area size S of a launch, and what a continuation takes of the pool (23 R234, 41 R365). -/
def Launch.spillStep (x : Launch) : Nat := x.areaSize + 8256

/-- Hand words of a continuation to the group's buffer. -/
def State.spillFor (s : State) (grp sq : Nat) (k : Cont) (a : Word) (ws : List Word) : State :=
  let g := s.groupAt grp
  s.setGroup grp { g with spills := g.spills ++ [{ party := k.party, space := (s.launchAt k.lnum).space, sq := sq, addr := a, data := ws }] }

/-- Bytes of a record (03 R20, R21). -/
def Cont.recordBytes (k : Cont) (st : Nat) (pin : Bool) (desc vsa : Word) : List Byte :=
  leBytes 8 k.pc.toNat ++ leBytes 8 k.spill.toNat ++ leBytes 2 k.lnum
  ++ leBytes 1 (b2n pin * 128 + b2n k.sec * 64 + b2n k.fix * 32 + st * 4 + k.role.toNat)
  ++ leBytes 1 (bits (look k.csr 0x000) 15 8) ++ leBytes 4 (k.stage.toNat * 2 ^ 24 + k.home.toNat)
  ++ leBytes 8 k.ts.toNat ++ leBytes 8 desc.toNat ++ leBytes 8 (look k.csr 0x000).toNat ++ leBytes 8 vsa.toNat
  ++ leBytes 8 k.uword.toNat

/-- PIN as it is computed at a suspension (03 R22): units and commands count on every tile of the group where it has run. -/
def State.pinned (s : State) (sq : Nat) (k : Cont) (desc : Word) : Bool :=
  let g := grpOf (tileOf sq)
  k.fix || waitPins desc || (range (g * 16) 16).any (fun t => (s.tileAt t).owner.any (fun p => p.2.party == k.party))
  || (range (g * 48) 48).any (fun q => (s.seqAt q).mq.any (fun e => e.party == k.party && (e.set.isSome || (match e.op with
      | .rel _ => true
      | _ => false))))

/-- Save a continuation in its record slot: record, rows, resident windows, vector state, and what the group keeps beside it. -/
def State.saveCont (s : State) (grp sq : Nat) (k : Cont) (st : Nat) (pin : Bool) (desc : Word) : State :=
  let area := (s.launchAt k.lnum).areaSize
  let vsa : Word := if k.vectorClear then 0#64 else k.spill + BitVec.ofNat 64 area
  let res := bits (look k.csr 0x030) 19 16
  let d := bits (look k.csr 0x030) 15 0
  let fbase : Word := BitVec.ofNat 64 (bits (look k.csr 0x031) 55 4 * 16)
  let s := (range (d - res) res).foldl (fun s i =>
    s.spillFor grp sq k (fbase + 144 * BitVec.ofNat 64 i) (k.window i)) s
  let s := s.spillFor grp sq k k.spill (k.rows s.clk)
  let s := if k.vectorClear then s else s.spillFor grp sq k vsa k.vectorArea
  let s := s.poke (recKey grp k.slot) (k.recordBytes st pin desc vsa)
  let g := s.groupAt grp
  let sd : Side := { party := k.party, tok := k.tok, born := k.born, spawnCount := k.spawnCount, spawnAt := k.spawnAt,
                     readyAt := s.clk, pendMore := k.pendMore, heldAcc := k.heldAcc, handled := k.handled, fault := k.fault, noBreak := k.noBreak,
                     storeNo := k.storeNo, code := (look k.csr 0x001).truncate 8 }
  s.setGroup grp { g with side := ins g.side k.slot sd }

/-- Words of a continuation's spill area: buffered ones first, else translated memory; a word that cannot be read is open. An
uncorrectable error is told to the continuation that the words are for: it becomes pending, with the area's address (00 R4). -/
def State.fillWords (s : State) (grp : Nat) (party : Nat) (space : Nat) (a : Word) (n : Nat) : List Word × List (BitVec 8 × Word) × State :=
  match (s.groupAt grp).findSpill party a with
  | some ws => (ws, [], s)
  | none =>
    match s.xlatWords (grp / 128) space a n with
    | .ok p => (p.1, [], p.2)
    | .error e =>
      ((List.range n).map (fun i => BitVec.ofNat 64 (leNat ((List.range 8).map (fun j => Config.freeByte (s.free + 8 * i + j))))),
       if e = .ecc then [(0x14#8, a)] else [], { s with free := s.free + 8 * n })

/-! ## Barrier release as a continuation observes it (03 R35, R39) -/

/-- BARV and ABORT after the latest release of a level. -/
def State.observeRelease (s : State) (k : Cont) (lv : Level) (grp : Nat) : Cont :=
  let b := s.barOf k.lnum lv grp
  let csr := put k.csr 0x061 b.relValue
  { k with csr := if b.relCode = 0 then csr
                  else put csr 0x060 (BitVec.ofNat 64 (b2n b.relEsc * 2 ^ 12 + b.relLevel * 2 ^ 8 + b.relCode)) }

/-! ## The pick (05 R56) -/

/-- Whether a sequencer may pick a slot's record. -/
def State.mayPick (s : State) (sq slot : Nat) : Bool :=
  let g := grpOf (tileOf sq)
  let l := s.recLnum g slot
  s.recState g slot == 1 && s.recRole g slot == roleOf sq && (s.footOf l).contains (tileOf sq)
  && !(s.launchAt l).suspended && (!s.recPin g slot || s.recHome g slot == tileOf sq)

/-- The pick key of a record: smaller is first. Two secondaries of one primary, one of them deterministic, compare TS order with the moment
of becoming ready: the spec does not say how their records compare (log 145). -/
def State.pickKey (s : State) (g slot : Nat) : Nat × Nat × Nat × Nat :=
  let l := s.recLnum g slot
  let second : Nat :=
    if (s.launchAt l).det then State.tsOrder true (s.barOf l .group g).count (s.recDword g slot 24)
    else ((find? (s.groupAt g).side slot).map (·.readyAt)).getD 0
  (b2n (s.recSec g slot), 255 - s.recPrio g slot, second, slot)

def keyLt (a b : Nat × Nat × Nat × Nat) : Bool :=
  if a.1 ≠ b.1 then decide (a.1 < b.1)
  else if a.2.1 ≠ b.2.1 then decide (a.2.1 < b.2.1)
  else if a.2.2.1 ≠ b.2.2.1 then decide (a.2.2.1 < b.2.2.1)
  else decide (a.2.2.2 < b.2.2.2)

/-- The record that a free sequencer picks, if any. -/
def State.pickSlot (s : State) (sq : Nat) : Option Nat :=
  ((List.range 256).filter (s.mayPick sq)).foldl (fun best i =>
    match best with
    | none => some i
    | some j => if keyLt (s.pickKey (grpOf (tileOf sq)) i) (s.pickKey (grpOf (tileOf sq)) j) then some i else some j) none

/-- The continuation that a record describes, with windows and vector state filled. -/
def State.loadCont (s : State) (sq slot : Nat) : Cont × State :=
  let g := grpOf (tileOf sq)
  let l := s.recLnum g slot
  let sd := (find? (s.groupAt g).side slot).getD
    { party := 0, tok := [], born := [], spawnCount := 0, spawnAt := 0, readyAt := 0, pendMore := [], heldAcc := [], handled := 0, fault := none,
      noBreak := false, storeNo := 0, code := 0 }
  let space := (s.launchAt l).space
  let desc := s.recDword g slot 32
  let k : Cont := { Cont.reset with
    pc := s.recDword g slot 0, lnum := l, slot := slot, home := BitVec.ofNat 14 (s.recHome g slot),
    role := BitVec.ofNat 2 (s.recRole g slot), pin := s.recPin g slot, fix := s.recFix g slot, sec := s.recSec g slot,
    ts := s.recDword g slot 24, spill := s.recDword g slot 8, vsa := s.recDword g slot 48, uword := s.recDword g slot 56,
    stage := BitVec.ofNat 8 (s.recStage g slot), party := sd.party, born := sd.born, spawnCount := sd.spawnCount,
    spawnAt := sd.spawnAt, tok := sd.tok, pendMore := sd.pendMore, heldAcc := sd.heldAcc, handled := sd.handled, fault := sd.fault,
    noBreak := sd.noBreak, storeNo := sd.storeNo }
  let rows := s.fillWords g sd.party space k.spill 128
  let s := rows.2.2
  let k := (s.ownContexts g (k.fromRows rows.1 s.clk)).withCode sd.code
  -- rows in error give no pending error of their own
  let k := if rows.2.1.isEmpty then k else { k with pend := none }
  let v := if k.vsa = 0#64 then ([], [], s) else s.fillWords g sd.party space k.vsa 1032
  let k := if k.vsa = 0#64 then k else k.fromVector v.1
  let k := { k with gpr := put k.gpr 6 k.uword, csr := put k.csr 0x000 (s.recDword g slot 40) }
  let k := (rows.2.1 ++ v.2.1).foldl (fun k e => k.addPending e.1 e.2) k
  let s := (rows.2.1 ++ v.2.1).foldl (fun s e => s.noteCause (g / 128) e.1.toNat) v.2.2
  (if bits desc 63 60 = 3 then s.observeRelease k (Level.of (bits desc 59 48 % 4 + 1)) g else k, s)

/-- A sequencer picks a record (03 R23): it runs, and LWGT is its role's reset value (05 R61). -/
def State.pickInto (s : State) (sq slot : Nat) : State :=
  let p := s.loadCont sq slot
  let g := grpOf (tileOf sq)
  let s := p.2.setRecState g slot 2
  -- what its station holds goes with it
  let gr := s.groupAt g
  let s := match find? gr.side slot with
    | some sd => s.setGroup g { gr with side := ins gr.side slot { sd with heldAcc := [], handled := 0 } }
    | none => s
  let q := s.seqAt sq
  s.setSeq sq { q with mode := .run, k := p.1, hold := none, lwgt := lwgtReset (roleOf sq) }

/-! ## Suspension (03 R23) -/

/-- The focused sequencer stops with a wait descriptor; its record is written back later. -/
def State.suspendWith (s : State) (desc : Word) : State := { s with q := { s.q with mode := .writeBack desc, hold := none } }

/-- A wait (23 R225): it completes, or is held for WHOLD clk and then suspends. -/
def waitFor (s : State) (desc : Word) (post : State → State) : Res :=
  if s.descHolds desc s.q.k.lnum s.q.k.sec s.homeTile s.grp s.q.k.tok then doneR (post s)
  else
    let hold := bits s.q.whold 15 0
    match s.q.hold with
    | some (.wait d u) =>
      if d = desc then (if u ≤ s.clk then .next (s.retire.suspendWith desc) else .next s)
      else .next (s.holdFor (.wait desc (s.clk + hold)))
    | _ => if hold = 0 then .next (s.retire.suspendWith desc) else .next (s.holdFor (.wait desc (s.clk + hold)))

/-- What an end waits for (21 R213): queued vector instructions, and accesses that are not performed. -/
def State.quiet (s : State) : Bool := s.q.vq.isEmpty && !s.stationHeld
/-- What a suspension waits for: accesses that a station holds count as accepted (35 R342). -/
def State.settled (s : State) : Bool := s.q.vq.isEmpty && !s.underWay s.q.k.lnum s.q.k.party

/-! ## New records -/

/-- A free record slot of a group. -/
def State.freeSlotOf (s : State) (g : Nat) : Option Nat := (List.range 256).find? (fun i => s.recState g i == 0)

/-- The first free area of a launch's spill pool. -/
def Launch.freeArea (x : Launch) : Option Nat :=
  (List.range (x.poolSize / x.spillStep)).find? (fun i => !x.areas.contains i)
def Launch.areaAddr (x : Launch) (i : Nat) : Word := x.poolBase + BitVec.ofNat 64 (i * x.spillStep)

/-- The continuation-state registers of a placed record of a launch (44, 35 R329 R330, 13 R126 R127, 27 R253). A PRIO above 7 in the launch
record is placed as 7 (log 178). -/
def placedCsrs (x : Launch) (grp : Nat) (sec : Bool) (spill : Word) (prio : Nat) : Store 64 :=
  let base : Store 64 := [(0x000, 0), (0x020, 64)]
  let base := put base 0x000 (BitVec.ofNat 64 (min prio 7 * 2 ^ 8 + b2n x.det * 2))
  let base := put base 0x005 x.rtent
  let base := put base 0x031 (BitVec.ofNat 64 (bits (spill + 0x400) 55 4 * 16))
  let base := put base 0x032 (BitVec.ofNat 64 ((x.areaSize - 1024) / 144))
  let base := put base 0x080 (x.param &&& 0x00FFFFFFFFFFFFC0#64)
  let base := put base 0x081 (BitVec.ofNat 64 x.paramSize)
  let base := (range 1 7).foldl (fun m n => put (put m (0x08F + n) ((look x.lens n).zeroExtend 64)) (0x097 + n) (look x.lscl n)) base
  (List.range 8).foldl (fun m n => put m (0x0B0 + n) (slotContext grp sec n)) base

/-- Levels' counters, for who must arrive (03 R41). -/
def State.counters (s : State) (l grp : Nat) : List (Level × Word) :=
  [Level.group, .die, .package, .pod].map (fun lv => (s.effLevel l lv, (s.barOf l lv grp).count))

end Sys2Proof.Machine
end

