-- ==== Sys2Proof/Machine/Barrier.lean ====
section
/-! DEFINITION. Barriers: members, arrivals, values, aborts, release (03 R28-R41, 40 R361). -/

namespace Sys2Proof.Machine

/-! ## Values (03 R35) -/

def barIdentity (op : Nat) : Word :=
  match op with
  | 2 => 0x7FFFFFFFFFFFFFFF#64
  | 3 => 0x8000000000000000#64
  | 4 => -1#64
  | 6 => -1#64
  | _ => 0#64

def barOp (op : Nat) (a b : Word) : Word :=
  match op with
  | 1 => a + b
  | 2 => if a.slt b then a else b
  | 3 => if a.slt b then b else a
  | 4 => if a.ult b then a else b
  | 5 => if a.ult b then b else a
  | 6 => a &&& b
  | 7 => a ||| b
  | 8 => a ^^^ b
  | 9 => add64 a b
  | _ => 0#64

/-- The tree of R84 over leaves that may be absent. -/
def barTree (op : Nat) (xs : List (Option Word)) : Word :=
  ((tree (fun a b (f : Unit) => (barOp op a b, f)) xs ()).1).getD (barIdentity op)

/-- The operator of a level for a launch. -/
def Launch.opOf (x : Launch) (lv : Level) : Nat := x.barOps.getD (lv.num - 1) 0

/-- Whether a level contains aborts (03 R37). -/
def Launch.contains (x : Launch) (lv : Level) : Bool :=
  lv.num == x.outer.num || (match lv with
    | .group => bit x.abcont 0
    | .die => bit x.abcont 1
    | .package => bit x.abcont 2
    | _ => true)

/-- The levels from a level out to another. -/
def levelsFrom (lo hi : Level) : List Level := (range lo.num (hi.num + 1 - lo.num)).map Level.of

/-- The containing level of an abort raised at a level. -/
def Launch.container (x : Launch) (lv : Level) : Level := ((levelsFrom lv x.outer).find? x.contains).getD x.outer

/-! ## Members (03 R34) -/

/-- A live continuation of a launch in a group. -/
structure Live where
  slot : Nat
  party : Nat
  member : Nat
  born : List (Level × Word)
  deriving DecidableEq, Repr

namespace State

/-- The live continuations of a launch in a group, by their record slots. -/
def liveIn (s : State) (l g : Nat) : List Live :=
  (s.slotsOf g l).map (fun i =>
    let sd := find? (s.groupAt g).side i
    { slot := i, party := (sd.map (·.party)).getD 0, member := memberOf (s.recHome g i) (s.recRole g i),
      born := (sd.map (·.born)).getD [] })

/-- Groups of a launch's footprint within a barrier unit. -/
def groupsIn (s : State) (l : Nat) (lv : Level) (unit : Nat) : List Nat :=
  ((s.footOf l).map grpOf).dedup.filter (fun g => unitOf lv g == unit)

/-- Group-level members of a launch in a group. -/
def membersIn (s : State) (l g : Nat) : List Nat :=
  ((s.footOf l).filter (fun t => grpOf t == g)).flatMap (fun t => (List.range 3).map (memberOf t))

/-- A continuation must arrive in the current superstep of a level: it was live when the superstep opened (03 R41). -/
def mustArrive (s : State) (l : Nat) (lv : Level) (g : Nat) (c : Live) : Bool :=
  c.born.all (fun p => p.1 != lv || decide (p.2.toNat < (s.barOf l lv g).count.toNat))

/-- Every continuation of a member that must arrive at a level has arrived or ended. -/
def memberArrived (s : State) (l : Nat) (lv : Level) (g m : Nat) : Bool :=
  ((s.liveIn l g).filter (fun c => c.member == m && s.mustArrive l lv g c)).all (fun c =>
    (s.barOf l lv g).arrs.any (fun a => a.party == c.party))

/-- A member's continuations have all arrived at a level or ended, and the inner supersteps of their arrivals have been released. -/
def memberReady (s : State) (l : Nat) (lv : Level) (g m : Nat) : Bool :=
  let b := s.barOf l lv g
  s.memberArrived l lv g m
  && b.arrs.all (fun a => a.member != m || a.under.all (fun p => decide (p.2.toNat < (s.barOf l p.1 g).count.toNat)))

/-- Insertion by timestamp; of two equal ones the earlier arrival comes first, which the spec leaves open (log 176). -/
def insertArr (key : ContArr → Nat) (a : ContArr) : List ContArr → List ContArr
  | [] => [a]
  | x :: r => if key x ≤ key a then x :: insertArr key a r else a :: x :: r

/-- The value and code that a member's continuations form (03 R41). -/
def memberValue (s : State) (l : Nat) (lv : Level) (g m : Nat) : Word × Nat :=
  let b := s.barOf l lv g
  let x := s.launchAt l
  let key (a : ContArr) : Nat := tsOrder x.det (s.barOf l .group g).count a.ts
  let mine := (b.arrs.filter (fun a => a.member == m)).foldl (fun acc a => insertArr key a acc) []
  (barTree (x.opOf lv) (mine.map (fun a => if a.ended then none else some a.value)), (mine.map (·.code)).foldl max 0)

/-- The combination of leaves 0 to n - 1, members outside holding the identity. -/
def combine (op n : Nat) (f : Nat → Option Word) : Word := barTree op ((List.range n).map (fun i => some ((f i).getD (barIdentity op))))

/-- A group's combined value and code at a level. -/
def groupValue (s : State) (l : Nat) (lv : Level) (g : Nat) : Word × Nat :=
  let x := s.launchAt l
  let ms := s.membersIn l g
  let vs := ms.map (fun m => (m % 48, s.memberValue l lv g m))
  (combine (x.opOf lv) 48 (fun i => (vs.find? (fun p => p.1 == i)).map (fun p => p.2.1)), (vs.map (fun p => p.2.2)).foldl max 0)

/-- A die's combined value and code at a level. -/
def dieValue (s : State) (l : Nat) (lv : Level) (d : Nat) : Word × Nat :=
  let x := s.launchAt l
  let vs := (s.groupsIn l .die d).map (fun g => (g % 128, s.groupValue l lv g))
  (combine (x.opOf lv) 128 (fun i => (vs.find? (fun p => p.1 == i)).map (fun p => p.2.1)), (vs.map (fun p => p.2.2)).foldl max 0)

/-- The package's combined value and code at the pod. -/
def packageValue (s : State) (l : Nat) : Word × Nat :=
  let x := s.launchAt l
  let ds := ((s.groupsIn l .package 0).map (· / 128)).dedup
  let vs := ds.map (fun d => (d, s.dieValue l .pod d))
  (combine (x.opOf .pod) 8 (fun i => (vs.find? (fun p => p.1 == i)).map (fun p => p.2.1)), (vs.map (fun p => p.2.2)).foldl max 0)

/-- The members that a barrier unit waits for: group members, groups, dies, or packages of the job. -/
def unitMembers (s : State) (l : Nat) (lv : Level) (unit : Nat) : List Nat :=
  match lv with
  | .group => (s.membersIn l unit).map (· % 48)
  | .die => (s.groupsIn l .die unit).map (· % 128)
  | .package => ((s.groupsIn l .package 0).map (· / 128)).dedup
  | .pod => ((find? s.jobs (s.launchAt l).job).getD [32 * s.dgrp.toNat + s.pkg.toNat]).filter (fun p =>
      -- a revoked package counts as outside the footprint (33 R328)
      !(find? s.enclaves (s.launchAt l).domain).any (fun e => e.excluded.contains p))
  | .tile => []

/-- The groups inside one member of a barrier unit. -/
def groupsOfMember (s : State) (l : Nat) (lv : Level) (unit m : Nat) : List Nat :=
  match lv with
  | .group => [unit]
  | .die => [unit * 128 + m]
  | .package => s.groupsIn l .die m
  | _ => s.groupsIn l .package 0

/-- A unit's member, of this package, has all its continuations arrived. -/
def unitReady (s : State) (l : Nat) (lv : Level) (unit m : Nat) : Bool :=
  match lv with
  | .group => s.memberReady l lv unit (unit * 48 + m)
  | _ => (s.groupsOfMember l lv unit m).all (fun g => (s.membersIn l g).all (s.memberReady l lv g))

def unitValue (s : State) (l : Nat) (lv : Level) (unit m : Nat) : Word × Nat :=
  match lv with
  | .group => s.memberValue l lv unit (unit * 48 + m)
  | .die => s.groupValue l lv (unit * 128 + m)
  | .package => s.dieValue l lv m
  | _ => s.packageValue l

/-- Whether a group-level member has done EXEND at a level, or has arrived: every continuation that had to arrive has arrived or ended
(03 R28, R41, 23 R232). -/
def exendDone (s : State) (l : Nat) (lv : Level) (g m : Nat) : Bool :=
  (s.barOf l lv g).exend.contains m || s.memberReady l lv g m

/-- Copies of the exchange of a barrier unit have ended, and so have the engines' commands that belong to it (29 R283, 31 R300). -/
def exchCopiesDone (s : State) (l : Nat) (lv : Level) (unit : Nat) : Bool :=
  let cnt := (s.barAt l lv unit).count
  s.dies.all (fun d =>
    d.2.copies.all (fun c => !(c.lnum == l && unitOf lv (grpOf c.tile) == unit && c.joins.contains (lv, cnt)))
    && (lv != s.effLevel l .die || d.2.everyTree.all (fun t => t.2.lnum != l
      || t.2.queue.all (fun c => !(c.step == cnt && unitOf lv (grpOf c.tile) == unit)))))
  && (lv != .group || (s.groupAt unit).sig.queue.all (fun c => !((s.groupAt unit).sig.held == some l && c.step == some cnt)))

/-- A fetch of an exchange has not read its source (17 R178): of a launch, on the tiles of a barrier unit. -/
def fetchOpen (l : Nat) (lv : Level) (unit : Nat) (sq : Nat) (q : Seq) : Bool :=
  unitOf lv (grpOf (tileOf sq)) == unit
  && q.mq.any (fun e => e.lnum == l && e.exch && !e.running && (match e.op with
      | .fts _ _ => true
      | _ => false))

/-- Every package of a pod barrier has sent its EXEND, which it does when its copies of the exchange have ended (03 R28, 39 R355). -/
def farDone (s : State) (l : Nat) (lv : Level) (unit : Nat) : Bool :=
  lv != .pod || (s.unitMembers l .pod unit).all (fun m => (s.barAt l lv unit).farExend.contains m)

/-- A read of another package waits here for the phases of a launch: it reads in the pod's exchange (39 R358). -/
def readHeld (s : State) (l : Nat) : Bool :=
  s.srcs.any (fun x => x.2.flags.any (fun f => f.2.kind == 1 && (s.launchAt l).job != 0 && f.2.job.toNat == (s.launchAt l).job))

/-- Every member has ended its part of the exchange, and its copies and fetches are performed. -/
def computeReady (s : State) (l : Nat) (lv : Level) (unit : Nat) : Bool :=
  (s.barAt l lv unit).exch && (s.groupsIn l lv unit).all (fun g => (s.membersIn l g).all (s.exendDone l lv g))
  && s.farDone l lv unit
  && s.exchCopiesDone l lv unit
  && (lv != .pod || !s.readHeld l)
  && (lv != s.effLevel l .die || !(fetchOpen l lv unit s.cur s.q || s.seqs.any (fun p => fetchOpen l lv unit p.1 p.2)))


/-- The greatest hardware code that waits for a member's arrival at a barrier unit, or for its combined code (03 R36, 33 R319). -/
def hwCode (s : State) (l : Nat) (lv : Level) (unit : Nat) (m : Option Nat) : Nat :=
  (((s.launchAt l).hwCodes.filter (fun p => p.1 == lv && p.2.1 == unit && p.2.2.1 == m)).map (fun p => p.2.2.2)).foldl max 0
/-- The codes that an arrival has taken are gone. -/
def dropHwCode (s : State) (l : Nat) (lv : Level) (unit : Nat) (m : Option Nat) : State :=
  match s.launchAt? l with
  | none => s
  | some x => s.setLaunch l { x with hwCodes := x.hwCodes.filter (fun p => !(p.1 == lv && p.2.1 == unit && p.2.2.1 == m)) }
/-- Raise a code at a launch's outermost barrier with the arrival of the unit that holds a group (33 R319). -/
def raiseCode (s : State) (l g code : Nat) : State :=
  match s.launchAt? l with
  | none => s
  | some x =>
    let e : Level × Nat × Option Nat × Nat := match x.outer with
      | .pod => (.pod, 0, some (32 * s.dgrp.toNat + s.pkg.toNat), code)
      | .package => (.package, 0, some (g / 128), code)
      | .die => (.die, g / 128, some (g % 128), code)
      | _ => (.group, g, none, code)
    s.setLaunch l { x with hwCodes := x.hwCodes ++ [e] }

/-- Staged data that an uncorrectable error has struck never reaches memory (00 R4): the stores go, their dies note the error (43 R375), and the
launch aborts with 0xF2 at its outermost barrier where the moment is no barrier's (log 189). -/
def dropStruck (s : State) (l : Nat) (ok : Staged → Bool) : State :=
  let gone (e : Staged) : Bool := e.bad && e.lnum == l && ok e
  (s.staged.filter gone).foldl (fun s e => (s.markUe (e.grp / 128)).raiseCode l e.grp 0xF2)
    { s with staged := s.staged.filter (fun e => !gone e) }

/-- The compute phase begins: deferred commits take effect (39 R357) and zones thaw (03 R28, R32). -/
def beginCompute (s : State) (l : Nat) (lv : Level) (unit : Nat) : State :=
  let s := s.setBar l lv unit { s.barAt l lv unit with exch := false, reads := [], before := [] }
  (s.dropStruck l (fun e => e.deferred == some lv && unitOf lv e.grp == unit)).commitDeferred l lv unit

/-- Every member has arrived, and the unit's compute phase has begun (03 R28). -/
def completeReady (s : State) (l : Nat) (lv : Level) (unit : Nat) : Bool :=
  let b := s.barAt l lv unit
  !b.exch && !(s.unitMembers l lv unit).isEmpty && (s.unitMembers l lv unit).all (fun m => (find? b.members m).isSome)

/-- 0xF2 where an uncorrectable error struck data that the exchange would commit (03 R36, 43 R372). -/
def hitBy (l : Nat) (lv : Level) (unit : Nat) (e : Staged) : Bool :=
  e.bad && e.lnum == l && e.lv == lv && e.unit == unit && e.deferred.isNone
def struck (s : State) (l : Nat) (lv : Level) (unit : Nat) : Nat := if s.staged.any (hitBy l lv unit) then 0xF2 else 0
/-- The error is noted at the dies whose data it struck (43 R375). -/
def noteStruck (s : State) (l : Nat) (lv : Level) (unit : Nat) : State :=
  (s.staged.filter (hitBy l lv unit)).foldl (fun s e => s.markUe (e.grp / 128)) s

/-- The release value of a barrier unit. -/
def releaseValue (s : State) (l : Nat) (lv : Level) (unit : Nat) : Word × Nat :=
  let b := s.barAt l lv unit
  let op := (s.launchAt l).opOf lv
  let n := match lv with
    | .group => 48
    | .die => 128
    | .package => 8
    | _ => 2048
  (if op = 0 then 0#64 else combine op n (fun i => (find? b.members i).map (·.1)), (b.members.map (fun p => p.2.2)).foldl max (max (s.hwCode l lv unit none) (s.struck l lv unit)))

/-- Index of a level among the counters that a staged store carries. -/
def stepOf (e : Staged) (lv : Level) : Word := e.steps.getD (lv.num - 1) 0

/-- Staged stores of a unit in its current superstep of a level are discarded (03 R38 steps 1 and 4, 39 R359). -/
def discard (s : State) (l : Nat) (lv : Level) (unit : Nat) (allInner : Bool) : State :=
  let cnt := (s.barAt l lv unit).count
  let gone (e : Staged) : Bool :=
    e.lnum == l && e.lv != Level.tile && !stationKeeps e && unitOf lv e.grp == unit && (stepOf e lv == cnt || (allInner && decide (e.lv.num < lv.num)))
  { s with staged := s.staged.filter (fun e => !gone e) }

/-- Early writes of a superstep that has closed need no record any more. -/
def forgetEarly (s : State) (l : Nat) (lv : Level) (unit : Nat) : State :=
  { s with early := s.early.filter (fun e => !(e.lnum == l && e.lv == lv && e.unit == unit)) }

/-- A unit's member index at the next level out. -/
def memberAbove (lv : Level) (unit : Nat) : Nat :=
  match lv with
  | .group => unit % 128
  | .die => unit
  | _ => 0
def unitAbove (lv : Level) (unit : Nat) : Nat :=
  match lv with
  | .group => unit / 128
  | _ => 0

/-- The nodes from a level out to the one inside C arrive at once with a code, and that counts as EXEND (03 R38 step 3). -/
def escalate (s : State) (l : Nat) (c : Level) (ref : Word) (code : Nat) : Nat → Level → Nat → State
  | 0, _, _ => s
  | n + 1, lv, unit =>
    if c.num ≤ lv.num then s
    else
      let up := Level.of (lv.num + 1)
      let u := unitAbove lv unit
      let m := if up = .pod then 32 * s.dgrp.toNat + s.pkg.toNat else memberAbove lv unit
      let b := s.barAt l up u
      let op := (s.launchAt l).opOf up
      let own := ((s.groupsIn l lv unit).flatMap (s.membersIn l)).filter (fun x => !b.exend.contains x)
      -- an arrival takes the code that waits for it (33 R319)
      let fresh := (find? b.members m).isNone
      let b : Bar := { b with
        members := if fresh then ins b.members m (barIdentity op, max code (s.hwCode l up u (some m))) else b.members
        exend := b.exend ++ own
        carried := if up.num < c.num then b.carried.or (some (c, ref)) else b.carried }
      let s := s.setBar l up u b
      (if fresh then s.dropHwCode l up u (some m) else s).escalate l c ref code n up u

/-- The next superstep of a barrier unit (03 R28), with what its release delivers. -/
def openNext (b : Bar) (value : Word) (code lvl : Nat) (esc : Bool) : Bar :=
  { b with count := b.count + 1, exch := true, exend := [], farExend := [], arrs := [], members := [], reads := [], before := [],
           relValue := value, relCode := code, relLevel := lvl, relEsc := esc }

/-- The live continuations of a unit whose own arrival at C does not stand: an escalation answers for them (40 R361). -/
def owedIn (s : State) (l : Nat) (lv : Level) (unit : Nat) (c : Level) : List Nat :=
  (s.groupsIn l lv unit).flatMap (fun g => ((s.liveIn l g).filter (fun x =>
    s.mustArrive l c g x && !(s.barOf l c g).arrs.any (fun a => a.party == x.party))).map (·.party))

/-- A barrier completes: commit or discard, release, and escalation (03 R38). A node that an escalation already took to C does not arrive
there again. -/
def completeBarrier (s : State) (l : Nat) (lv : Level) (unit : Nat) : State :=
  let x := s.launchAt l
  let v := s.releaseValue l lv unit
  let s := s.noteStruck l lv unit
  let b := s.barAt l lv unit
  let clean (b : Bar) : Bar := { b with esc := none, carried := none }
  if v.2 = 0 then
    let s := (s.commit l lv unit).forgetEarly l lv unit
    s.setBar l lv unit (clean (openNext b v.1 0 0 false))
  else
    let c := x.container lv
    let s := (s.discard l lv unit (c = lv)).forgetEarly l lv unit
    if c = lv then s.setBar l lv unit (clean (openNext b v.1 v.2 lv.num false))
    else
      let up := s.barAt l c (unitOf c ((s.groupsIn l lv unit).headD 0))
      let before := b.carried.filter (fun p => p.1 == c)
      let ref := (before.map (·.2)).getD up.count
      let e : Escalation := { level := c, code := v.2, opened := b.count + 1, ref := ref, owed := s.owedIn l lv unit c }
      let s := s.setBar l lv unit { openNext b v.1 v.2 c.num true with esc := some e, carried := none }
      if before.isSome then s else s.escalate l c ref v.2 5 lv unit

/-! ## Arriving (23 R232, 03 R30, R40, R41, 40 R361) -/

/-- The escalations of the units that hold a group. -/
def escalations (s : State) (l g : Nat) : List (Level × Escalation) :=
  [Level.group, .die, .package].filterMap (fun u => (s.barAt l u (unitOf u g)).esc.map (fun e => (u, e)))

/-- The escalation that answers for the running continuation: C, and C's superstep in which it arrived. -/
def owes (s : State) : Option (Level × Word) :=
  ((s.escalations s.q.k.lnum s.grp).find? (fun p => p.2.owed.contains s.q.k.party)).map (fun p => (p.2.level, p.2.ref))

/-- The escalations that are in force for the running continuation: each until C's release, or while it answers for it. -/
def inForce (s : State) : List (Level × Escalation) :=
  (s.escalations s.q.k.lnum s.grp).filter (fun p =>
    p.2.owed.contains s.q.k.party || (s.barOf s.q.k.lnum p.2.level s.grp).count == p.2.ref)

/-- ABORT.ESC is in force for the running continuation (03 R38). -/
def escInForce (s : State) : Bool := !s.inForce.isEmpty

/-- A level lies inside the containing level of an escalation in force: a BARA there returns at once (03 R38 step 3). -/
def insideEscaped (s : State) (lv : Level) : Bool := s.inForce.any (fun p => decide (lv.num < p.2.level.num))

/-- No escalation answers for the running continuation any more. -/
def unowe (s : State) : State :=
  [Level.group, .die, .package].foldl (fun s u =>
    let b := s.barAt s.q.k.lnum u (unitOf u s.grp)
    match b.esc with
    | some e => s.setBar s.q.k.lnum u (unitOf u s.grp) { b with esc := some { e with owed := e.owed.filter (fun p => p != s.q.k.party) } }
    | none => s) s

/-- A barrier wait of a descriptor ends, or leaves its sequencer, whose superstep is that of an escalation: it answers no more (40 R361). -/
def settleBarw (s : State) (d : Word) : State :=
  match s.owes with
  | some (c, ref) => if bits d 63 60 = 3 ∧ bits d 59 48 % 4 + 1 = c.num ∧ bits d 47 0 = bits ref 47 0 + 1 then s.unowe else s
  | none => s

/-- EXEND of the running continuation's member at a level (23 R233). -/
def markExend (s : State) (lv : Level) : State :=
  let l := s.q.k.lnum
  let u := unitOf lv s.grp
  let b := s.barAt l lv u
  if !b.exch || b.exend.contains s.ownMember then s else s.setBar l lv u { b with exend := b.exend ++ [s.ownMember] }

/-- An arrival of the running continuation at one level, with EXEND. -/
def arriveAt (s : State) (lv : Level) (value : Word) (code : Nat) (under : List (Level × Word)) : State :=
  let s := s.markExend lv
  let l := s.q.k.lnum
  let u := unitOf lv s.grp
  let b := s.barAt l lv u
  let a : ContArr := { party := s.q.k.party, member := s.ownMember, ts := s.q.k.ts, value := value, code := code, ended := false, under := under }
  s.setBar l lv u { b with arrs := b.arrs ++ [a] }

/-- Copies of an exchange that closes with its copies open count toward the next compute phase of their level (39 R360). -/
def carryJoins (s : State) (l : Nat) (lv : Level) (unit : Nat) (old : Word) : State :=
  { s with dies := s.dies.map (fun d => (d.1, { d.2 with copies := d.2.copies.map (fun c =>
      if c.lnum = l ∧ unitOf lv (grpOf c.tile) = unit then
        { c with joins := c.joins.map (fun j => if j = (lv, old) then (lv, old + 1) else j) }
      else c) })) }

/-- The engines' commands of such an exchange run on too (40 R361, 29 R283, 31 R300). -/
def carryCommands (s : State) (l : Nat) (lv : Level) (unit : Nat) (old : Word) : State :=
  if lv = s.effLevel l .die then
    let tree (t : Tree) : Tree := if t.lnum = l then { t with queue := t.queue.map (fun c =>
      if c.step = old ∧ unitOf lv (grpOf c.tile) = unit then { c with step := old + 1 } else c) } else t
    { s with dies := s.dies.map (fun d => (d.1, { d.2 with trees := d.2.trees.map (fun t => (t.1, tree t.2)),
                                                           leaving := d.2.leaving.map (fun t => (t.1, tree t.2)) })) }
  else if lv = .group ∧ (s.groupAt unit).sig.held = some l then
    let g := s.groupAt unit
    s.setGroup unit { g with sig := { g.sig with queue := g.sig.queue.map (fun c => if c.step = some old then { c with step := some (old + 1) } else c) } }
  else s

/-- What the trees of a launch on a die have staged is discarded, with the marks of PRCLR: all of it, or one continuation's records by their
place and timestamp (29 R287). -/
def dropTreeStages (s : State) (l die : Nat) (own : Option (Nat × Word)) : State :=
  let d := s.dieAt die
  let keep (p : Nat × Word) : Bool := own.any (fun o => o != p)
  s.setDie die { d with trees := d.trees.map (fun t =>
    if t.2.lnum = l then (t.1, { t.2 with staged := t.2.staged.filter (fun x => keep (x.place, x.ts)),
                                          refusedSt := if own.isNone then 0 else t.2.refusedSt, clrBy := t.2.clrBy.filter keep }) else t) }

/-- The superstep that an escalated unit's release opened closes at once (40 R361): it commits nothing, and the copies and commands of its
exchange run on. -/
def closeEscaped (s : State) (u : Level) : State :=
  let l := s.q.k.lnum
  let unit := unitOf u s.grp
  let b := s.barAt l u unit
  match b.esc with
  | none => s
  | some e =>
    if !e.owed.contains s.q.k.party || b.count != e.opened then s
    else
      let s := { s with staged := s.staged.filter (fun (x : Staged) => !(x.lnum == l && x.lv != Level.tile && !stationKeeps x && unitOf u x.grp == unit && stepOf x u == b.count)) }
      let s := if b.exch then (s.carryJoins l u unit b.count).carryCommands l u unit b.count else s
      let s := if u = .die ∨ u = .package then ((s.groupsIn l u unit).map (· / 128)).dedup.foldl (fun s d => s.dropTreeStages l d none) s else s
      (s.forgetEarly l u unit).setBar l u unit
        { openNext b (barIdentity ((s.launchAt l).opOf u)) e.code e.level.num true with
          reads := if b.exch then b.reads else [], before := if b.exch then b.before else [] }

/-- A BARA at C is absorbed into the arrival that the unit's node has made: BARW waits for that superstep's release. -/
def absorbAt (s : State) (c : Level) (ref : Word) : State :=
  let b := s.barOf s.q.k.lnum c s.grp
  if b.count != ref then s else s.arriveAt c 0 0 []

/-- What the running continuation has staged since the release that escalated is discarded (03 R38 step 3, 40 R361): its stores, and where a
die or the package escalated, its tree records and the marks of PRCLR. -/
def dropOwn (s : State) : State :=
  let trees := s.inForce.any (fun p => p.1 == .die || p.1 == .package)
  let gone (e : Staged) : Bool :=
    e.lnum == s.q.k.lnum && e.lv != Level.tile && e.party == s.q.k.party && e.deferred.isNone
    && s.inForce.any (fun p => decide (p.2.opened.toNat ≤ (stepOf e p.1).toNat))
  let s := { s with staged := s.staged.filter (fun e => !gone e) }
  if trees then s.dropTreeStages s.q.k.lnum s.die (some (s.q.k.home.toNat * 4 + s.q.k.role.toNat, s.q.k.ts)) else s

/-- The continuation has an arrival standing at a level, or may not yet arrive there (03 R40, R41). -/
def mustWait (s : State) (lv : Level) : Bool :=
  let b := s.barOf s.q.k.lnum lv s.grp
  b.arrs.any (fun a => a.party == s.q.k.party && !a.ended) || s.q.k.born.any (fun p => p.1 == lv && p.2 == b.count)

/-- Where a copy writes: the groups, the die or the package whose memory its elements lie in; another package's is the pod's. -/
def destUnits (c : Copy) : List (Level × Nat) :=
  match c.op with
  | .block b =>
    if b.rdir = 1 then [(.pod, 0)]
    else match b.dk with
      | 0 => [(.group, grpOf c.tile)]
      | 3 =>
        let tiles := if b.kind = 3 then mcastTiles (dieOf c.tile) b else (List.range b.count).map (fun e => tileWordTile (b.dstAt e))
        ((tiles.map grpOf).dedup).map (fun g => (.group, g))
      | 2 => [(.die, dieOf c.tile)]
      | _ => [(.package, 0)]
  | _ => [(.die, dieOf c.tile)]

/-- A destination lies inside a unit's extent. -/
def destInside (lv : Level) (unit : Nat) (d : Level × Nat) : Bool :=
  match d with
  | (.group, g) => unitOf lv g == unit
  | (.die, x) => decide (Level.die.num ≤ lv.num) && unitOf lv (x * 128) == unit
  | (x, _) => decide (x.num ≤ lv.num)

/-- Copies that hold back the arrival of a member at a level (21 R205): released by it, with an element that ends inside (memory outside the outermost level
counts for that level, 03 R27), and able to start. -/
def copiesBefore (s : State) (l : Nat) (home : Nat) (role : Nat) (lv : Level) (grp : Nat) : Bool :=
  s.dies.any (fun d => d.2.copies.any (fun c =>
    c.lnum == l && c.home.toNat == home && roleOf c.sq == role 
    && ((destUnits c).any (destInside lv (unitOf lv grp)) || lv == (s.launchAt l).outer)
    && !(c.st == .waiting && c.exch.any (fun e => !s.exchOpen l e grp))))

/-- A continuation that ends: an absent leaf at each level where it had to arrive and has not (03 R41). -/
def endArrivals (s : State) : State :=
  let l := s.q.k.lnum
  (levelsFrom .group (s.launchAt l).outer).foldl (fun s lv =>
    let b := s.barOf l lv s.grp
    if b.arrs.any (fun a => a.party == s.q.k.party) || s.q.k.born.any (fun p => p.1 == lv && p.2 == b.count) then s
    else s.setBar l lv (unitOf lv s.grp)
      { b with arrs := b.arrs ++ [{ party := s.q.k.party, member := s.ownMember, ts := s.q.k.ts, value := 0, code := 0, ended := true, under := [] }] }) s

end State
end Sys2Proof.Machine
end

