-- ==== Sys2Proof/Machine/Parties.lean ====
section
/-! DEFINITION. Reaching a continuation from outside it: its running sequencer or its parked state (35 R332 R343, 17 R175 R181), the
events that end a WFE (35 R340), and the implicit releases of a continuation that ends (17 R169). -/

namespace Sys2Proof.Machine
namespace State

/-- All sequencers with a state of their own. -/
def everySeq (s : State) : List (Nat × Seq) := (s.cur, s.q) :: s.seqs

/-- The sequencer of a group that runs a continuation. -/
def runningAt (s : State) (grp party : Nat) : Option Nat :=
  (s.everySeq.find? (fun p => grpOf (tileOf p.1) == grp && p.2.mode != .idle && p.2.k.party == party)).map (·.1)

/-- The record slot of a continuation that is not running. -/
def parkedAt (s : State) (grp party : Nat) : Option Nat :=
  ((s.groupAt grp).side.find? (fun p => p.2.party == party && s.recState grp p.1 != 0)).map (·.1)

/-- Change every sequencer by its number. -/
def mapSeqs (s : State) (f : Nat → Seq → Seq) : State :=
  { s with q := f s.cur s.q, seqs := s.seqs.map (fun p => (p.1, f p.1 p.2)) }

/-- Change one doubleword of the spill area of a parked continuation: buffered, or in translated memory. -/
def patchRow (s : State) (grp slot party off : Nat) (f : Word → Word) : State :=
  let g := s.groupAt grp
  let area := s.recDword grp slot 8
  if g.spills.any (fun x => x.party == party && x.addr == area) then
    s.setGroup grp { g with spills := g.spills.map (fun x =>
      if x.party = party ∧ x.addr = area then { x with data := x.data.set (off / 8) (f (x.data.getD (off / 8) 0)) } else x) }
  else
    let a := area + BitVec.ofNat 64 off
    let space := (s.launchAt (s.recLnum grp slot)).space
    match s.xlatWord (grp / 128) space a with
    | .ok (w, s') => s'.xlatStore (grp / 128) space a [f w]
    | .error _ => s

/-- Read one doubleword of that area; zero where it cannot be read. -/
def rowAt (s : State) (grp slot party off : Nat) : Word :=
  let area := s.recDword grp slot 8
  match (s.groupAt grp).findSpill party area with
  | some ws => ws.getD (off / 8) 0
  | none =>
    match s.xlatWord (grp / 128) (s.launchAt (s.recLnum grp slot)).space (area + BitVec.ofNat 64 off) with
    | .ok (w, _) => w
    | .error _ => 0#64

/-- An asynchronous error of a continuation, wherever it is (R332): pending if it runs; else in its saved rows, further ones beside
its slot. One that has ended takes none. `mepc`: the engine's error address (17 R175). -/
def asyncError (s : State) (grp party : Nat) (code : Nat) (addr : Word) (mepc : Option Word) : State :=
  let s := s.noteCause (grp / 128) code
  match s.runningAt grp party with
  | some sq =>
    let q := s.seqAt sq
    let k := q.k.addPending (BitVec.ofNat 8 code) addr
    let bank := match mepc with
      | some a => put k.bank 0x12 a
      | none => k.bank
    s.setSeq sq { q with k := { k with bank := bank } }
  | none =>
    match s.parkedAt grp party with
    | none => s
    | some slot =>
      let s := match mepc with
        | some a => s.patchRow grp slot party 0x258 (fun _ => a)
        | none => s
      if bit (s.rowAt grp slot party 0x288) 63 then
        let g := s.groupAt grp
        match find? g.side slot with
        | none => s
        | some sd => s.setGroup grp { g with side := ins g.side slot { sd with pendMore := sd.pendMore ++ [(BitVec.ofNat 8 code, addr)] } }
      else
        (s.patchRow grp slot party 0x288 (fun _ => BitVec.ofNat 64 (2 ^ 63 + code))).patchRow grp slot party 0x290 (fun _ => addr)

/-- Flags into a continuation's FFLAGS, wherever it is (17 R181). -/
def partyFlags (s : State) (grp party : Nat) (f : BitVec 5) : State :=
  match s.runningAt grp party with
  | some sq =>
    let q := s.seqAt sq
    s.setSeq sq { q with k := { q.k with csr := put q.k.csr 0x007 (look q.k.csr 0x007 ||| f.zeroExtend 64) } }
  | none =>
    match s.parkedAt grp party with
    | none => s
    | some slot => s.patchRow grp slot party 0x108 (fun w => w ||| f.zeroExtend 64)

/-! ## What ends a WFE (R340) -/

def wakeIf (s : State) (p : Nat → Seq → Bool) : State :=
  s.mapSeqs (fun n q => match q.hold with
    | some (.wfe d _) => if p n q then { q with hold := some (.wfe d true) } else q
    | _ => q)
/-- A counter or channel count of a tile changes. -/
def wakeTile (s : State) (tile : Nat) : State := s.wakeIf (fun _ q => q.k.home.toNat == tile)
/-- A record of a group becomes ready. -/
def wakeGroup (s : State) (grp : Nat) : State := s.wakeIf (fun n _ => grpOf (tileOf n) == grp)

/-- A record of a group has become ready: a primary one asks every secondary of the group to stop (05 R63). -/
def readied (s : State) (grp : Nat) (sec : Bool) : State :=
  let s := s.wakeGroup grp
  if sec then s
  else s.mapSeqs (fun n q => if grpOf (tileOf n) = grp ∧ q.mode = .run ∧ q.k.sec then { q with stop := true } else q)

/-- A waiting record becomes ready (03 R22): its moment counts for the pick of normal mode (05 R56). -/
def makeReady (s : State) (g slot : Nat) : State :=
  let s := s.setRecState g slot 1
  let gr := s.groupAt g
  (match find? gr.side slot with
    | none => s
    | some sd => s.setGroup g { gr with side := ins gr.side slot { sd with readyAt := s.clk } }).readied g (s.recSec g slot)

/-! ## Counters of the home tile -/

/-- Change a message counter of a tile: set 0 of the primary, set 1 of a secondary (23 R226). -/
def addCounter (s : State) (tile : Nat) (sec : Bool) (n : Nat) (v : BitVec 48) : State :=
  let t := s.tileAt tile
  let i := n + 16 * b2n sec
  (s.setTile tile { t with mc := put t.mc i (look t.mc i + v) }).wakeTile tile

end State
end Sys2Proof.Machine
end

