-- ==== Sys2Proof/Machine/Matrix.lean ====
section
/-! DEFINITION. The matrix engine (17): acceptance with its checks, dispatch, execution, retirement, and the engine registers. -/

namespace Sys2Proof.Machine

/-! ## Units -/

/-- The units a command names (R169, R172): 0-7 slots, 8-11 accumulators. -/
def MOp.units : MOp → List Nat
  | .rel u => [u]
  | .fil s _ => [s]
  | .fts s _ => [s]
  | .mma c a b => [8 + c, a, b]
  | .mmat c a b => [8 + c, a, b]
  | .mopr c a b => [8 + c, a, b]
  | .mza c => [8 + c]
  | .drn c _ => [8 + c]

/-- The unit that runs a command: 0 fill, 1 array, 2 drain (R173). -/
def MOp.station : MOp → Nat
  | .rel u => if u < 8 then 0 else 2
  | .fil _ _ => 0
  | .fts _ _ => 0
  | .drn _ _ => 2
  | _ => 1

/-- The dependency slots of a launch on a tile (R168). -/
def Tile.slots (t : Tile) (sec : Bool) : BitVec 8 := if sec then t.dslotSec else t.dslot
def Tile.setSlots (t : Tile) (sec : Bool) (v : BitVec 8) : Tile := if sec then { t with dslotSec := v } else { t with dslot := v }
def Tile.putSlot (t : Tile) (sec : Bool) (n : Nat) (b : Bool) : Tile := t.setSlots sec (setBits (t.slots sec) n n (b2n b))

namespace State

/-- The running continuation may name a unit in a command (R169). -/
def mayName (s : State) (u : Nat) : Bool :=
  match find? (s.tileAt s.tile).owner u with
  | some o => o.lnum == s.q.k.lnum && !o.releasing
  | none => false

/-- Its own unit, not being released. -/
def mayRelease (s : State) (u : Nat) : Bool :=
  match find? (s.tileAt s.tile).owner u with
  | some o => o.party == s.q.k.party && !o.releasing
  | none => false

/-- The acceptance tag of a slot (R173). -/
def accTagOf (s : State) (n : Nat) : Lane := look (s.tileAt s.tile).accTag n

/-- What every command captures. -/
def mEntry (s : State) (op : MOp) (w : BitVec 8) (e : BitVec 1) (z : BitVec 3) : MEntry :=
  let k := s.q.k
  { op := op, wait := w, set := if e = 1#1 then some z.toNat else none, pc := k.pc, party := k.party, slot := k.slot, lnum := k.lnum,
    sec := k.sec, desc := 0, scale := 0, stride := 0, orws := look k.bank 0x04, dkey := look k.bank 0x05,
    dctr := (look k.bank 0x06).toNat + (look k.bank 0x07).toNat * 2 ^ 64, tagA := 0, tagB := 0, hdl := none, exch := false,
    order := s.nextOrder, running := false, until_ := 0, flags := 0, shadow := [], shadowBad := [] }

/-- A command enters the buffer (R170, R173): its set slot is cleared. -/
def mPush (s : State) (e : MEntry) : State :=
  let t := s.tileAt s.tile
  let t := match e.set with
    | some n => t.putSlot e.sec n false
    | none => t
  let s := s.setTile s.tile t
  { s with q := { s.q with mq := s.q.mq ++ [e] }, nextOrder := s.nextOrder + 1 }

/-- Room in the sequencer's buffer (05 R62): commands dispatched have left it. -/
def mFull (s : State) : Bool := decide (8 ≤ (s.q.mq.filter (fun e => !e.running)).length)

end State

/-! ## Rows of fills and drains (R174, R177, R181) -/

/-- The window of an address: descriptor, scale placement, first address, length, and raw bits or lens bytes. -/
structure MWin where
  desc : Lane
  lscl : Word
  start : Nat
  len : Nat
  raw : Bool
  deriving DecidableEq, Repr

/-- `fill`: a raw fill takes FDESC and FSCL; a raw drain moves 32-bit elements. -/
def State.mWindow (s : State) (a : Word) (fill : Bool) : Option MWin :=
  let k := s.q.k
  match regionOf a.toNat with
  | .raw _ =>
    if fill then
      let d : Lane := (look k.bank 0x02).truncate 32
      if d = 0#32 then none else some ⟨d, look k.bank 0x03, 0, 0x18000, true⟩
    else some ⟨0x06000000#32, 0, 0, 0x18000, true⟩
  | .lens n _ =>
    let d := s.lensOf n
    if d = 0#32 then none else some ⟨d, s.lsclOf n, n * 0x100000, 4 * (786432 / dWidth d), false⟩
  | _ => none

/-- The address of row r. -/
def rowAddr (a : Word) (stride : Int) (r : Nat) : Word := a + BitVec.ofInt 64 (r * stride)
/-- Bytes of a row in the window's own units. -/
def MWin.rowLen (w : MWin) : Nat := if w.raw then 4 * dWidth w.desc else 128
/-- The raw bit offset of a row's first element. -/
def MWin.bitOf (w : MWin) (row : Word) : Nat := if w.raw then 8 * row.toNat else (row.toNat - w.start) / 4 * dWidth w.desc
/-- The address of element c of a row. -/
def MWin.elem (w : MWin) (row : Word) (c : Nat) : Word := row + BitVec.ofNat 64 (if w.raw then dWidth w.desc * c / 8 else 4 * c)
/-- Run starts of a row with block scales. -/
def runStarts (d : Lane) : List Nat := if dBlk d = 0 then [] else (List.range (32 / dRun d)).map (· * dRun d)

/-- Elements of a row whose scale bytes a command reads: the first of each run for a fill, every one for a drain through a lens
(R177, R181). -/
def MWin.scaled (w : MWin) (fill : Bool) : List Nat :=
  if fill then runStarts w.desc else if w.raw ∨ dBlk w.desc = 0 then [] else List.range 32

/-- Step 2 for one row: its first failing address, that of the element where its scale byte lies beyond tile SRAM. -/
def MWin.outside (w : MWin) (fill : Bool) (row : Word) : Option Word :=
  let x := row.toNat
  if x < w.start ∨ w.start + w.len ≤ x then some row
  else if w.start + w.len < x + w.rowLen then some (BitVec.ofNat 64 (w.start + w.len))
  else ((w.scaled fill).find? (fun c =>
    (scaleOff w.desc w.lscl (w.bitOf row + c * dWidth w.desc)).any (fun o => decide (tileSize ≤ o)))).map (w.elem row)

/-- Step 3 for one row. -/
def MWin.skewed (w : MWin) (row : Word) : Bool := w.bitOf row % 128 != 0 || (!w.raw && row.toNat % 4 != 0)

/-- The address of a row's first byte outside the launch's share, as R188 names it: through a lens that of the element which holds it. -/
def State.rowUnshared (s : State) (w : MWin) (row : Word) : Option Word :=
  (s.outsideShare s.q.k.lnum s.tile (w.bitOf row / 8) (4 * dWidth w.desc)).map (fun d =>
    row + BitVec.ofNat 64 (if w.raw then d else 4 * (8 * d / dWidth w.desc)))

/-- Steps 2 and 3 of R174 for 32 rows, and the tile SRAM share (19 R188): cause and address. -/
def State.rowFault (s : State) (a : Word) (stride : Int) (fill : Bool) : Except Trap MWin :=
  match s.mWindow a fill with
  | none => .error (.at 0x05 a)
  | some w =>
    let rows := (List.range 32).map (rowAddr a stride)
    match rows.findSome? (w.outside fill), rows.find? w.skewed, rows.findSome? (s.rowUnshared w) with
    | some x, _, _ => .error (.at 0x05 x)
    | none, some x, _ => .error (.at 0x04 x)
    | none, none, some x => .error (.at 0x0B x)
    | none, none, none => .ok w

/-- A stride register's value. -/
def strideOf (w : Word) : Int := (BitVec.ofNat 32 (bits w 31 0)).toInt

/-! ## Types (R180) -/

/-- The pair of tags is one that the engine implements. -/
def typesOk (a b : Lane) : Bool :=
  let x := dClass a
  x == dClass b && (x == 0 || x == 2 || x == 3 || (x == 1 && dBlk a == 0 && dBlk b == 0))

/-! ## Acceptance -/

def execMclm (u : BitVec 5) (s : State) : Res :=
  let t := s.tileAt s.tile
  if (find? t.owner u.toNat).isSome then trapR s { code := 0x10 }
  else doneR (s.setTile s.tile { t with owner := ins t.owner u.toNat { party := s.q.k.party, lnum := s.q.k.lnum, releasing := false } })

/-- An MREL is accepted: the unit's release is pending. -/
def State.acceptRel (s : State) (u : Nat) (e : MEntry) : State :=
  let s := s.mPush e
  let t := s.tileAt s.tile
  s.setTile s.tile { t with owner := match find? t.owner u with
    | some o => ins t.owner u { o with releasing := true }
    | none => t.owner }

def execMrel (w : BitVec 8) (e : BitVec 1) (z : BitVec 3) (u : BitVec 5) (s : State) : Res :=
  if s.mFull then heldR s
  else if !s.mayRelease u.toNat then trapR s { code := 0x10 }
  else doneR (s.acceptRel u.toNat (s.mEntry (.rel u.toNat) w e z))

def execMfil (w : BitVec 8) (e : BitVec 1) (z : BitVec 3) (n : BitVec 3) (b : BitVec 5) (s : State) : Res :=
  let stride := strideOf (look s.q.k.bank 0x00)
  if s.mFull || s.vectorStores then heldR s
  else if !s.mayName n.toNat then trapR s { code := 0x10 }
  else
    match s.rowFault (s.x b) stride true with
    | .error t => trapR s t
    | .ok win =>
      if 4 ≤ dClass win.desc then trapR s { code := 0x02 }
      else
        let t := s.tileAt s.tile
        let s := s.setTile s.tile { t with accTag := put t.accTag n.toNat win.desc }
        -- it observes what a load here would: the issuer's own stores that are still held (R185)
        let mine := s.ownStaged s.q.k.party
        let keys := (mine.flatMap (fun x => range x.key x.bytes.length)).dedup
        doneR (s.mPush { s.mEntry (.fil n.toNat (s.x b)) w e z with
          desc := win.desc, scale := win.lscl, stride := stride, shadow := keys.map (fun k => (k, s.viewByte k)),
          shadowBad := keys.filter (fun k => stagedBad mine k (s.isBad k 1)) })

/-- A handle as the running continuation's launch may use it: bound by it (27 R272, R273) and not held by a tree (29 R277). -/
def State.handleOf (s : State) (h : Nat) : Option Handle :=
  match find? (s.dieAt s.die).handles h with
  | some x => if x.lnum = s.q.k.lnum ∧ x.tree = none then some x else none
  | none => none

def execMfts (w : BitVec 8) (e : BitVec 1) (z : BitVec 3) (n : BitVec 3) (b : BitVec 5) (s : State) : Res :=
  let word := s.x b
  let h := fetchHandle word
  let zone := s.launch.zones.any (fun x => x.lv == .die && x.memory == 2 && decide (x.start ≤ h) && decide (h < x.start + x.size))
  if s.mFull then heldR s
  else if !s.mayName n.toNat then trapR s { code := 0x10 }
  else if zone then trapR s (.at 0x08 word)
  else
    match s.handleOf h with
    | none => trapR s { code := 0x15 }
    | some x =>
      if 4 ≤ dClass x.desc then trapR s { code := 0x02 }
      else
        let t := s.tileAt s.tile
        let s := s.setTile s.tile { t with accTag := put t.accTag n.toNat x.desc }
        doneR (s.mPush { s.mEntry (.fts n.toNat word) w e z with
          desc := x.desc, hdl := some x, exch := s.exchOpen s.q.k.lnum .die s.grp })

/-- The checks and acceptance of MMA, MMAT and MOPR; `bOk`: a further condition on slot B's tag. -/
def acceptMul (s : State) (op : MOp) (w : BitVec 8) (e : BitVec 1) (z : BitVec 3) (c : BitVec 2) (x y : BitVec 3)
    (bOk : Lane → Bool) : Res :=
  let a := s.accTagOf x.toNat
  let b := s.accTagOf y.toNat
  if s.mFull then heldR s
  else if !(s.mayName (8 + c.toNat) && s.mayName x.toNat && s.mayName y.toNat) then trapR s { code := 0x10 }
  else if a = 0#32 ∨ b = 0#32 then trapR s { code := 0x15 }
  else if !(typesOk a b && bOk b) then trapR s { code := 0x02 }
  else doneR (s.mPush { s.mEntry op w e z with tagA := a, tagB := b })

def execMma (w : BitVec 8) (e : BitVec 1) (z : BitVec 3) (c : BitVec 2) (x y : BitVec 3) (s : State) : Res :=
  acceptMul s (.mma c.toNat x.toNat y.toNat) w e z c x y (fun b => dBlk b == 0)
def execMmat (w : BitVec 8) (e : BitVec 1) (z : BitVec 3) (c : BitVec 2) (x y : BitVec 3) (s : State) : Res :=
  acceptMul s (.mmat c.toNat x.toNat y.toNat) w e z c x y (fun _ => true)
def execMopr (w : BitVec 8) (e : BitVec 1) (z : BitVec 3) (c : BitVec 2) (x y : BitVec 3) (s : State) : Res :=
  acceptMul s (.mopr c.toNat x.toNat y.toNat) w e z c x y (fun _ => true)

def execMza (w : BitVec 8) (e : BitVec 1) (z : BitVec 3) (c : BitVec 2) (s : State) : Res :=
  if s.mFull then heldR s
  else if !s.mayName (8 + c.toNat) then trapR s { code := 0x10 }
  else doneR (s.mPush (s.mEntry (.mza c.toNat) w e z))

def execMdrn (w : BitVec 8) (e : BitVec 1) (z : BitVec 3) (c : BitVec 2) (b : BitVec 5) (s : State) : Res :=
  let stride := strideOf (look s.q.k.bank 0x01)
  if s.mFull then heldR s
  else if !s.mayName (8 + c.toNat) then trapR s { code := 0x10 }
  else
    match s.rowFault (s.x b) stride false with
    | .error t => trapR s t
    | .ok win =>
      let ent := { s.mEntry (.drn c.toNat (s.x b)) w e z with desc := win.desc, scale := win.lscl, stride := stride }
      let next := (ent.dctr + 256) % 2 ^ 128
      let s := if dRnd win.desc = 1 then
          s.setK { s.q.k with bank := put (put s.q.k.bank 0x06 (BitVec.ofNat 64 next)) 0x07 (BitVec.ofNat 64 (next / 2 ^ 64)) }
        else s
      doneR (s.mPush ent)

/-- MWAIT (R184). -/
def execMwait (w : BitVec 8) (s : State) : Res :=
  if (s.tileAt s.tile).slots s.q.k.sec &&& w = w then doneR s else heldR s

/-! ## Engine registers (R182, R183) -/

/-- SLOTS as the running continuation reads it. -/
def State.slotsWord (s : State) : Nat :=
  let o := (s.tileAt s.tile).owner
  (o.map (fun p => 2 ^ p.1)).sum + ((o.filter (fun p => p.2.party == s.q.k.party)).map (fun p => 2 ^ (16 + p.1))).sum

/-- The value of a listed register. -/
def State.engineReg (s : State) (r : Nat) : Option Word :=
  let t := s.tileAt s.tile
  if r < 8 ∨ r = 0x12 then some (look s.q.k.bank r)
  else if r = 0x10 then some ((t.slots s.q.k.sec).zeroExtend 64)
  else if r = 0x11 then some (BitVec.ofNat 64 s.slotsWord)
  else if 0x14 ≤ r ∧ r ≤ 0x17 then some ((look t.aflg (r - 0x14)).zeroExtend 64)
  else none

/-- A value that a register accepts: its reserved bits zero, and FDESC possible. -/
def engineValue (r : Nat) (v : Word) : Bool :=
  match r with
  | 0 => bits v 63 32 == 0
  | 1 => bits v 63 32 == 0
  | 2 => bits v 63 32 == 0 && !dImpossible (v.truncate 32)
  | 3 => bits v 63 49 == 0 && bits v 31 17 == 0
  | 4 => bits v 63 10 == 0
  | 0x10 => bits v 63 8 == 0
  | r => decide (r < 8)

/-- Write an engine register. -/
def State.setEngineReg (s : State) (r : Nat) (v : Word) : State :=
  if r = 0x10 then s.setTile s.tile ((s.tileAt s.tile).setSlots s.q.k.sec (v.truncate 8))
  else s.setK { s.q.k with bank := put s.q.k.bank r v }

/-- MSET, by its selector: write, read, read and clear. Its checks follow R174's order: window, alignment, engine; then those of a store,
the share and the frozen zone, whose place beside the engine check the spec does not give (log 185). -/
def mset (a b : BitVec 5) (s : State) : Res :=
  let sel := s.x a
  let v := s.x b
  let op := bits sel 9 8
  let r := bits sel 7 0
  let bad : Res := trapR s { code := 0x15 }
  if op = 0 then (if bits sel 63 10 = 0 ∧ engineValue r v then doneR (s.setEngineReg r v) else bad)
  else if op = 3 then bad
  else if tileSize ≤ v.toNat then trapR s (.at 0x05 v)
  else if v.toNat % 8 ≠ 0 then trapR s (.at 0x04 v)
  else
    match s.engineReg r with
    | none => bad
    | some w =>
      if bits sel 63 10 ≠ 0 ∨ (op = 2 ∧ r < 0x14) then bad
      else if (s.outsideShare s.q.k.lnum s.tile v.toNat 8).isSome then trapR s (.at 0x0B v)
      else if (s.frozenAt s.q.k.lnum s.grp 0 v.toNat 8).isSome then trapR s (.at 0x08 v)
      else if !s.q.mq.isEmpty || s.vectorStores then heldR s
      else
        let s := s.ownStore v.toNat (leBytes 8 w.toNat) v
        let t := s.tileAt s.tile
        doneR (if op = 2 then s.setTile s.tile { t with aflg := put t.aflg (r - 0x14) 0 } else s)

def execMsetWrite (a b : BitVec 5) (s : State) : Res := mset a b s
def execMsetRead (a b : BitVec 5) (s : State) : Res := mset a b s
def execMsetReadClear (a b : BitVec 5) (s : State) : Res := mset a b s

/-! ## Execution -/

/-- Element c of row r of a slot. -/
def Tile.codeOf (t : Tile) (n r c : Nat) : Nat := (look t.code (1024 * n + 32 * r + c)).toNat
/-- The scale byte of an element of a slot under its tag; 127 without block scales. -/
def Tile.scaleOf (t : Tile) (tag : Lane) (n r c : Nat) : Nat :=
  if dBlk tag = 0 then 127 else (look t.scale (64 * n + 2 * r + c / dRun tag)).toNat
/-- The decoded, scaled value of an element. -/
def Tile.valOf (t : Tile) (tag : Lane) (n r c : Nat) : FVal := (valCode tag (t.codeOf n r c)).scaled (t.scaleOf tag n r c)

/-- AFLG bits of a float result: NV 4, OF 2, UF 1, NX 0 (R179). -/
def aflgOf (f : BitVec 5) : BitVec 8 := f.zeroExtend 8

/-- The exact sum of C and products, in any order: NaN and its NV as R82. -/
def macSum (c : FVal) (ps : List (FVal × FVal)) : FVal := ps.foldl (fun acc p => (FVal.add false acc (FVal.mul p.1 p.2).1).1) c

/-- One element of a float product. -/
def macF (c : Lane) (ps : List (FVal × FVal)) : Lane × BitVec 8 :=
  let v := macSum (val32 c) ps
  let r := rne32 v
  (r.1, aflgOf r.2 ||| (if v = .nan then 0x10#8 else 0#8))

/-- One element of an integer product (R83). -/
def macI (c : Lane) (ps : List (Int × Int)) : Lane × BitVec 8 :=
  let v := ps.foldl (fun acc p => acc + p.1 * p.2) c.toInt
  (BitVec.ofInt 32 v, if v < -2147483648 ∨ 2147483647 < v then 0x20#8 else 0#8)

/-- Update every element of an accumulator: new value and flags of (i, j). -/
def Tile.updateAcc (t : Tile) (c : Nat) (f : Nat → Nat → Lane → Lane × BitVec 8) : Tile :=
  let rs := (List.range 1024).map (fun e => f (e / 32) (e % 32) (look t.acc (1024 * c + e)))
  { t with acc := ((List.range 1024).zip rs).foldl (fun m p => put m (1024 * c + p.1) p.2.1) t.acc,
           aflg := put t.aflg c (rs.foldl (fun x p => x ||| p.2) (look t.aflg c)) }

/-- MMA, MMAT: `bAt k j` gives slot B's row and element. -/
def Tile.multiply (t : Tile) (e : MEntry) (c a b : Nat) (bAt : Nat → Nat → Nat × Nat) : Tile :=
  if dClass e.tagA = 1 then
    t.updateAcc c (fun i j v => macI v ((List.range 32).map (fun k =>
      (intNarrow e.tagA (t.codeOf a i k), intNarrow e.tagB (t.codeOf b (bAt k j).1 (bAt k j).2)))))
  else
    t.updateAcc c (fun i j v => macF v ((List.range 32).map (fun k =>
      (t.valOf e.tagA a i k, t.valOf e.tagB b (bAt k j).1 (bAt k j).2))))

/-- MOPR: one row of each slot. -/
def Tile.outer (t : Tile) (e : MEntry) (c a b : Nat) : Tile :=
  let ar := bits e.orws 4 0
  let br := bits e.orws 9 5
  if dClass e.tagA = 1 then
    t.updateAcc c (fun i j v => macI v [(intNarrow e.tagA (t.codeOf a ar i), intNarrow e.tagB (t.codeOf b br j))])
  else t.updateAcc c (fun i j v => macF v [(t.valOf e.tagA a ar i, t.valOf e.tagB b br j)])

/-- Clk that a command occupies its unit for (R173); the wider container of its slots. -/
def MEntry.clocks (e : MEntry) : Nat :=
  let w := max (dWidth e.tagA) (dWidth e.tagB)
  match e.op with
  | .mma _ _ _ => if w = 16 then 128 else if w = 8 then 32 else 16
  | .mmat _ _ _ => if w = 16 then 128 else if w = 8 then 32 else 16
  | .mopr _ _ _ => if w = 16 then 4 else 1
  | .fil _ _ => if dWidth e.desc = 16 then 64 else if dWidth e.desc = 8 then 32 else 16
  | .fts _ _ => if dWidth e.desc = 16 then 64 else if dWidth e.desc = 8 then 32 else 16
  | .drn _ _ => 128
  | _ => 1

/-- The raw rows of a fill or drain, as (row, raw byte offset). -/
def MEntry.win (e : MEntry) (a : Word) : MWin :=
  match regionOf a.toNat with
  | .lens n _ => ⟨e.desc, e.scale, n * 0x100000, 4 * (786432 / dWidth e.desc), false⟩
  | _ => ⟨e.desc, e.scale, 0, 0x18000, true⟩
def MEntry.rowsOf (e : MEntry) (a : Word) : List (Word × Nat) :=
  (List.range 32).map (fun r => let row := rowAddr a e.stride r; (row, (e.win a).bitOf row / 8))

/-- A byte of the tile as a fill sees it: without its sequencer's later stores (R185). -/
def State.fillByte (s : State) (e : MEntry) (key : Nat) : Byte :=
  match e.shadow.find? (fun c => c.1 == key) with
  | some c => c.2
  | none => look s.mem key

/-- Codes of a row of 32 elements of width w from its bytes. -/
def rowCodes (w : Nat) (bs : List Byte) : List Nat := (List.range 32).map (fun c => leNat bs / 2 ^ (w * c) % 2 ^ w)
/-- The bytes of a row of codes. -/
def codeBytes (w : Nat) (cs : List Nat) : List Byte :=
  leBytes (4 * w) (((List.range 32).zip cs).map (fun p => p.2 % 2 ^ w * 2 ^ (w * p.1))).sum

/-- A slot written whole: rows of codes, with block scales those of their runs (scale byte g of row r under key 64 * slot + 2 * r + g), and
its tag (R177). -/
def Tile.fillSlot (t : Tile) (n : Nat) (tag : Lane) (codes scales : List (List Nat)) : Tile :=
  let per := if dBlk tag = 0 then 0 else 32 / dRun tag
  { t with
    code := ((List.range 32).zip codes).foldl (fun m p =>
      ((List.range 32).zip p.2).foldl (fun m q => put m (1024 * n + 32 * p.1 + q.1) (BitVec.ofNat 16 q.2)) m) t.code,
    scale := ((List.range 32).zip scales).foldl (fun m p =>
      ((List.range per).zip p.2).foldl (fun m q => put m (64 * n + 2 * p.1 + q.1) (BitVec.ofNat 8 q.2)) m) t.scale,
    tag := put t.tag n tag, badUnit := t.badUnit.filter (fun x => !(x / 32 == n || (per != 0 && x / 32 == 8 + n))) }

/-- A partition that serves accesses: online; from the acceptance of DRAIN none starts (41 R371). -/
def Die.serves (d : Die) (part : Nat) : Bool :=
  match find? d.parts part with
  | none => true
  | some p => p == .online

/-- What an executed command leaves: the state, and flags for FFLAGS; or its cause and BADADDR (R175). -/
abbrev MRes := Except (Nat × Word) (State × BitVec 5)

/-- Raw offsets of the scale bytes that a row of a fill reads (R177). -/
def MEntry.scaleBytes (e : MEntry) (win : MWin) (row : Word) : List (Option Nat) :=
  (runStarts e.desc).map (fun c => scaleOff e.desc e.scale (win.bitOf row + c * dWidth e.desc))

def State.runFill (s : State) (tile : Nat) (e : MEntry) (n : Nat) (a : Word) : MRes :=
  let w := dWidth e.desc
  let win := e.win a
  let rows := e.rowsOf a
  let badByte (o : Nat) : Bool :=
    if e.shadow.any (fun c => c.1 == tileKey tile o) then e.shadowBad.contains (tileKey tile o) else s.isBad (tileKey tile o) 1
  let scalesOf (row : Word) : List (Option Nat) := e.scaleBytes win row
  let bad := rows.findSome? (fun p =>
    ((range p.2 (4 * w)) ++ (scalesOf p.1).filterMap id).find? badByte)
  match bad with
  | some o => .error (0x14, BitVec.ofNat 64 o)
  | none =>
    let codes := rows.map (fun p => rowCodes w ((range p.2 (4 * w)).map (fun o => s.fillByte e (tileKey tile o))))
    let scales := rows.map (fun p => (scalesOf p.1).map (fun o => match o with
      | none => 127
      | some o => (s.fillByte e (tileKey tile o)).toNat))
    .ok (s.setTile tile ((s.tileAt tile).fillSlot n e.desc codes scales), 0)

/-- The element of a bound handle: its container, and the scale byte of its run. -/
def State.tensorCode (s : State) (die : Nat) (h : Handle) (row col : Nat) : Nat :=
  let w := dWidth h.desc
  let k := h.key die (h.blockOf row col)
  let b := Handle.elemIn row col * w
  s.peekNat (k + b / 8) ((w + 7) / 8) / 2 ^ (b % 8) % 2 ^ w
def Handle.scaleKey (h : Handle) (die row col : Nat) : Nat :=
  h.key die (h.blockOf row col) + 128 * dWidth h.desc + Handle.elemIn row col / dRun h.desc

/-- A run of a slot row lies wholly inside the extent: else its scale is 2^0 (R178). -/
def Handle.runInside (h : Handle) (row col : Nat) : Bool := (List.range (dRun h.desc)).all (fun j => h.inExtent row (col + j))

/-- A fetch's effect. A run of a slot's row that straddles two runs of the tensor takes the scale byte of its first element, which the spec
leaves open (log 186). -/
def State.runFetch (s : State) (tile : Nat) (e : MEntry) (n : Nat) (word : Word) : MRes :=
  match e.hdl with
  | none => .error (0x0F, word)
  | some h =>
    let die := dieOf tile
    let r0 := fetchRow word
    let c0 := fetchCol word
    let w := dWidth h.desc
    let at_ : List (Nat × Nat) := (List.range 1024).map (fun i => (r0 + i / 32, c0 + i % 32))
    let inside := at_.filter (fun p => h.inExtent p.1 p.2)
    let runs := ((List.range 32).flatMap (fun r => (runStarts h.desc).map (fun c => (r0 + r, c0 + c)))).filter (fun p => h.runInside p.1 p.2)
    if inside.any (fun p => !(s.dieAt die).serves (h.part (h.blockOf p.1 p.2))) then .error (0x0F, word)
    else if inside.any (fun p =>
        s.isBad (h.key die (h.blockOf p.1 p.2) + Handle.elemIn p.1 p.2 * w / 8) ((w + 7) / 8))
      || runs.any (fun p => s.isBad (h.scaleKey die p.1 p.2) 1) then .error (0x14, word)
    else
      let code (r c : Nat) : Nat := if h.inExtent r c then s.tensorCode die h r c else 0
      let scale (r c : Nat) : Nat := if h.runInside r c then s.peekNat (h.scaleKey die r c) 1 else 127
      let codes := (List.range 32).map (fun r => (List.range 32).map (fun c => code (r0 + r) (c0 + c)))
      let scales := (List.range 32).map (fun r => (runStarts h.desc).map (fun c => scale (r0 + r) (c0 + c)))
      .ok (s.setTile tile ((s.tileAt tile).fillSlot n h.desc codes scales), 0)

/-- A queued command keeps older bytes for its sequencer's later stores alone: a drain's writes reach it (R185). -/
def MEntry.drained (key : Nat) (bs : List Byte) (e : MEntry) : MEntry :=
  let hit (k : Nat) : Bool := decide (key ≤ k) && decide (k < key + bs.length)
  if e.running then e
  else { e with shadow := e.shadow.map (fun c => if hit c.1 then (c.1, bs.getD (c.1 - key) 0) else c),
                shadowBad := e.shadowBad.filter (fun k => !hit k) }
/-- A drain writes a row of a tile. -/
def State.drainRow (s : State) (tile : Nat) (e : MEntry) (key : Nat) (bs : List Byte) (a : Word) : State :=
  (s.mapSeqs (fun n q => if tileOf n = tile then { q with mq := q.mq.map (MEntry.drained key bs) } else q)).earlyWrite
    e.lnum e.party (grpOf tile) key bs 0 a

def State.runDrain (s : State) (tile : Nat) (e : MEntry) (c : Nat) (a : Word) : MRes :=
  let w := dWidth e.desc
  let win := e.win a
  let rows := (List.range 32).zip (e.rowsOf a)
  let scaleAt (row : Word) (j : Nat) : Option Nat := if win.raw then none else scaleOff e.desc e.scale (win.bitOf row + j * w)
  let bad := rows.findSome? (fun p => ((List.range 32).filterMap (scaleAt p.2.1)).find? (fun o => s.isBad (tileKey tile o) 1))
  if (s.tileAt tile).badUnit.contains (512 + c) then .error (0x14, 0)
  else
    match bad with
    | some o => .error (0x14, BitVec.ofNat 64 o)
    | none =>
      let enc (i j : Nat) (row : Word) : Fl Nat :=
        let v := look (s.tileAt tile).acc (1024 * c + 32 * i + j)
        if win.raw then (v.toNat, 0)
        else
          let x := match scaleAt row j with
            | none => 127
            | some o => (look s.mem (tileKey tile o)).toNat
          let q := if dRnd e.desc = 1 then some (philoxWord e.dkey (e.dctr + (32 * i + j) / 4) ((32 * i + j) % 4) / 2 ^ 16) else none
          encode32 e.desc x q v
      let res := rows.map (fun p => (p.2, (List.range 32).map (fun j => enc p.1 j p.2.1)))
      let s := res.foldl (fun s p =>
        s.drainRow tile e (tileKey tile p.1.2) (codeBytes w (p.2.map (·.1))) p.1.1) s
      .ok (s, (res.flatMap (fun p => p.2.map (·.2))).foldl (· ||| ·) 0)

/-- A row of slot n, read under a tag, is in error: its codes, or its scale bytes, which a block-scaled tag alone reads (R175). -/
def Tile.badRow (t : Tile) (n : Nat) (tag : Lane) (r : Nat) : Bool :=
  t.badUnit.contains (32 * n + r) || (dBlk tag != 0 && t.badUnit.contains (256 + 32 * n + r))
/-- What an array command reads is in error: its accumulator, or a row of its slots: of MOPR's, the one that it names (R175, R179). -/
def Tile.badInput (t : Tile) (e : MEntry) (c a b : Nat) : Bool :=
  let rows (f : Nat) : List Nat := match e.op with
    | .mopr _ _ _ => [f]
    | _ => List.range 32
  t.badUnit.contains (512 + c) || (rows (bits e.orws 4 0)).any (t.badRow a e.tagA) || (rows (bits e.orws 9 5)).any (t.badRow b e.tagB)

/-- The effect of a dispatched command. -/
def State.mRun (s : State) (tile : Nat) (e : MEntry) : MRes :=
  let t := s.tileAt tile
  let bad := t.badInput e
  match e.op with
  | .rel u => .ok (s.setTile tile (t.scrub u), 0)
  | .fil n a => s.runFill tile e n a
  | .fts n word => s.runFetch tile e n word
  | .mma c a b => if bad c a b then .error (0x14, 0) else .ok (s.setTile tile (t.multiply e c a b (fun k j => (k, j))), 0)
  | .mmat c a b => if bad c a b then .error (0x14, 0) else .ok (s.setTile tile (t.multiply e c a b (fun k j => (j, k))), 0)
  | .mopr c a b => if bad c a b then .error (0x14, 0) else .ok (s.setTile tile (t.outer e c a b), 0)
  | .mza c =>
    .ok (s.setTile tile { t with acc := t.acc.filter (fun p => decide (p.1 / 1024 ≠ c)), aflg := put t.aflg c 0,
                                 badUnit := t.badUnit.filter (· ≠ 512 + c) }, 0)
  | .drn c a => s.runDrain tile e c a

/-! ## Dispatch and retirement (R173, 05 R62) -/

/-- A fill, fetch or drain that R32, R178 or 21 R205 holds back. -/
def State.mBlocked (s : State) (tile : Nat) (e : MEntry) : Bool :=
  let g := grpOf tile
  let n := 4 * dWidth e.desc
  let frozen (o n : Nat) : Bool := (s.frozenAt e.lnum g 0 o n).isSome
  match e.op with
  | .fil _ a => (e.rowsOf a).any (fun p => frozen p.2 n || ((e.scaleBytes (e.win a) p.1).filterMap id).any (fun o => frozen o 1))
  | .drn _ a => (e.rowsOf a).any (fun p => frozen p.2 n || s.sourceHeld e.lnum (tileKey tile p.2) n)
  | .fts _ word => !s.exchOpen e.lnum .die g || (s.frozenAt e.lnum g 2 (fetchHandle word) 1).isSome
  | _ => false

/-- A command's slot, as a mask. -/
def MEntry.setMask (e : MEntry) : BitVec 8 := (e.set.map (fun n => (1#8 <<< n))).getD 0
/-- The commands of a buffer, from its head on, that nothing but other commands holds back, given the slots that those will set. -/
def State.mForward (s : State) (tile : Nat) (sec : Bool) (will : BitVec 8) : List MEntry → List MEntry
  | [] => []
  | e :: r =>
    let have_ := (s.tileAt tile).slots e.sec ||| (if e.sec = sec then will else 0)
    if e.running ∨ (have_ &&& e.wait = e.wait ∧ !s.mBlocked tile e) then e :: s.mForward tile sec (will ||| e.setMask) r else []
/-- The slots of a set that commands on a tile will set by themselves. -/
def State.willSet (s : State) (tile : Nat) (sec : Bool) : Nat → BitVec 8
  | 0 => 0
  | n + 1 =>
    let will := s.willSet tile sec n
    ((List.range 3).flatMap (fun r => (s.mForward tile sec will (s.seqAt (3 * tile + r)).mq).filter (fun e => e.sec == sec))).foldl
      (fun m e => m ||| e.setMask) will
/-- A drain of the running continuation has not retired, and no barrier, slot or zone holds it back: it is visible no later than a plain store
in its place (21 R202, log 196). -/
def State.drainsOpen (s : State) : Bool :=
  let drain (op : MOp) : Bool := match op with
    | .drn _ _ => true
    | _ => false
  s.everySeq.any (fun p => p.2.mq.any (fun e => e.party == s.q.k.party && drain e.op)
    && (s.mForward (tileOf p.1) s.q.k.sec (s.willSet (tileOf p.1) s.q.k.sec 8) p.2.mq).any (fun e => e.party == s.q.k.party && drain e.op))

/-- The next command of a sequencer that is not dispatched, when it may be. -/
def State.mHead (s : State) (tile role : Nat) : Option MEntry :=
  let t := s.tileAt tile
  match (s.seqAt (3 * tile + role)).mq.find? (fun e => !e.running) with
  | none => none
  | some e =>
    let busy := (find? t.busy e.op.station).any (fun u => decide (s.clk < u))
    let late := match e.op with
      | .rel u => (List.range 3).any (fun r => (s.seqAt (3 * tile + r)).mq.any (fun x => x.running && x.op.units.contains u && decide (s.clk < x.until_)))
      | _ => false
    if t.slots e.sec &&& e.wait = e.wait ∧ !busy ∧ !late ∧ !s.mBlocked tile e then some e else none

/-- The command that the engine starts: the one accepted earliest. -/
def State.mPick (s : State) (tile : Nat) : Option (Nat × MEntry) :=
  ((List.range 3).filterMap (fun r => (s.mHead tile r).map (fun e => (r, e)))).foldl (fun best p =>
    match best with
    | none => some p
    | some b => if p.2.order < b.2.order then some p else some b) none

/-- A command that fails, and its sequencer's younger ones, are discarded (R175). -/
def State.mDiscard (s : State) (tile role : Nat) (e : MEntry) (code : Nat) (addr : Word) : State :=
  let sq := 3 * tile + role
  let q := s.seqAt sq
  let gone := q.mq.filter (fun x => !x.running)
  let s := s.setSeq sq { q with mq := q.mq.filter (·.running) }
  let t := s.tileAt tile
  let owner := gone.foldl (fun o x => match x.op with
    | .rel u => (match find? o u with
      | some w => ins o u { w with releasing := false }
      | none => o)
    | _ => o) t.owner
  (s.setTile tile { t with owner := owner }).asyncError (grpOf tile) e.party code addr (some e.pc)

/-- MATRIX_DISPATCH. -/
def execMatrixDispatch (tile : BitVec 14) (s : State) : Res :=
  let t := tile.toNat
  match s.mPick t with
  | none => .fault .notEnabled
  | some (r, e) =>
    match s.mRun t e with
    | .error (c, a) => .next (s.mDiscard t r e c a)
    | .ok (s, fl) =>
      let sq := 3 * t + r
      let q := s.seqAt sq
      let done := s.clk + e.clocks
      let s := s.setSeq sq { q with mq := q.mq.map (fun x =>
        if x.order = e.order then { x with running := true, until_ := done, flags := fl, shadow := [], shadowBad := [] } else x) }
      let x := s.tileAt t
      .next (s.setTile t { x with busy := ins x.busy e.op.station done })

/-- MATRIX_RETIRE: in program order, setting the command's slot; a drain's flags reach its issuer (R170, R181). -/
def execMatrixRetire (sq : BitVec 16) (s : State) : Res :=
  let n := sq.toNat
  let q := s.seqAt n
  match q.mq with
  | e :: rest =>
    if e.running ∧ e.until_ ≤ s.clk then
      let s := s.setSeq n { q with mq := rest }
      let t := s.tileAt (tileOf n)
      let s := match e.set with
        | some d => s.setTile (tileOf n) (t.putSlot e.sec d true)
        | none => s
      .next (if e.flags = 0#5 then s else s.partyFlags (grpOf (tileOf n)) e.party e.flags)
    else .fault .notEnabled
  | [] => .fault .notEnabled

/-- At DONE: one implicit MREL for each unit still held, slots first (R169); those of a unit on another tile of the group enter that tile's
sequencer of the same role (log 190). -/
def State.implicitRels (s : State) : State :=
  let home := s.cur
  (range (s.grp * 16) 16).foldl (fun s t =>
    (((s.tileAt t).owner.filter (fun p => p.2.party == s.q.k.party && !p.2.releasing)).map (·.1)).foldl (fun s u =>
      let e := s.mEntry (.rel u) 0 0 0
      if t = tileOf home then s.acceptRel u e
      else
        let sq := 3 * t + roleOf home
        let q := s.seqAt sq
        let x := s.tileAt t
        ({ s with nextOrder := s.nextOrder + 1 }.setSeq sq { q with mq := q.mq ++ [e] }).setTile t
          { x with owner := ins x.owner u { party := s.q.k.party, lnum := s.q.k.lnum, releasing := true } }) s) s

end Sys2Proof.Machine
end

