-- ==== Sys2Proof/Machine/Sync.lean ====
section
/-! DEFINITION. Synchronisation instructions (23 R224-R235): messages, counters, tickets, channels, barriers, continuations. -/

namespace Sys2Proof.Machine

/-! ## Accesses held at a station (19 R198, 35 R335) -/

namespace State

/-- Nothing that a message's sender did before it is still to be performed (21 R207, R209). -/
def goesOut (s : State) (m : Message) : Bool :=
  !(s.staged.any (fun e => earlyWaits m.lnum m.sender e && !stationKeeps e)
    || s.msgs.any (fun o => o.sender == m.sender && o.lnum == m.lnum)
    || s.queued.any (fun o => o.sender == m.sender && o.lnum == m.lnum && decide (o.id < m.id)))

/-- A message leaves, or waits for what its sender did before it. -/
def post (s : State) (m : Message) : State :=
  if s.goesOut m then { s with msgs := s.msgs ++ [m] } else { s with queued := s.queued ++ [m] }

/-- Messages leave that need wait no longer, of those that are `ok`. -/
def promote (s : State) (ok : Message → Bool) : State :=
  s.queued.foldl (fun s m =>
    if ok m ∧ s.goesOut m then { s with queued := s.queued.filter (fun o => o.id ≠ m.id), msgs := s.msgs ++ [m] } else s) s

/-- Now-serving of a dispenser of a group goes up (23 R229). -/
def serveNext (s : State) (g dispenser : Nat) : State :=
  let gr := s.groupAt g
  s.setGroup g { gr with tick := put gr.tick (dispenser + 1) (look gr.tick (dispenser + 1) + 1) }

/-- A channel of a tile, by its number with the set's offset. -/
def chanAt (s : State) (tile c : Nat) : Chan := (find? (s.tileAt tile).chan c).getD ⟨0, 0, 0, 0, 0, 0, 0⟩
def setChanAt (s : State) (tile c : Nat) (x : Chan) : State :=
  (s.setTile tile { s.tileAt tile with chan := ins (s.tileAt tile).chan c x }).wakeTile tile

/-- n slots of a channel are filled, or freed (23 R230). -/
def moveSlots (s : State) (tile c n : Nat) (fills : Bool) : State :=
  let x := s.chanAt tile c
  s.setChanAt tile c (if fills then { x with filled := x.filled + n, free := x.free - n, pptr := (x.pptr + n) % x.count }
    else { x with filled := x.filled - n, free := x.free + n, cptr := (x.cptr + n) % x.count })

/-- The level whose compute phase a held store waits for when it is replayed: an exchange's that reads its bytes, or that of an earlier write
of its own (21 R205, R208). -/
def heldLevel (s : State) (h : HeldAcc) (t : Target) : Option Level :=
  match t.path with
  | .now => s.waitLevel s.q.k.lnum s.q.k.party t.key h.bytes.length (fun x => decide (x.seqNo < h.no))
  | _ => none

/-- A store that was staged last takes its place among its party's others (37 R348). -/
def seatStaged (e : Staged) : List Staged → List Staged
  | [] => [e]
  | x :: r => if x.party = e.party ∧ e.seqNo < x.seqNo then e :: x :: r else x :: seatStaged e r
def seatLast (s : State) (no : Nat) : State :=
  match s.staged.getLast? with
  | some e => if e.party = s.q.k.party ∧ e.seqNo = no then { s with staged := seatStaged e s.staged.dropLast } else s
  | none => s

/-- A held store is performed at its target, staged or waits, with its own place in program order (37 R348). -/
def performHeld (s : State) (h : HeldAcc) (t : Target) (signal : Bool) : State :=
  let n := h.bytes.length
  let no := s.q.k.storeNo
  let s := { s with staged := s.staged.filter (fun e => !(stationKeeps e && e.party == s.q.k.party && e.seqNo == h.no)) }
  let s := s.setK { s.q.k with storeNo := h.no }
  let v := leNat (s.bytesOver h.nib t.key h.bytes)
  let s := match s.heldLevel h t with
    | some lv => s.waitAt t lv h.nib h.bytes
    | none => if signal then s.signalAt t n v else s.storeAt t n v
  (s.seatLast h.no).setK { s.q.k with storeNo := no }

/-- One held access is replayed, or stays held with every later one: behind a new fault, or, where it releases, while an earlier access of its
party, or its own write, is still to be performed (19 R198, 21 R205, R207). -/
def replayOne (s : State) (h : HeldAcc) : State :=
  let store (signal : Bool) (release : Bool) : State :=
    match (match h.at_ with
      | some t => Except.ok (t, s)
      | none => s.locate (if signal then .sigSt else .st) h.addr h.bytes.length) with
    | .error f => s.keepHeld h (some f)
    | .ok (t, s') => if release && (s.heldLevel h t).isSome then s.keepHeld h none else s'.performHeld h t signal
  let late := s.underWay s.q.k.lnum s.q.k.party
  if s.replayDue then s.keepHeld h none
  else match h.kind with
    | .store => store false false
    | .signal o => if o != 0#2 && late then s.keepHeld h none else store true (o != 0#2)
    | .message m => s.post m
    | .ticket g d => if late then s.keepHeld h none else s.serveNext g d
    | .slots tile c n fills => if late then s.keepHeld h none else s.moveSlots tile c n fills

/-- Replay what a station holds for the running continuation, in its order; messages leave that waited for it, and when nothing that it did is
still to be performed, the copies that it has posted meanwhile may start (21 R210). -/
def replayHeld (s : State) : State :=
  let held := s.q.k.heldAcc
  let s := held.foldl replayOne (s.setK { s.q.k with heldAcc := [], handled := 0, fault := none })
  let s := if held.isEmpty then s else s.promote (fun _ => true)
  if s.replayDue ∨ s.underWay s.q.k.lnum s.q.k.party then s else s.freeCopies (fun c => c.party == s.q.k.party)

/-- The replay is not over, though no access has faulted again: a release waits, or copies that the continuation posted meanwhile (35 R335:
RFE waits until the held accesses are accepted). -/
def replayWaits (s : State) : Bool :=
  !s.faultHeld && (s.replayDue || (s.underWay s.q.k.lnum s.q.k.party && s.dies.any (fun d => d.2.copies.any (fun c => c.held && c.party == s.q.k.party))))

/-- A releasing operation that changes no memory: it joins the accesses that a station holds, or waits until everything before it has been
performed, and then acts (19 R198). -/
def release (s : State) (kind : HeldKind) (act : State → State) : Res :=
  if s.vectorStores then heldR s
  else if s.replayDue then doneR (s.holdRelease kind)
  else if s.stationHeld then heldR s
  else doneR (act s)

end State

/-! ## Messages and counters (R227, R228) -/

/-- Payload length of a destination word. -/
def msgLen (w : Word) : Nat := 8 * (bits w 33 31 + 1)

/-- The checks of MSGS in their order. -/
def msgFault (s : State) (src dst : Word) : Option Trap :=
  let n := msgLen dst
  let off := tileWordOff dst
  let l := s.q.k.lnum
  let t := tileWordTile dst
  if tileSize < src.toNat + n then some (.at 0x05 src)
  else if tileSize < off + n then some (.at 0x05 dst)
  else if src.toNat % 8 ≠ 0 then some (.at 0x04 src)
  else if off % 8 ≠ 0 then some (.at 0x04 dst)
  else if (s.outsideShare l s.tile src.toNat n).isSome then some (.at 0x0B src)
  -- of two that fail, the source's share comes first (log 200)
  else if bits dst 63 34 ≠ 0 ∨ dieCount s.form ≤ bits dst 30 28 ∨ (s.outsideShare l t off n).isSome then some (.at 0x0B dst)
  else if s.isBad (tileKey s.tile src.toNat) n then some (.at 0x14 src)
  else none

/-- MSGS: its payload is read at issue, the continuation's own earlier writes included, and leaves once they are performed (R209, R227). -/
def execMsgs (a b : BitVec 5) (n : BitVec 4) (s : State) : Res :=
  let src := s.x a
  let dst := s.x b
  match msgFault s src dst with
  | some t => trapR s t
  | none =>
    if s.vectorStores then heldR s
    else
      let l := s.q.k.lnum
      let m : Message := { id := s.nextMsg, lnum := l, sender := s.q.k.party, fromTile := s.tile, toTile := tileWordTile dst,
                           off := tileWordOff dst, mcn := n.toNat, sec := s.q.k.sec,
                           data := s.signalPeek (tileKey s.tile src.toNat) (msgLen dst) }
      let s := { s with nextMsg := s.nextMsg + 1, q := { s.q with sent := put s.q.sent l (look s.q.sent l + 1) } }
      doneR (if s.replayDue then s.holdRelease (.message m) else s.post m)

def execWaitc (a : BitVec 5) (n : BitVec 4) (s : State) : Res := waitFor s (waitDesc 1 n.toNat (bits (s.x a) 47 0)) id
def execCtradd (a : BitVec 5) (n : BitVec 4) (s : State) : Res :=
  doneR (s.addCounter s.homeTile s.q.k.sec n.toNat ((s.x a).truncate 48))
/-- MCn of the running continuation's set. -/
def State.counter (s : State) (n : Nat) : Word := (look s.home.mc (n + s.setOff 16)).zeroExtend 64
def execCtrrd (d : BitVec 5) (n : BitVec 4) (s : State) : Res := writeR s d (s.counter n.toNat)

/-! ## Tickets (R229) -/

/-- The store key of a dispenser's next ticket; now-serving is one above. -/
def State.dispenser (s : State) (a : BitVec 5) : Nat := 2 * bits (s.x a) 5 0 + s.setOff 128

def execTkget (d a : BitVec 5) (s : State) : Res :=
  let g := s.groupAt s.grp
  let i := s.dispenser a
  let v := look g.tick i
  writeR (s.setGroup s.grp { g with tick := put g.tick i (v + 1) }) d (v.zeroExtend 64)
def execTkwait (a b : BitVec 5) (s : State) : Res := waitFor s (waitDesc 2 (bits (s.x a) 5 0) (bits (s.x b) 47 0)) id
def execTknext (a : BitVec 5) (s : State) : Res :=
  s.release (.ticket s.grp (s.dispenser a)) (·.serveNext s.grp (s.dispenser a))

/-! ## Channels (R230, R231) -/

namespace State
/-- A channel of the running continuation's set on its home tile. -/
def chan (s : State) (c : BitVec 3) : Chan := s.chanAt s.homeTile (c.toNat + s.setOff 8)
def setChan (s : State) (c : BitVec 3) (x : Chan) : State := s.setChanAt s.homeTile (c.toNat + s.setOff 8) x
/-- Slots that the running continuation's own held operations will fill, or free, first (19 R198). -/
def slotsHeld (s : State) (c : BitVec 3) (fills : Bool) : Nat :=
  (s.q.k.heldAcc.map (fun h => match h.kind with
    | .slots tile i n f => if tile = s.homeTile ∧ i = c.toNat + s.setOff 8 ∧ f = fills then n else 0
    | _ => 0)).sum
end State

/-- CHWF and CHWE by their KIND. -/
def chanWait (kind : Nat) (a : BitVec 5) (c : BitVec 3) (s : State) : Res :=
  let n := (s.x a).toNat
  if n = 0 then doneR s
  else if (s.chan c).count < n then trapR s { code := 0x11 }
  else waitFor s (waitDesc kind c.toNat n) id

def execChwf (a : BitVec 5) (c : BitVec 3) (s : State) : Res := chanWait 5 a c s
def execChwe (a : BitVec 5) (c : BitVec 3) (s : State) : Res := chanWait 6 a c s

/-- CHAP and CHAC: n slots move from one side to the other. -/
def chanMove (fills : Bool) (a : BitVec 5) (c : BitVec 3) (s : State) : Res :=
  let n := (s.x a).toNat
  let x := s.chan c
  let i := c.toNat + s.setOff 8
  if n = 0 then doneR s
  else if (if fills then x.free else x.filled) < n + s.slotsHeld c fills then trapR s { code := 0x11 }
  else s.release (.slots s.homeTile i n fills) (·.moveSlots s.homeTile i n fills)

def execChap (a : BitVec 5) (c : BitVec 3) (s : State) : Res := chanMove true a c s
def execChac (a : BitVec 5) (c : BitVec 3) (s : State) : Res := chanMove false a c s

/-- The state word of CHRD. -/
def Chan.word (x : Chan) : Word := BitVec.ofNat 64 (x.cptr * 2 ^ 24 + x.pptr * 2 ^ 16 + x.free * 2 ^ 8 + x.filled)
def execChrd (d : BitVec 5) (c : BitVec 3) (s : State) : Res := writeR s d (s.chan c).word

def execChset (a b : BitVec 5) (c : BitVec 3) (s : State) : Res :=
  let base := s.x a
  let geo := s.x b
  let cnt := bits geo 22 16
  let size := bits geo 12 0
  if bits geo 63 23 ≠ 0 ∨ bits geo 15 13 ≠ 0 ∨ cnt = 0 ∨ 64 < cnt ∨ size = 0 ∨ 4096 < size ∨ size % 32 ≠ 0
      ∨ bits base 63 17 ≠ 0 ∨ base.toNat % 32 ≠ 0 then trapR s (.at 0x15 base)
  else if tileSize < base.toNat + cnt * size then trapR s (.at 0x05 base)
  else if (s.outsideShare s.q.k.lnum s.homeTile base.toNat (cnt * size)).isSome then trapR s (.at 0x0B base)
  else doneR (s.setChan c { base := base.toNat, size := size, count := cnt, filled := 0, free := cnt, pptr := 0, cptr := 0 })

/-! ## Barriers and exchange end (R232, R233, 40 R361) -/

/-- The level that a level field names for the running continuation (03 R27). -/
def State.lvOf (s : State) (l : BitVec 2) : Level := s.effLevel s.q.k.lnum (fieldLevel l)

/-- The levels at which a BARA waits for an earlier superstep of its own: those inside, and its own (03 R30, R40, R41). -/
def State.baraWaits (s : State) (lo lv : Level) : Bool := (levelsFrom lo lv).any s.mustWait

/-- The arrival that BARA sends: at each inner level from `lo` with the identity and the same code, then at its own (03 R30). -/
def State.sendArrival (s : State) (lo lv : Level) (first : List (Level × Word)) (value : Word) (code : Nat) : State :=
  let at_ (x : Level) : Level × Word := (x, (s.barOf s.q.k.lnum x s.grp).count)
  (levelsFrom lo lv).foldl (fun s x =>
    s.arriveAt x (if x = lv then value else barIdentity (s.launch.opOf x)) code
      (first ++ ((levelsFrom lo lv).filter (fun y => decide (y.num < x.num))).map at_)) s

/-- BARA of a continuation for which an escalation toward C answers (03 R38 step 3, 40 R361): inside C it only discards; at C or
outward the supersteps that the escalated units' releases opened close, C absorbs it, and outward it is the member's arrival. -/
def State.sendEscaped (s : State) (c lv : Level) (ref : Word) (value : Word) (code : Nat) : State :=
  let s := ((([Level.group, .die, .package].foldl State.closeEscaped s).dropOwn).unowe).absorbAt c ref
  if lv.num ≤ c.num then s else s.sendArrival (Level.of (c.num + 1)) lv [(c, ref)] value code

def execBara (a b : BitVec 5) (l : BitVec 2) (s : State) : Res :=
  let lv := s.lvOf l
  let n := s.q.k.lnum
  let code := min (bits (s.x b) 7 0) 0xEF
  if s.vectorStores || s.stationHeld || s.drainsOpen then heldR s
  else
    if s.insideEscaped lv then doneR s.dropOwn
    else match s.owes with
    | some (c, ref) =>
      if s.copiesBefore n s.homeTile s.q.k.role.toNat lv s.grp || (decide (c.num < lv.num) && s.baraWaits (Level.of (c.num + 1)) lv)
      then heldR s
      else doneR (s.sendEscaped c lv ref (s.x a) code)
    | none =>
      if s.copiesBefore n s.homeTile s.q.k.role.toNat lv s.grp || s.baraWaits .group lv then heldR s
      else doneR (s.sendArrival .group lv [] (s.x a) code)

/-- The running continuation's arrival stands at a level, or its member's, which the member's other continuations have completed
(03 R41, 23 R232). -/
def State.arrivedAt (s : State) (lv : Level) : Bool :=
  (s.barOf s.q.k.lnum lv s.grp).arrs.any (fun x => !x.ended && (x.party == s.q.k.party
    || (x.member == s.ownMember && s.memberArrived s.q.k.lnum lv s.grp s.ownMember)))

/-- What BARW loads when it completes. -/
def State.observe (s : State) (lv : Level) : State := s.setK (s.observeRelease s.q.k lv s.grp)

/-- The superstep whose release BARW awaits, plus one (R225): its own arrival's, or that of the escalation that answers for it. -/
def State.barwUntil (s : State) (lv : Level) : Nat :=
  let n := low48 (s.barOf s.q.k.lnum lv s.grp).count
  match s.owes with
  | some (c, ref) => if c = lv then low48 ref + 1 else n
  | none => if s.arrivedAt lv then n + 1 else n

/-- BARW with a descriptor: it completes, is held or suspends; an escalation that it awaits is answered when it completes or suspends. -/
def barwAt (s : State) (lv : Level) (d : Word) : Res :=
  match waitFor s d (fun s => (s.settleBarw d).observe lv) with
  | .next t => .next (if t.q.mode = .writeBack d then t.settleBarw d else t)
  | r => r

def execBarw (l : BitVec 2) (s : State) : Res :=
  let lv := s.lvOf l
  let fresh : Res :=
    barwAt s lv (waitDesc 3 (lv.num - 1) (s.barwUntil lv))
  match s.q.hold with
  | some (.wait d _) => if bits d 63 60 = 3 then barwAt s lv d else fresh
  | _ => fresh

def execExend (l : BitVec 2) (s : State) : Res := doneR (s.markExend (s.lvOf l))

def execXwt (l : BitVec 2) (s : State) : Res :=
  let lv := s.lvOf l
  match s.q.hold with
  | some (.wait d _) => if bits d 63 60 = 10 then waitFor s d id
      else waitFor s (waitDesc 10 (lv.num - 1) (low48 (s.ssc lv))) id
  | _ => waitFor s (waitDesc 10 (lv.num - 1) (low48 (s.ssc lv))) id

/-! ## Continuations (R234, R235) -/

namespace State

/-- Spawns of the running continuation earlier in the current group superstep (03 R24). -/
def spawnsNow (s : State) : Nat := if s.q.k.spawnAt = s.ssc .group then s.q.k.spawnCount else 0

/-- The TS of a spawned record (03 R24). -/
def spawnTs (s : State) : Word :=
  if s.launch.det then
    BitVec.ofNat 64 (bits (s.ssc .group) 23 0 * 2 ^ 40 + s.q.k.home.toNat * 2 ^ 16 + s.spawnsNow)
  else BitVec.ofNat 64 s.clk

/-- The new continuation: registers as R234 lays down. -/
def spawned (s : State) (pc uword : Word) (p : BitVec 1) (role : BitVec 2) (slot : Nat) (spill : Word) : Cont :=
  let k := s.q.k
  let x := s.launch
  let base := placedCsrs x s.grp k.sec spill (bits (s.csr 0x000) 15 8)
  let kept := range 0x090 7 ++ range 0x098 7 ++ [0x007, 0x008] ++ range 0x050 6 ++ range 0x0B0 8
  { Cont.reset with
    pc := pc, gpr := ((range 8 6).zip (range 26 6)).foldl (fun m q => put m q.1 (look k.gpr q.2)) (put [] 6 uword),
    csr := kept.foldl (fun m n => put m n (look k.csr n)) base,
    lnum := k.lnum, slot := slot, home := k.home, role := role, pin := p == 1#1, fix := p == 1#1, sec := k.sec,
    ts := s.spawnTs, spill := spill, uword := uword, stage := k.stage, party := s.nextParty,
    born := s.counters k.lnum s.grp, cycleBase := s.clk }

end State

/-- The record of a SPAWN is made, its area `i` taken. -/
def spawnInto (s : State) (pc uword : Word) (p : BitVec 1) (role : BitVec 2) (i slot : Nat) : State :=
  let c := s.spawned pc uword p role slot (s.launch.areaAddr i)
  let n := s.spawnsNow + 1
  let at_ := s.ssc .group
  let s := { s with nextParty := s.nextParty + 1 }
  let s := s.saveCont s.grp s.cur c 1 (p == 1#1) 0
  let s := s.setK { s.q.k with spawnCount := n, spawnAt := at_ }
  s.readied s.grp c.sec

def execSpawn (a b : BitVec 5) (p : BitVec 1) (r : BitVec 2) (s : State) : Res :=
  let pc := s.x a
  let l := s.q.k.lnum
  let finish (s : State) (i : Nat) : Res :=
    match s.freeSlotOf s.grp with
    | none => .next (s.holdFor (.spawn i false))
    | some slot =>
      if s.stationHeld || s.vectorStores then .next (s.holdFor (.spawn i false)) else doneR (spawnInto s pc (s.x b) p r i slot)
  match s.q.hold with
  | some (.spawn i _) => finish s i
  | _ =>
    if bits pc 1 0 ≠ 0 then trapR s (.at 0x04 pc)
    else
      match s.launch.freeArea with
      | none => trapR s (.at 0x0E pc)
      | some i =>
        if s.launch.det ∧ s.spawnsNow = 65536 then trapR s { code := 0x15 }
        else
          finish (s.setLaunch l { s.launch with areas := s.launch.areas ++ [i] }) i

def execSusp (s : State) : Res := if s.settled then .next (s.retire.suspendWith 0) else heldR s

/-- Effective priority as a number: PRIO, every primary above every secondary (05 R55). -/
def effPrio (sec : Bool) (prio : Nat) : Nat := if sec then prio else 256 + prio

/-- A record that the same sequencer may pick has at least the running continuation's effective priority (05 R55, R56). -/
def State.yieldsTo (s : State) : Bool :=
  (List.range 256).any (fun i => s.mayPick s.cur i
    && decide (effPrio s.q.k.sec (bits (s.csr 0x000) 15 8) ≤ effPrio (s.recSec s.grp i) (s.recPrio s.grp i)))

def execYield (s : State) : Res :=
  if !s.settled then heldR s else if s.yieldsTo then .next (s.retire.suspendWith 0) else doneR s

/-- A continuation ends: arrivals, units, record slot and spill area (R235). -/
def State.endCont (s : State) : State :=
  let k := s.q.k
  let g := s.grp
  let s := (s.countRetired.endArrivals).implicitRels
  let s := s.freeSlot g k.slot
  let x := s.launchAt k.lnum
  let s := match s.launchAt? k.lnum with
    | none => s
    | some _ => s.setLaunch k.lnum { x with areas := x.areas.filter (fun i => x.areaAddr i ≠ k.spill) }
  let gr := s.groupAt g
  let s := s.setGroup g { gr with spills := gr.spills.filter (fun e => e.party ≠ k.party) }
  { s with q := { s.q with mode := .idle, hold := none } }

def execDone (s : State) : Res := if s.quiet then .next s.endCont else heldR s

end Sys2Proof.Machine
end

