-- ==== Sys2Proof/Machine/System.lean ====
section
/-! DEFINITION. Control and status registers (35 R336-R339, 44 R379 R380) and the system instructions (35 R335, R340). -/

namespace Sys2Proof.Machine

/-! ## Reading -/

/-- The epochs of operations in flight (19 R200). -/
def State.inFlight (s : State) : List Word :=
  s.staged.map (·.ep) ++ (s.everySeq.flatMap (fun p => p.2.k.heldAcc.map (·.ep)))
  ++ (s.groups.flatMap (fun g => g.2.side.flatMap (fun x => x.2.heldAcc.map (·.ep)) ++ g.2.sig.queue.map (·.ep)
        ++ g.2.meet.flatMap (fun m => m.2.queue.map (·.ep))))
  ++ (s.dies.flatMap (fun d => d.2.copies.map (·.ep) ++ d.2.everyTree.flatMap (fun t => t.2.queue.map (·.ep))))
  ++ (s.srcs.flatMap (fun c => c.2.flags.map (·.1))) ++ (s.windows.flatMap (fun w => w.2.contribs.map (·.1)))

/-- QQUIET (19 R200). -/
def State.quietEpoch (s : State) : Word :=
  match (s.inFlight.map (·.toNat)).min? with
  | some e => BitVec.ofNat 64 e
  | none => s.epoch + 1

/-- TOKS (27 R254). -/
def Cont.toks (k : Cont) : Nat := ((List.range 8).map (fun i => if look k.tok i = 0#8 then 0 else 2 ^ i)).sum

/-- ABORT: ESC reads 1 while the escalation is in force for the continuation (03 R38, R39). -/
def State.abortWord (s : State) : Word :=
  let v := s.csr 0x060
  if s.escInForce then v else setBits v 12 12 0

/-- CSR(n) of a listed register. -/
def State.readCsr (s : State) (n : Nat) : Word :=
  let k := s.q.k
  match n with
  | 0x010 => s.coordOf s.cur
  | 0x011 => k.stage.zeroExtend 64
  | 0x012 => BitVec.ofNat 64 (b2n k.sec * 2 ^ 16 + k.lnum)
  | 0x013 => BitVec.ofNat 64 s.clk
  | 0x014 => k.cycle s.clk
  | 0x021 => s.q.lwgt
  | 0x040 => s.launch.detstat.zeroExtend 64
  | 0x041 => s.launch.detaddr
  | 0x060 => s.abortWord
  | 0x062 => s.launch.abcont.zeroExtend 64
  | 0x070 => s.ssc .group
  | 0x071 => s.ssc .die
  | 0x072 => s.ssc .package
  | 0x073 => s.ssc .pod
  | 0x0C0 => BitVec.ofNat 64 k.toks
  | 0x200 => s.q.whold
  | 0x210 => s.epoch
  | 0x211 => s.quietEpoch
  | n => if 0x100 ≤ n ∧ n < 0x110 then s.counter (n - 0x100) else s.csr n

/-! ## Access rights (R336) -/

/-- Registers that no mode writes. -/
def csrReadOnly (n : Nat) : Bool := [0x010, 0x012, 0x013, 0x0C0, 0x030, 0x080, 0x061, 0x070, 0x071, 0x072, 0x073, 0x210, 0x211].contains n
/-- Registers that only runtime mode accesses. -/
def csrHidden (n : Nat) : Bool := n == 0x005 || n == 0x006 || decide (0x200 ≤ n)
/-- Registers that user mode reads and runtime mode writes. -/
def csrGuarded (n : Nat) : Bool :=
  decide (1 ≤ n ∧ n ≤ 4) || [0x011, 0x014, 0x015, 0x031, 0x032, 0x062, 0x041].contains n || decide (0x100 ≤ n ∧ n < 0x110)

/-- Whether a mode allows an access of a kind, apart from the rules of single registers. -/
def csrAllowed (runtime : Bool) (n : Nat) (f : CsrFn) : Bool :=
  if csrHidden n && !runtime then false
  else if f = .read then true
  else if csrReadOnly n then false
  else runtime || !csrGuarded n

/-- An access function's operand: the value a write would leave. -/
def csrNew (f : CsrFn) (old v : Word) : Word :=
  match f with
  | .read => old
  | .write => v
  | .set => old ||| v
  | .clear => old &&& ~~~v

/-! ## Writing: one operation per register with a rule of its own -/

/-- STAT (R329): the fields a mode may change. -/
def State.writeStat (s : State) (v : Word) : Option State :=
  let old := s.csr 0x000
  let allowed : Word := if s.runtime then 0xFF0D#64 else 0xFF04#64
  if (old ^^^ v) &&& 0xFF0F#64 &&& ~~~allowed ≠ 0#64 then none
  else
    let v := v &&& 0xFF0F#64
    some (s.setCsr 0x000 (capPrio v))

/-- PWSIZE (19 R191): in user mode only a clear of OVR. -/
def State.writePwsize (s : State) (f : CsrFn) (x new : Word) : Option State :=
  if s.runtime ∨ (f = .clear ∧ x = 0x8000000000000000#64) then some (s.setCsr 0x081 (new &&& csrMask 0x081)) else none

/-- DETSTAT (37 R353). -/
def State.writeDetstat (s : State) (f : CsrFn) (x new : Word) : Option State :=
  let l := s.launch
  let n := s.q.k.lnum
  let leave (v : BitVec 3) : State := match s.launchAt? n with
    | none => s
    | some _ => s.setLaunch n { l with detstat := v }
  if s.runtime then some (leave (new.truncate 3))
  else if f = .clear then some (leave (l.detstat &&& ~~~((x &&& 3#64).truncate 3)))
  else none

/-- A change of the launch that its sequencers share. -/
def State.mapLaunch (s : State) (g : Launch → Launch) : State :=
  match s.launchAt? s.q.k.lnum with
  | none => s
  | some x => s.setLaunch s.q.k.lnum (g x)

/-- The write of a register that its access rights allow; none: cause 0x03. -/
def State.writeCsr (s : State) (n : Nat) (f : CsrFn) (x new : Word) : Option State :=
  let k := s.q.k
  let m := new &&& csrMask n
  match n with
  | 0x000 => s.writeStat new
  | 0x011 => some (s.setK { k with stage := m.truncate 8 })
  | 0x014 => some (s.setK { k with cycleBase := (BitVec.ofNat 64 s.clk - m).toNat })
  | 0x020 => some (s.setCsr 0x020 (if 64 < m.toNat then 64 else m))
  | 0x021 => some { s with q := { s.q with lwgt := if m = 0#64 then 1 else m } }
  | 0x032 => some (s.setCsr 0x032 (if m.toNat < s.depth then BitVec.ofNat 64 s.depth else m))
  | 0x040 => s.writeDetstat f x new
  | 0x041 => some (s.mapLaunch (fun l => { l with detaddr := m }))
  | 0x060 => if f = .set then none else some (s.setCsr 0x060 0)
  | 0x062 => some (s.mapLaunch (fun l => { l with abcont := m.truncate 3 }))
  | 0x081 => s.writePwsize f x new
  | 0x200 => some { s with q := { s.q with whold := m } }
  | 0x201 => some (s.setCsr 0x201 (capPrio m))
  | n =>
    if 0x100 ≤ n ∧ n < 0x110 then
      let t := s.home
      some ((s.setHome { t with mc := put t.mc (n - 0x100 + s.setOff 16) (m.truncate 48) }).wakeTile s.homeTile)
    else some (s.setCsr n m)

/-- A trap that a register's own rule raises on a value: R67, R79 with 0x01, 27 R253 with 0x0B. -/
def State.csrValueFault (s : State) (n : Nat) (new : Word) (w : Lane) : Option Trap :=
  if 0x090 ≤ n ∧ n ≤ 0x096 then (if dImpossible (new.truncate 32) then some (.word 0x01 w) else none)
  else if n = 0x008 then (if 5 ≤ bits new 2 0 then some (.word 0x01 w) else none)
  else if 0x0B0 ≤ n ∧ n ≤ 0x0B7 then (if s.ownsCtx s.q.k.lnum s.die (bits new 11 0) then none else some { code := 0x0B })
  else none

/-- A drain of a party stands in a sequencer's buffer. -/
def Seq.drains (q : Seq) (party : Nat) : Bool :=
  q.mq.any (fun e => e.party == party && (match e.op with
    | .drn _ _ => true
    | _ => false))

/-- What an access waits for: FFLAGS until the vector queue is empty and the continuation's drains have retired, wherever it issued them
(17 R181), FBASE until every spill of the sequencer is written out (13 R129). -/
def State.csrHolds (s : State) (n : Nat) (f : CsrFn) : Bool :=
  (n == 0x007 && (!s.q.vq.isEmpty || s.everySeq.any (fun p => p.2.drains s.q.k.party)))
  || (n == 0x031 && f != .read && (s.groupAt s.grp).spills.any (fun e => e.sq == s.cur))

def csrFn : CsrFn → BitVec 6
  | .read => 0#6
  | .write => 1#6
  | .set => 2#6
  | .clear => 3#6

/-- A CSR instruction (R339). -/
def accessCsr (f : CsrFn) (d a : BitVec 5) (n : Nat) (s : State) : Res :=
  let w := encX 0x30#6 d a (csrFn f) (BitVec.ofNat 10 n)
  let old := s.readCsr n
  let x := s.x a
  let new := csrNew f old x
  if !csrAllowed s.runtime n f then trapR s (.word 0x03 w)
  else if s.csrHolds n f then heldR s
  else if f = .read then writeR s d old
  else
    match s.csrValueFault n new w with
    | some t => trapR s t
    | none =>
      match s.writeCsr n f x new with
      | none => trapR s (.word 0x03 w)
      | some s' => writeR s' d old

def execCsrr (d : BitVec 5) (c : BitVec 10) (s : State) : Res := accessCsr .read d 0 c.toNat s
def execCsrw (d a : BitVec 5) (c : BitVec 10) (s : State) : Res := accessCsr .write d a c.toNat s
def execCsrs (d a : BitVec 5) (c : BitVec 10) (s : State) : Res := accessCsr .set d a c.toNat s
def execCsrc (d a : BitVec 5) (c : BitVec 10) (s : State) : Res := accessCsr .clear d a c.toNat s

/-! ## Rows of the table that name one register -/

def execStatWrite (f : CsrFn) (d a : BitVec 5) (s : State) : Res := accessCsr f d a 0x000 s
def execAbortWrite (f : CsrFn) (d a : BitVec 5) (s : State) : Res := accessCsr f d a 0x060 s
def execAbcontWrite (f : CsrFn) (d a : BitVec 5) (s : State) : Res := accessCsr f d a 0x062 s
/-- LENSn, n from 1 to 7. -/
def execLensWrite (n : BitVec 3) (f : CsrFn) (d a : BitVec 5) (s : State) : Res := accessCsr f d a (0x08F + n.toNat) s
def execFrmWrite (f : CsrFn) (d a : BitVec 5) (s : State) : Res := accessCsr f d a 0x008 s
def execFflagsAccess (f : CsrFn) (d a : BitVec 5) (s : State) : Res := accessCsr f d a 0x007 s
def execVlWrite (f : CsrFn) (d a : BitVec 5) (s : State) : Res := accessCsr f d a 0x020 s
def execLwgtWrite (f : CsrFn) (d a : BitVec 5) (s : State) : Res := accessCsr f d a 0x021 s
def execWspillWrite (f : CsrFn) (d a : BitVec 5) (s : State) : Res := accessCsr f d a 0x031 s
def execWdepthWrite (f : CsrFn) (d a : BitVec 5) (s : State) : Res := accessCsr f d a 0x032 s
def execXtlWrite (n : BitVec 3) (f : CsrFn) (d a : BitVec 5) (s : State) : Res := accessCsr f d a (0x0B0 + n.toNat) s
def execPwsizeWrite (f : CsrFn) (d a : BitVec 5) (s : State) : Res := accessCsr f d a 0x081 s
def execDetstatWrite (f : CsrFn) (d a : BitVec 5) (s : State) : Res := accessCsr f d a 0x040 s
def execStageWrite (f : CsrFn) (d a : BitVec 5) (s : State) : Res := accessCsr f d a 0x011 s

/-! ## System instructions (R335, R340) -/

def execTrap (i : BitVec 10) (s : State) : Res := trapR s.countRetired { code := 0x13, after := true, info := i.toNat }
def execBrk (i : BitVec 10) (s : State) : Res := trapR s.countRetired { code := 0x12, info := i.toNat }

/-- The return from a handler, its station-held accesses being accepted (R335). -/
def State.returnFromTrap (s : State) : State :=
  let s := s.record 2 (s.csr 0x002) 0
  let stat := setBits (s.csr 0x201) 1 1 (bits (s.csr 0x000) 1 1)
  let target := s.csr 0x002 &&& ~~~3#64
  let s := (s.setCsr 0x000 stat).goto target
  s.setK { s.q.k with noBreak := true }

def execRfe (s : State) : Res :=
  if !s.runtime then trapR s (.word 0x03 (encX 0x30#6 0 0 5#6 0))
  else if s.replayHeld.replayWaits then heldR s.replayHeld else .next s.replayHeld.returnFromTrap

/-- PBINVA: every block that the die's engines cache is gone (27 R266). -/
def execPbinva (s : State) : Res := doneR (s.setDie s.die { s.dieAt s.die with cache := [] })

/-- WFE (R340). -/
def execWfe (i : BitVec 10) (s : State) : Res :=
  match s.q.hold with
  | some (.wfe d woken) => if woken ∨ d ≤ s.clk then doneR s else .next s
  | _ => .next (s.holdFor (.wfe (s.clk + (i.toNat + 1) * 64) false))

/-- DIAG (R340, R346). -/
def execDiag (a : BitVec 5) (i : BitVec 10) (s : State) : Res := doneR (s.record 4 (s.x a) (i.zeroExtend 64))

/-- A reserved word (11 R119). -/
def execIllegalInstruction (w : BitVec 32) (s : State) : Res := trapR s (.word 0x01 w)

/-- WFE_TIMEOUT: a WFE's clk have passed, and its sequencer completes it. -/
def execWfeTimeout (sq : BitVec 16) (s : State) : Res :=
  let q := s.seqAt sq.toNat
  match q.mode, q.hold with
  | .run, some (.wfe d _) => if d ≤ s.clk then .next (s.focusOn sq.toNat).retire else .fault .notEnabled
  | _, _ => .fault .notEnabled

end Sys2Proof.Machine
end

