-- ==== Sys2Proof/Machine/Vector.lean ====
section
/-! DEFINITION. Vector and random-stream instructions (15): push, execution, the arbiter (05 R59). -/

namespace Sys2Proof.Machine

/-! ## Registers of a continuation -/

/-- V(n)[i]. -/
def Cont.lane (k : Cont) (n : BitVec 5) (i : Nat) : Lane := look k.vreg (64 * n.toNat + i)
def Cont.setLane (k : Cont) (n : BitVec 5) (i : Nat) (v : Lane) : Cont := { k with vreg := put k.vreg (64 * n.toNat + i) v }
/-- M(n): m0 reads all ones. -/
def Cont.mask (k : Cont) (n : BitVec 3) : Word := if n = 0#3 then -1#64 else look k.mreg n.toNat
def Cont.setMask (k : Cont) (n : BitVec 3) (v : Word) : Cont := if n = 0#3 then k else { k with mreg := put k.mreg n.toNat v }

/-- Lanes below vl that a mask selects. -/
def activeLanes (vl : Nat) (m : Word) : List Nat := (List.range vl).filter (bit m)

/-! ## Push (R148) -/

/-- VL and FRM.RM as an instruction takes them. -/
def State.vl (s : State) : Nat := bits (s.csr 0x020) 6 0
def State.frm (s : State) : Nat := bits (s.csr 0x008) 2 0

/-- What an instruction takes at push; `draws`: it takes random blocks (R167). -/
def State.vEntry (s : State) (op : VOp) (draws : Bool) : VEntry :=
  { op := op, vl := s.vl, rm := s.frm, ftz := bit (s.csr 0x000) 2,
    lens := (range 1 7).foldl (fun m n => put m n (s.lensOf n)) [], lscl := (range 1 7).foldl (fun m n => put m n (s.lsclOf n)) [],
    ctr := s.rngCtr, drawn := draws && s.vl != 0, key := s.rngKey }

/-- The queue takes an entry; the counter advances by its blocks. -/
def State.vQueue (s : State) (e : VEntry) : State :=
  let s := { s with q := { s.q with vq := s.q.vq ++ [e] } }
  if e.drawn then s.setRngCtr ((e.ctr + (e.vl + 3) / 4) % 2 ^ 128) else s

/-- Push: a full queue holds the sequencer (05 R59). -/
def vPush (s : State) (op : VOp) (draws : Bool) : Res := if 16 ≤ s.q.vq.length then heldR s else doneR (s.vQueue (s.vEntry op draws))

/-- Instructions that draw under FRM.RM 4 (R167). -/
def LaneFn.draws : LaneFn → Bool
  | .addF | .subF | .mulF | .divF | .sqrtF | .fmaF | .fmsF | .cvtFI | .cvtFN | .cvtIF | .cvtNF => true
  | _ => false

def vLane (f : LaneFn) (d a : BitVec 5) (b : VSrc) (k : BitVec 3) (s : State) : Res := vPush s (.lane f d a b k) (f.draws && s.frm == 4)
/-- The scalar operand of a VOPS instruction, read at push (R155). -/
def State.scalar32 (s : State) (b : BitVec 5) : VSrc := .sca ((s.x b).truncate 32 |> fun (v : Lane) => v.zeroExtend 64)
def vLaneS (f : LaneFn) (d a b : BitVec 5) (k : BitVec 3) (s : State) : Res := vLane f d a (s.scalar32 b) k s
def vCmp (f : CmpFn) (d : BitVec 3) (a : BitVec 5) (b : VSrc) (k : BitVec 3) (s : State) : Res := vPush s (.cmp f d a b k) false
def vRed (f : RedFn) (d a : BitVec 5) (k : BitVec 3) (s : State) : Res := vPush s (.red f d a k) false

def execVaddF (d a b : BitVec 5) (k : BitVec 3) (s : State) : Res := vLane .addF d a (.vec b) k s
def execVsubF (d a b : BitVec 5) (k : BitVec 3) (s : State) : Res := vLane .subF d a (.vec b) k s
def execVmulF (d a b : BitVec 5) (k : BitVec 3) (s : State) : Res := vLane .mulF d a (.vec b) k s
def execVdivF (d a b : BitVec 5) (k : BitVec 3) (s : State) : Res := vLane .divF d a (.vec b) k s
def execVsqrtF (d a : BitVec 5) (k : BitVec 3) (s : State) : Res := vLane .sqrtF d a (.vec 0) k s
def execVfmaF (d a b : BitVec 5) (k : BitVec 3) (s : State) : Res := vLane .fmaF d a (.vec b) k s
def execVfmsF (d a b : BitVec 5) (k : BitVec 3) (s : State) : Res := vLane .fmsF d a (.vec b) k s
def execVminF (d a b : BitVec 5) (k : BitVec 3) (s : State) : Res := vLane .minF d a (.vec b) k s
def execVmaxF (d a b : BitVec 5) (k : BitVec 3) (s : State) : Res := vLane .maxF d a (.vec b) k s
def execVabsF (d a : BitVec 5) (k : BitVec 3) (s : State) : Res := vLane .absF d a (.vec 0) k s
def execVnegF (d a : BitVec 5) (k : BitVec 3) (s : State) : Res := vLane .negF d a (.vec 0) k s
def execVaddI (d a b : BitVec 5) (k : BitVec 3) (s : State) : Res := vLane .addI d a (.vec b) k s
def execVsubI (d a b : BitVec 5) (k : BitVec 3) (s : State) : Res := vLane .subI d a (.vec b) k s
def execVmulI (d a b : BitVec 5) (k : BitVec 3) (s : State) : Res := vLane .mulI d a (.vec b) k s
def execVmulhI (d a b : BitVec 5) (k : BitVec 3) (s : State) : Res := vLane .mulhI d a (.vec b) k s
def execVmulhN (d a b : BitVec 5) (k : BitVec 3) (s : State) : Res := vLane .mulhN d a (.vec b) k s
def execVminI (d a b : BitVec 5) (k : BitVec 3) (s : State) : Res := vLane .minI d a (.vec b) k s
def execVmaxI (d a b : BitVec 5) (k : BitVec 3) (s : State) : Res := vLane .maxI d a (.vec b) k s
def execVminN (d a b : BitVec 5) (k : BitVec 3) (s : State) : Res := vLane .minN d a (.vec b) k s
def execVmaxN (d a b : BitVec 5) (k : BitVec 3) (s : State) : Res := vLane .maxN d a (.vec b) k s
def execVand (d a b : BitVec 5) (k : BitVec 3) (s : State) : Res := vLane .and d a (.vec b) k s
def execVor (d a b : BitVec 5) (k : BitVec 3) (s : State) : Res := vLane .or d a (.vec b) k s
def execVxor (d a b : BitVec 5) (k : BitVec 3) (s : State) : Res := vLane .xor d a (.vec b) k s
def execVsll (d a b : BitVec 5) (k : BitVec 3) (s : State) : Res := vLane .sll d a (.vec b) k s
def execVsrl (d a b : BitVec 5) (k : BitVec 3) (s : State) : Res := vLane .srl d a (.vec b) k s
def execVsra (d a b : BitVec 5) (k : BitVec 3) (s : State) : Res := vLane .sra d a (.vec b) k s
def execVsel (d a b : BitVec 5) (k : BitVec 3) (s : State) : Res := vPush s (.sel d a b k) false
def execVmov (d a : BitVec 5) (k : BitVec 3) (s : State) : Res := vLane .mov d a (.vec 0) k s
def execVceqF (d : BitVec 3) (a b : BitVec 5) (k : BitVec 3) (s : State) : Res := vCmp .eqF d a (.vec b) k s
def execVcltF (d : BitVec 3) (a b : BitVec 5) (k : BitVec 3) (s : State) : Res := vCmp .ltF d a (.vec b) k s
def execVcleF (d : BitVec 3) (a b : BitVec 5) (k : BitVec 3) (s : State) : Res := vCmp .leF d a (.vec b) k s
def execVcunF (d : BitVec 3) (a b : BitVec 5) (k : BitVec 3) (s : State) : Res := vCmp .unF d a (.vec b) k s
def execVceqI (d : BitVec 3) (a b : BitVec 5) (k : BitVec 3) (s : State) : Res := vCmp .eqI d a (.vec b) k s
def execVcltI (d : BitVec 3) (a b : BitVec 5) (k : BitVec 3) (s : State) : Res := vCmp .ltI d a (.vec b) k s
def execVcltN (d : BitVec 3) (a b : BitVec 5) (k : BitVec 3) (s : State) : Res := vCmp .ltN d a (.vec b) k s
def execVclassF (d a : BitVec 5) (k : BitVec 3) (s : State) : Res := vLane .classF d a (.vec 0) k s
def execVaddsF (d a b : BitVec 5) (k : BitVec 3) (s : State) : Res := vLaneS .addF d a b k s
def execVsubsF (d a b : BitVec 5) (k : BitVec 3) (s : State) : Res := vLaneS .subF d a b k s
def execVmulsF (d a b : BitVec 5) (k : BitVec 3) (s : State) : Res := vLaneS .mulF d a b k s
def execVfmasF (d a b : BitVec 5) (k : BitVec 3) (s : State) : Res := vLaneS .fmaF d a b k s
def execVminsF (d a b : BitVec 5) (k : BitVec 3) (s : State) : Res := vLaneS .minF d a b k s
def execVmaxsF (d a b : BitVec 5) (k : BitVec 3) (s : State) : Res := vLaneS .maxF d a b k s
def execVaddsI (d a b : BitVec 5) (k : BitVec 3) (s : State) : Res := vLaneS .addI d a b k s
def execVmulsI (d a b : BitVec 5) (k : BitVec 3) (s : State) : Res := vLaneS .mulI d a b k s
def execVslls (d a b : BitVec 5) (k : BitVec 3) (s : State) : Res := vLaneS .sll d a b k s
def execVsrls (d a b : BitVec 5) (k : BitVec 3) (s : State) : Res := vLaneS .srl d a b k s
def execVsras (d a b : BitVec 5) (k : BitVec 3) (s : State) : Res := vLaneS .sra d a b k s
def execVceqsI (d : BitVec 3) (a b : BitVec 5) (k : BitVec 3) (s : State) : Res := vCmp .eqI d a (s.scalar32 b) k s
def execVcltsI (d : BitVec 3) (a b : BitVec 5) (k : BitVec 3) (s : State) : Res := vCmp .ltI d a (s.scalar32 b) k s
def execVsplat (d b : BitVec 5) (k : BitVec 3) (s : State) : Res := vLaneS .second d 0 b k s
def execVinsl (d a b : BitVec 5) (s : State) : Res := vPush s (.insl d (s.x a) ((s.x b).truncate 32)) false
def execVraddF (d a : BitVec 5) (k : BitVec 3) (s : State) : Res := vRed .addF d a k s
def execVraddI (d a : BitVec 5) (k : BitVec 3) (s : State) : Res := vRed .addI d a k s
def execVrminF (d a : BitVec 5) (k : BitVec 3) (s : State) : Res := vRed .minF d a k s
def execVrmaxF (d a : BitVec 5) (k : BitVec 3) (s : State) : Res := vRed .maxF d a k s
def execVrminI (d a : BitVec 5) (k : BitVec 3) (s : State) : Res := vRed .minI d a k s
def execVrmaxI (d a : BitVec 5) (k : BitVec 3) (s : State) : Res := vRed .maxI d a k s
def execVrminN (d a : BitVec 5) (k : BitVec 3) (s : State) : Res := vRed .minN d a k s
def execVrmaxN (d a : BitVec 5) (k : BitVec 3) (s : State) : Res := vRed .maxN d a k s
def execVrand (d a : BitVec 5) (k : BitVec 3) (s : State) : Res := vRed .and d a k s
def execVrior (d a : BitVec 5) (k : BitVec 3) (s : State) : Res := vRed .or d a k s
def execVrxor (d a : BitVec 5) (k : BitVec 3) (s : State) : Res := vRed .xor d a k s
def execVscanF (d a : BitVec 5) (k : BitVec 3) (s : State) : Res := vPush s (.scan d a k) false
def execVperm (d a b : BitVec 5) (k : BitVec 3) (s : State) : Res := vPush s (.perm .perm d a (.vec b) k) false
def execVsldu (d a b : BitVec 5) (k : BitVec 3) (s : State) : Res := vPush s (.perm .sldu d a (.sca (s.x b)) k) false
def execVsldd (d a b : BitVec 5) (k : BitVec 3) (s : State) : Res := vPush s (.perm .sldd d a (.sca (s.x b)) k) false
def execVrev (d a : BitVec 5) (k : BitVec 3) (s : State) : Res := vPush s (.perm .rev d a (.vec 0) k) false
def execVzip (d a b : BitVec 5) (k : BitVec 3) (s : State) : Res := vPush s (.perm .zip d a (.vec b) k) false
def execVuzp (d a b : BitVec 5) (k : BitVec 3) (s : State) : Res := vPush s (.perm .uzp d a (.vec b) k) false
def execVbcast (d a b : BitVec 5) (k : BitVec 3) (s : State) : Res := vPush s (.perm .bcast d a (.sca (s.x b)) k) false
def execVcomp (d a : BitVec 5) (k : BitVec 3) (s : State) : Res := vPush s (.comp d a k) false
def execVmand (d a b : BitVec 3) (s : State) : Res := vPush s (.mask .and d a b) false
def execVmor (d a b : BitVec 3) (s : State) : Res := vPush s (.mask .or d a b) false
def execVmxor (d a b : BitVec 3) (s : State) : Res := vPush s (.mask .xor d a b) false
def execVmnot (d a : BitVec 3) (s : State) : Res := vPush s (.mask .not d a 0) false
def execVmfromx (d : BitVec 3) (a : BitVec 5) (s : State) : Res := vPush s (.fromX d (s.x a)) false
def execVcvtfi (d a : BitVec 5) (k : BitVec 3) (s : State) : Res := vLane .cvtFI d a (.vec 0) k s
def execVcvtfn (d a : BitVec 5) (k : BitVec 3) (s : State) : Res := vLane .cvtFN d a (.vec 0) k s
def execVcvtif (d a : BitVec 5) (k : BitVec 3) (s : State) : Res := vLane .cvtIF d a (.vec 0) k s
def execVcvtnf (d a : BitVec 5) (k : BitVec 3) (s : State) : Res := vLane .cvtNF d a (.vec 0) k s
def execRggen (d : BitVec 5) (k : BitVec 3) (s : State) : Res := vPush s (.gen d k) true

/-- The lens check of VENC and VDEC (R163). -/
def lensGate (s : State) (n : BitVec 3) (r : Lane → Res) : Res :=
  let d := s.lensOf n.toNat
  if d = 0#32 then trapR s (.at 0x05 (BitVec.ofNat 64 (n.toNat * 0x100000))) else r d
def execVenc (d a : BitVec 5) (b k : BitVec 3) (s : State) : Res := lensGate s b (fun l => vPush s (.enc d a l k) (dRnd l == 1))
def execVdec (d a : BitVec 5) (b k : BitVec 3) (s : State) : Res := lensGate s b (fun l => vPush s (.dec d a l k) false)

/-! ## Executed by the sequencer (R148, R161, R166) -/

/-- Instructions that wait for the sequencer's own queue to empty. -/
def whenDrained (s : State) (r : Res) : Res := if s.q.vq.isEmpty then r else heldR s

def execVextl (d a b : BitVec 5) (s : State) : Res :=
  whenDrained s (writeR s d (if (s.x b).toNat < 64 then (s.q.k.lane a (s.x b).toNat).signExtend 64 else 0))
def execVmpopc (d : BitVec 5) (a : BitVec 3) (s : State) : Res :=
  whenDrained s (writeR s d (BitVec.ofNat 64 (activeLanes s.vl (s.q.k.mask a)).length))
def execVmffs (d : BitVec 5) (a : BitVec 3) (s : State) : Res :=
  whenDrained s (writeR s d (BitVec.ofNat 64 ((activeLanes s.vl (s.q.k.mask a)).headD 64)))
def execVmtox (d : BitVec 5) (a : BitVec 3) (s : State) : Res := whenDrained s (writeR s d (s.q.k.mask a))
def execVsetvl (d a : BitVec 5) (s : State) : Res :=
  let v := min (s.x a).toNat 64
  writeR (s.setCsr 0x020 (BitVec.ofNat 64 v)) d (BitVec.ofNat 64 v)

def State.setRngKey (s : State) (v : Word) : State :=
  (s.setCsr 0x054 (BitVec.ofNat 64 (bits v 31 0))).setCsr 0x055 (BitVec.ofNat 64 (bits v 63 32))

def execRgkey (a : BitVec 5) (s : State) : Res := doneR (s.setRngKey (s.x a))
def execRgctr (a b : BitVec 5) (s : State) : Res := doneR (s.setRngCtr ((s.x b).toNat * 2 ^ 64 + (s.x a).toNat))
def execRgskip (a b : BitVec 5) (s : State) : Res :=
  doneR (s.setRngCtr ((s.rngCtr + (s.x b).toNat * 2 ^ 64 + (s.x a).toNat) % 2 ^ 128))

/-- The address checks of RGST and RGLD (R166, 03 R32), in the order of every access (19 R189). -/
def rgFault (s : State) (a : Word) : Option Trap :=
  if tileSize < a.toNat + 32 then some (.at 0x05 a)
  else if a.toNat % 32 ≠ 0 then some (.at 0x04 a)
  else if (s.outsideShare s.q.k.lnum s.tile a.toNat 32).isSome then some (.at 0x0B a)
  else if (s.frozenAt s.q.k.lnum s.grp 0 a.toNat 32).isSome then some (.at 0x08 a)
  else none

def execRgst (a : BitVec 5) (s : State) : Res :=
  match rgFault s (s.x a) with
  | some t => trapR s t
  | none =>
    if s.vectorStores then heldR s
    else doneR (s.ownStore (s.x a).toNat (leBytes 16 s.rngCtr ++ leBytes 16 s.rngKey.toNat) (s.x a))
def execRgld (a : BitVec 5) (s : State) : Res :=
  match rgFault s (s.x a) with
  | some t => trapR s t
  | none =>
    let k := tileKey s.tile (s.x a).toNat
    if s.vectorStores then heldR s
    else if s.viewBad k 24 then trapR s (.at 0x14 (s.x a))
    else doneR ((s.setRngCtr (s.viewNat k 16)).setRngKey (BitVec.ofNat 64 (s.viewNat (k + 16) 8)))

/-! ## Vector loads and stores (R149, R156) -/

/-- The checks of every active lane: targets, or the trap of the lowest failing lane. -/
def lanesOf (s : State) (k : Acc) (addr : Nat → Word) : List Nat → Except Trap (List (Nat × Target) × State)
  | [] => .ok ([], s)
  | i :: r =>
    let a := addr i
    if regionOf a.toNat = .xlat then .error (.at 0x05 a)
    else
      match s.locate k a 4 with
      | .error f => .error (.at f.code a)
      | .ok (t, s') =>
        match lanesOf s' k addr r with
        | .error e => .error e
        | .ok (ts, s'') => .ok ((i, t) :: ts, s'')

/-- A vector load: pushed into an empty queue, and the sequencer waits until it is read. -/
def vLoad (s : State) (d : BitVec 5) (k : BitVec 3) (addr : Nat → Word) : Res :=
  match s.q.hold with
  | some .vectorLoad => .next s
  | _ =>
    whenDrained s (match lanesOf s .ld addr (activeLanes s.vl (s.q.k.mask k)) with
      | .error t => trapR s t
      | .ok (ts, s') => .next ((s'.vQueue (s'.vEntry (.load d ts) false)).holdFor .vectorLoad))

/-- X(ra) of a vector store decides whether it draws blocks: it lies in a lens window, whose length its binding gives (19 R187), and the
descriptor's RND is 1 (R167). -/
def State.storeDraws (s : State) (base : Word) : Bool :=
  match regionOf base.toNat with
  | .lens n off => dRnd (s.lensOf n) == 1 && decide (off < 4 * (786432 / dWidth (s.lensOf n)))
  | _ => false

/-- A vector store: pushed into an empty queue; `base` decides whether blocks are drawn (R167). R149 does not say where the look for a
scale byte in error stands among its checks: every lane's checks come first, and then the lowest such lane traps with 0x14 (log 197). -/
def vStore (s : State) (d : BitVec 5) (k : BitVec 3) (base : Word) (addr : Nat → Word) : Res :=
  let draws := s.storeDraws base
  whenDrained s (match lanesOf s .st addr (activeLanes s.vl (s.q.k.mask k)) with
    | .error t => trapR s t
    | .ok (ts, s') =>
      match ts.find? (fun p => s.storeBad p.2) with
      | some p => trapR s (.at 0x14 (addr p.1))
      | none => doneR (s'.vQueue (s'.vEntry (.store d ts) draws)))

def unitAddr (s : State) (a : BitVec 5) (i : Nat) : Word := s.x a + BitVec.ofNat 64 (4 * i)
def strideAddr (s : State) (a b : BitVec 5) (i : Nat) : Word := s.x a + BitVec.ofNat 64 i * s.x b
def gatherAddr (s : State) (a b : BitVec 5) (i : Nat) : Word := s.x a + (s.q.k.lane b i).zeroExtend 64

def execVld (d a : BitVec 5) (k : BitVec 3) (s : State) : Res := vLoad s d k (unitAddr s a)
def execVlds (d a b : BitVec 5) (k : BitVec 3) (s : State) : Res := vLoad s d k (strideAddr s a b)
def execVldg (d a b : BitVec 5) (k : BitVec 3) (s : State) : Res := vLoad s d k (gatherAddr s a b)
def execVldb (d a : BitVec 5) (k : BitVec 3) (s : State) : Res := vLoad s d k (fun _ => s.x a)
def execVst (d a : BitVec 5) (k : BitVec 3) (s : State) : Res := vStore s d k (s.x a) (unitAddr s a)
def execVsts (d a b : BitVec 5) (k : BitVec 3) (s : State) : Res := vStore s d k (s.x a) (strideAddr s a b)
def execVstsc (d a b : BitVec 5) (k : BitVec 3) (s : State) : Res := vStore s d k (s.x a) (gatherAddr s a b)

/-! ## Execution (R150, R152-R163) -/

/-- The rounding of lane i (07 R79, R77). -/
def VEntry.round (e : VEntry) (i : Nat) : Rnd :=
  match e.rm with
  | 1 => .rtz
  | 2 => .rup
  | 3 => .rdn
  | 4 => if e.drawn then .sto (laneWord e.key e.ctr i / 2 ^ 16) else .rne
  | _ => .rne
/-- The rounding of a reduction: RM 4 acts as RNE. -/
def VEntry.roundRed (e : VEntry) : Rnd := if e.rm = 4 then .rne else e.round 0

/-- A lane function on a, b and the old c. -/
def laneFn (f : LaneFn) (r : Rnd) (ftz : Bool) (a b c : Lane) : Fl Lane :=
  match f with
  | .addF => add32 r ftz a b
  | .subF => sub32 r ftz a b
  | .mulF => mul32 r ftz a b
  | .divF => div32 r ftz a b
  | .sqrtF => sqrt32 r ftz a
  | .fmaF => fma32 r ftz false a b c
  | .fmsF => fma32 r ftz true a b c
  | .minF => min32 ftz a b
  | .maxF => max32f ftz a b
  | .absF => abs32 ftz a
  | .negF => neg32 ftz a
  | .classF => (class32 a, 0)
  | .addI => (a + b, 0)
  | .subI => (a - b, 0)
  | .mulI => (a * b, 0)
  | .mulhI => (BitVec.ofInt 32 (a.toInt * b.toInt / 2 ^ 32), 0)
  | .mulhN => (BitVec.ofNat 32 (a.toNat * b.toNat / 2 ^ 32), 0)
  | .minI => (if a.slt b then a else b, 0)
  | .maxI => (if a.slt b then b else a, 0)
  | .minN => (if a.ult b then a else b, 0)
  | .maxN => (if a.ult b then b else a, 0)
  | .and => (a &&& b, 0)
  | .or => (a ||| b, 0)
  | .xor => (a ^^^ b, 0)
  | .sll => (a <<< bits b 4 0, 0)
  | .srl => (a >>> bits b 4 0, 0)
  | .sra => (a.sshiftRight (bits b 4 0), 0)
  | .mov => (a, 0)
  | .second => (b, 0)
  | .cvtFI => toInt32 r ftz (-2147483648) 2147483647 a
  | .cvtFN => toInt32 r ftz 0 4294967295 a
  | .cvtIF => rnd32 r ftz (ofInt a.toInt)
  | .cvtNF => rnd32 r ftz (ofInt a.toNat)

/-- A node of a reduction. -/
def redFn (f : RedFn) (r : Rnd) (ftz : Bool) (a b : Lane) : Fl Lane :=
  match f with
  | .addF => add32 r ftz a b
  | .minF => min32 ftz a b
  | .maxF => max32f ftz a b
  | .addI => (a + b, 0)
  | .minI => laneFn .minI r ftz a b 0
  | .maxI => laneFn .maxI r ftz a b 0
  | .minN => laneFn .minN r ftz a b 0
  | .maxN => laneFn .maxN r ftz a b 0
  | .and => (a &&& b, 0)
  | .or => (a ||| b, 0)
  | .xor => (a ^^^ b, 0)

/-- The identities of R158. -/
def redIdentity (f : RedFn) : Lane :=
  match f with
  | .minF => 0x7F800000#32
  | .maxF => 0xFF800000#32
  | .minI => 0x7FFFFFFF#32
  | .maxI => 0x80000000#32
  | .minN => -1#32
  | .and => -1#32
  | _ => 0#32

/-- Write lanes of a vector register. -/
def Cont.setLanes (k : Cont) (d : BitVec 5) (vs : List (Nat × Lane)) : Cont := vs.foldl (fun k p => k.setLane d p.1 p.2) k
/-- Results with flags: the lanes, and the flags together. -/
def Cont.setFl (k : Cont) (d : BitVec 5) (vs : List (Nat × Fl Lane)) : Cont :=
  let k := k.setLanes d (vs.map (fun p => (p.1, p.2.1)))
  let f := vs.foldl (fun x p => x ||| p.2.2) (0 : BitVec 5)
  { k with csr := put k.csr 0x007 (look k.csr 0x007 ||| f.zeroExtend 64) }

/-- Operand b of lane i. -/
def Cont.src (k : Cont) (b : VSrc) (i : Nat) : Lane :=
  match b with
  | .vec n => k.lane n i
  | .sca v => v.truncate 32

/-- A permute's lane (R159). -/
def Cont.permLane (k : Cont) (f : PermFn) (vl : Nat) (a : BitVec 5) (b : VSrc) (i : Nat) : Lane :=
  let sc : Nat := match b with
    | .vec n => (k.lane n i).toNat
    | .sca v => v.toNat
  match f with
  | .perm => if sc < 64 then k.lane a sc else 0
  | .sldu => if i + sc < vl then k.lane a (i + sc) else 0
  | .sldd => if sc ≤ i then k.lane a (i - sc) else 0
  | .rev => k.lane a (vl - 1 - i)
  | .zip => if i % 2 = 0 then k.lane a (i / 2) else k.src b ((i - 1) / 2)
  | .uzp => if 2 * i < vl then k.lane a (2 * i) else k.src b (2 * i - vl)
  | .bcast => if sc < 64 then k.lane a sc else 0

/-- The effect of an entry that does not touch memory, on its continuation. -/
def Cont.vRun (k : Cont) (e : VEntry) : Cont :=
  let act (m : BitVec 3) : List Nat := activeLanes e.vl (k.mask m)
  let present (a : BitVec 5) (m : BitVec 3) : List (Option Lane) :=
    (List.range e.vl).map (fun i => if bit (k.mask m) i then some (k.lane a i) else none)
  match e.op with
  | .lane f d a b m => k.setFl d ((act m).map (fun i => (i, laneFn f (e.round i) e.ftz (k.lane a i) (k.src b i) (k.lane d i))))
  | .cmp f d a b m =>
    let rs := (act m).map (fun i => (i, cmp32 f e.ftz (k.lane a i) (k.src b i)))
    let v := (rs.map (fun p => if p.2.1 then 2 ^ p.1 else 0)).sum
    let fl := rs.foldl (fun x p => x ||| p.2.2) (0 : BitVec 5)
    let k := k.setMask d (BitVec.ofNat 64 v)
    { k with csr := put k.csr 0x007 (look k.csr 0x007 ||| fl.zeroExtend 64) }
  | .sel d a b m => k.setLanes d ((List.range e.vl).map (fun i => (i, if bit (k.mask m) i then k.lane a i else k.lane b i)))
  | .insl d n v => if n.toNat < 64 then k.setLane d n.toNat v else k
  | .red f d a m =>
    if e.vl = 0 then k
    else
      let r := tree (fun x y (fl : BitVec 5) => let p := redFn f e.roundRed e.ftz x y; (p.1, fl ||| p.2)) (present a m) 0
      k.setFl d [(0, (r.1.getD (redIdentity f), r.2))]
  | .scan d a m =>
    let xs := present a m
    k.setFl d ((List.range e.vl).map (fun i =>
      let r := scanAt (fun x y (fl : BitVec 5) => let p := add32 e.roundRed e.ftz x y; (p.1, fl ||| p.2)) xs i 0
      (i, (r.1.getD 0, r.2))))
  | .perm f d a b m => k.setLanes d ((act m).map (fun i => (i, k.permLane f e.vl a b i)))
  | .comp d a m =>
    let xs := (act m).map (k.lane a)
    k.setLanes d ((List.range e.vl).map (fun i => (i, xs.getD i 0)))
  | .mask f d a b =>
    k.setMask d (match f with
      | .and => k.mask a &&& k.mask b
      | .or => k.mask a ||| k.mask b
      | .xor => k.mask a ^^^ k.mask b
      | .not => ~~~(k.mask a))
  | .fromX d v => k.setMask d v
  | .enc d a l m => k.setFl d ((act m).map (fun i =>
      let q := if e.drawn then some (laneWord e.key e.ctr i / 2 ^ 16) else none
      let r := encode32 l 127 q (k.lane a i)
      (i, (BitVec.ofNat 32 r.1, r.2))))
  | .dec d a l m => k.setFl d ((act m).map (fun i => (i, decode32 l ((k.lane a i).toNat % 2 ^ dWidth l) 127)))
  | .gen d m => k.setLanes d ((act m).map (fun i => (i, BitVec.ofNat 32 (laneWord e.key e.ctr i))))
  | .load _ _ => k
  | .store _ _ => k

/-- One lane of a vector store, with the bindings taken at push; a scale byte that has been struck since the push is told as a pending
error, and the lane is not written (00 R4). -/
def State.laneStore (s : State) (e : VEntry) (i : Nat) (t : Target) (v : Lane) : State :=
  if t.lens = 0 then (if t.path = .now then s.putOwn t.key none (leBytes 4 v.toNat) t.addr else s.storeAt t 4 v.toNat)
  else
    let desc := look e.lens t.lens
    let lscl := look e.lscl t.lens
    if s.scaleBad desc lscl s.tile t.bit then (s.noteCause s.die 0x14).setK (s.q.k.addPending 0x14#8 t.addr)
    else
    let q := if e.drawn && dRnd desc == 1 then some (laneWord e.key e.ctr i / 2 ^ 16) else none
    let r := encode32 desc (s.scaleByte desc lscl s.tile t.bit) q v
    (s.addFlags r.2).putOwn t.key (State.nibAt t (dWidth desc)) (s.elementBytes t (dWidth desc) r.1) t.addr

/-- Read every lane of a vector load: lanes, or the trap of the first lane in error. -/
def loadLanes (s : State) : List (Nat × Target) → Except Trap (List (Nat × Lane) × State)
  | [] => .ok ([], s)
  | (i, t) :: r =>
    match s.loadAt t 4 with
    | .error x => .error x
    | .ok (v, s') =>
      match loadLanes s' r with
      | .error x => .error x
      | .ok (vs, s'') => .ok ((i, BitVec.ofNat 32 v) :: vs, s'')

/-- An entry takes effect for the focused sequencer; it is no longer in the queue. -/
def State.vEffect (s : State) (e : VEntry) : State :=
  match e.op with
  | .load d ts =>
    (match loadLanes s ts with
      | .error t => s.enterTrap t
      | .ok (vs, s') => (s'.setK (s'.q.k.setLanes d vs)).retire)
  | .store d ts => ts.foldl (fun s p => s.laneStore e p.1 p.2 (s.q.k.lane d p.1)) s
  | _ => s.setK (s.q.k.vRun e)

/-- Act as another sequencer, then return the focus. -/
def State.onSeq (s : State) (sq : Nat) (f : State → State) : State :=
  if sq = s.cur then f s else (f (s.focusOn sq)).focusOn s.cur

/-- The head of a queue leaves it and takes effect. -/
def State.vPop (s : State) (sq : Nat) : State :=
  match (s.seqAt sq).vq with
  | [] => s
  | e :: r =>
    let q := s.seqAt sq
    (s.setSeq sq { q with vq := r }).onSeq sq (fun s => s.vEffect e)

/-- A store head whose lanes an exchange's source holds back (21 R205). -/
def State.vHeldBack (s : State) (sq : Nat) : Bool :=
  match (s.seqAt sq).vq with
  | e :: _ => (match e.op with
      | .store _ ts => ts.any (fun p => (match p.2.path with
          | .now => (s.waitLevel (s.seqAt sq).k.lnum (s.seqAt sq).k.party p.2.key (State.storeLen p.2 (look e.lens p.2.lens) 4) (fun x => !stationKeeps x)).isSome
          | _ => false))
      | _ => false)
  | [] => false

/-! ## The arbiter (05 R59) -/

def VOp.cross : VOp → Bool
  | .red _ _ _ _ => true
  | .scan _ _ _ => true
  | .perm _ _ _ _ _ => true
  | .comp _ _ _ => true
  | _ => false

/-- Lane groups of a tile, 0 to 3, are kept under keys 16 to 19 of `busy`. -/
def Tile.freeGroups (t : Tile) (clk : Nat) : List Nat :=
  (List.range 4).filter (fun i => !(find? t.busy (16 + i)).any (fun u => decide (clk < u)))

/-- The arbiter at work in one clk: the state, the free groups, and the deficits. -/
structure Arb where
  s : State
  free : List Nat
  d : List Int
  deriving DecidableEq, Repr

/-- The head of queue q of a tile, if it may bind: a store that an exchange's source holds back is no head meanwhile, which the spec does
not say (log 146). -/
def Arb.head (x : Arb) (tile q : Nat) : Option VEntry := if x.s.vHeldBack (3 * tile + q) then none else (x.s.seqAt (3 * tile + q)).vq.head?
def VEntry.cost (e : VEntry) : Nat := max 1 ((e.vl + 15) / 16)

/-- An instruction that binds in the wide form only, and holds the reservation. -/
def VEntry.wide (e : VEntry) : Bool := e.op.cross && decide (16 < e.vl)

/-- Bind a head to some lane groups for some clk, at a cost. -/
def Arb.bind (x : Arb) (tile q : Nat) (gs : List Nat) (clks cost : Nat) : Arb :=
  let t := x.s.tileAt tile
  let s := x.s.setTile tile { t with busy := gs.foldl (fun b g => ins b (16 + g) (x.s.clk + clks)) t.busy }
  { s := s.vPop (3 * tile + q), free := x.free.filter (fun g => !gs.contains g), d := x.d.set q (x.d.getD q 0 - cost) }

/-- Heads with VL 0 bind no lane group and retire at the head. -/
def zeroHeads (tile q : Nat) : Nat → State → State
  | 0, s => s
  | n + 1, s =>
    match (s.seqAt (3 * tile + q)).vq with
    | e :: _ => if e.vl = 0 then zeroHeads tile q n (s.vPop (3 * tile + q)) else s
    | [] => s

/-- The same for the three queues of a tile. -/
def retireZero (tile : Nat) (s : State) : State := (List.range 3).foldl (fun s q => zeroHeads tile q 16 s) s

/-- One clk of a tile's arbiter. -/
def arbitrate (tile : Nat) (s : State) : State :=
  let s := retireZero tile s
  let t := s.tileAt tile
  let order := (List.range 3).map (fun k => (t.ptr + k) % 3)
  let x : Arb := { s := s, free := t.freeGroups s.clk, d := t.deficit }
  let ready (x : Arb) (q : Nat) : Option VEntry := if 0 < x.d.getD q 0 then x.head tile q else none
  let res := order.find? (fun q => (ready x q).any VEntry.wide)
  let x := match res with
    | none => x
    | some q =>
      (match ready x q with
        | none => x
        | some e => if e.cost ≤ x.free.length then x.bind tile q (x.free.take e.cost) 1 e.cost else { x with free := [] })
  let x := order.foldl (fun x q =>
    if some q = res ∨ x.free = [] then x
    else match ready x q with
      | none => x
      | some e =>
        if e.cost ≤ x.free.length then x.bind tile q (x.free.take e.cost) 1 e.cost
        else if e.wide then x
        else x.bind tile q (x.free.take 1) e.cost e.cost) x
  let x := { x with s := retireZero tile x.s }
  let idle := (List.range 3).all (fun q => !(decide (0 < x.d.getD q 0) && (x.head tile q).isSome))
  let d := if idle then (List.range 3).map (fun q =>
      if (x.head tile q).isSome then x.d.getD q 0 + ((x.s.seqAt (3 * tile + q)).lwgt.toNat : Int) else 0) else x.d
  let t := x.s.tileAt tile
  x.s.setTile tile { t with deficit := d, ptr := if idle then (t.ptr + 1) % 3 else t.ptr }

/-- VECTOR_BIND. -/
def execVectorBind (tile : BitVec 14) (s : State) : Res := .next (arbitrate tile.toNat s)

end Sys2Proof.Machine
end

