-- ==== Sys2Proof/Machine/Packets.lean ====
section
/-! DEFINITION. The sending side of the fabric (25 R236-R245, R249): headers, lanes, paths, keys, sending and resending. -/

namespace Sys2Proof.Machine

/-- Bytes 0-47 of a header flit (R238). -/
def headerBytes (p : Packet) : List Byte :=
  [p.kind, BitVec.ofNat 8 (p.vc.toNat * 64 + p.hopClass.toNat * 16 + b2n p.of * 8 + b2n p.enc * 4 + p.lane.toNat)]
  ++ leBytes 2 p.payload.length ++ leBytes 2 p.src.toNat ++ leBytes 2 p.dst.toNat ++ leBytes 2 p.ctx.toNat ++ leBytes 2 p.lseq.toNat
  ++ leBytes 4 p.oseq.toNat ++ leBytes 7 p.addr.toNat ++ [p.op, p.win, p.kgen] ++ leBytes 2 p.cidx.toNat ++ leBytes 2 p.spid.toNat
  ++ leBytes 2 p.rnd.toNat ++ (List.range 4).flatMap (fun i => leBytes 2 (p.lcnt.getD i 0).toNat) ++ [p.via, p.hops, p.dkind]
  ++ List.replicate 5 0
/-- The header flit, 64 bytes. -/
def headerFlit (p : Packet) : List Byte := headerBytes p ++ leBytes 16 p.tag.toNat
/-- Its bytes as they are authenticated: VIA and HOPS zero, and with HOPS the hop class (R249, log 67). -/
def packetHeader (p : Packet) : List Byte := headerBytes { p with via := 0, hops := 0, hopClass := 0 }

/-- A packet with nothing but its kind, virtual channel (R239) and payload. -/
def blankPacket (kind : Nat) (payload : List Byte) : Packet where
  kind := BitVec.ofNat 8 kind
  vc := match kind with
    | 2 => 1
    | 4 => 1
    | 6 => 1
    | 5 => 2
    | _ => 0
  hopClass := 0
  of := false
  enc := false
  lane := 0
  src := 0
  dst := 0
  ctx := 0
  lseq := 0
  oseq := 0
  addr := 0
  op := 0
  win := 0xFF
  kgen := 0
  cidx := 0
  spid := 0
  rnd := 0
  lcnt := []
  via := 0xFF
  hops := 0
  dkind := 0
  tag := 0
  payload := payload
  lens := 0
  port := 0
  sealer := 0
  job := 0
  domain := 0

/-- A text as bytes. -/
def asciiBytes (t : String) : List Byte := t.toList.map (fun c => BitVec.ofNat 8 c.toNat)

/-- The key of an enclave hop a to b in a generation (33 R326). -/
def hopKey (secret : BitVec 384) (gen a b : Nat) : BitVec 256 :=
  Config.hkdf (List.replicate 48 0) (leBytes 48 secret.toNat) (asciiBytes "VRM8-HOP" ++ leBytes 2 a ++ leBytes 2 b ++ leBytes 1 gen)

/-- The hop identifier (33 R326) and the nonce of its n-th packet (25 R249). -/
def hopNonce (a b : Nat) (n : Word) : BitVec 96 := BitVec.ofNat 96 ((a * 2 ^ 16 + b) * 2 ^ 64 + n.toNat)

namespace State

/-- Port numbers of the model: a local port under its own number, global link f under 32 + f. -/
def portUp (s : State) (port : Nat) : Bool := (find? s.links port).any (·.up)

/-- The package at the end of a global link of a package, by the fabric map; the maps of other groups record the same wiring. -/
def mapAt (s : State) (pkg f : Nat) : Option Nat :=
  if pkg / 32 = s.dgrp.toNat then find? s.fabricMap (64 * (pkg % 32) + f) else some (Config.linkPeer pkg f)
/-- A global link of a package leads to a dragonfly group. -/
def leadsTo (s : State) (pkg group f : Nat) : Bool := (s.mapAt pkg f).any (fun x => x / 32 == group)
/-- The dragonfly group that a global link of this package leads to; its own where the map names none. -/
def linkGroup (s : State) (f : Nat) : Nat := ((s.mapAt s.index f).map (· / 32)).getD s.dgrp.toNat

/-- Global links that are up. -/
def globalLinks (s : State) : List Nat := if s.form = .v8d then [] else (List.range 64).filter (fun f => s.portUp (32 + f))

/-- Up ports of a non-minimal route: global links that lead to neither this dragonfly group nor the target's (25 R240). -/
def detours (s : State) (group : Nat) : List Nat :=
  (s.globalLinks.filter (fun f => s.linkGroup f != group && s.linkGroup f != s.dgrp.toNat)).map (32 + ·)

/-- Up ports of a minimal route: global links straight to the group, else local ports to packages that have one. -/
def direct (s : State) (group : Nat) : List Nat :=
  match s.globalLinks.filter (fun f => s.linkGroup f == group) with
  | [] => (List.range 32).filter (fun j => s.portUp j && (List.range 64).any (s.leadsTo (32 * s.dgrp.toNat + j) group))
  | fs => fs.map (32 + ·)

/-- The queue occupancy of a port's output: the flits that wait there, with those that this model sends at once (log 187). -/
def occupancy (s : State) (port : Nat) : Nat :=
  ((find? s.links port).map (fun l => (l.queue.map (fun x => 1 + (x.1.payload.length + 63) / 64 - x.2)).sum)).getD 0
  + Config.occupancy port s.free

/-- The least of some ports by occupancy at a moment, ties to the lowest group that they lead to and then to the lowest port: which of several
minimal outputs counts as the minimal one the spec does not say (log 201). -/
def leastPort (s : State) (xs : List Nat) : Option Nat :=
  xs.foldl (fun best f => match best with
    | none => some f
    | some g =>
      let a := s.occupancy f
      let b := s.occupancy g
      if a < b ∨ (a = b ∧ s.linkGroup (f - 32) < s.linkGroup (g - 32)) then some f else some g) none

/-- The choice between a minimal and a non-minimal output (25 R240). -/
def weigh (s : State) (m n : Option Nat) : Option Route :=
  let detour (f : Nat) : Route := ⟨s.linkGroup (f - 32), f⟩
  match m, n with
  | none, none => none
  | some a, none => some ⟨0xFF, a⟩
  | none, some f => some (detour f)
  | some a, some f => if s.occupancy a ≤ 2 * s.occupancy f then some ⟨0xFF, a⟩ else some (detour f)

/-- The path to a package; none when every path that FRTE allows is down (25 R240, R251). `avoid`: the path to leave out where another
exists (R243). -/
def choosePath (s : State) (dst : Nat) (avoid : Option Route) : Option Route :=
  let group := dst / 32
  if group = s.dgrp.toNat then (if s.portUp (dst % 32) then some ⟨0xFF, dst % 32⟩ else none)
  else
    let frte := bits (look s.dev 0x200100) 1 0
    let other (minimal : Bool) (avoid : Option Route) (f : Nat) : Bool :=
      !(avoid.any (fun r => (r.via == 0xFF) == minimal && r.port == f))
    let m (avoid : Option Route) := if frte = 2 then none else s.leastPort ((s.direct group).filter (other true avoid))
    let n (avoid : Option Route) := if frte = 1 then none else s.leastPort ((s.detours group).filter (other false avoid))
    (s.weigh (m avoid) (n avoid)).or (s.weigh (m none) (n none))

/-- The ports that a packet which is passing this package may take. -/
def pathPorts (s : State) (dst via : Nat) : List Nat :=
  if dst / 32 = s.dgrp.toNat then (if s.portUp (dst % 32) then [dst % 32] else [])
  else if via = 0xFF ∨ via = s.dgrp.toNat then s.direct (dst / 32)
  else (s.globalLinks.filter (fun f => s.linkGroup f == via)).map (32 + ·)

/-- Whether a path can still be taken. -/
def pathUp (s : State) (r : Route) : Bool := s.portUp r.port

/-- The package at the other end of a port. -/
def portPeer (s : State) (port : Nat) : Option Nat := if port < 32 then some (32 * s.dgrp.toNat + port) else s.mapAt s.index (port - 32)

/-! ### Links (25 R237, R239, R246) -/

end State

/-- A link when it has been trained. -/
def Link.trained (clk : Nat) : Link where
  up := true
  last := clk
  sentAt := clk
  seq := 0
  failSeq := 0
  replays := 0
  sent := []
  freed := []
  mine := []
  told := []
  queue := []
  buf := []
  turn := 2

/-- A packet on its path. -/
def onRoute (r : Route) (p : Packet) : Packet := { p with via := BitVec.ofNat 8 r.via, port := BitVec.ofNat 7 r.port }

/-- Flits of a packet, and its channel. -/
def flitsOf (p : Packet) : Nat := 1 + (p.payload.length + 63) / 64
def chanOf (p : Packet) : Nat := p.vc.toNat * 4 + p.hopClass.toNat

/-- Slots that the neighbour has free for a channel (R246). -/
def Link.credit (l : Link) (c : Nat) : Nat := (Config.linkBuffer + (look l.freed c).toNat + 2 ^ 16 - (look l.sent c).toNat) % 2 ^ 16

/-- The packet that a link serves next: the oldest of a channel with credit, VC3 first, VC0-VC2 round robin by flit (R239). -/
def Link.next (l : Link) : Option (Packet × Nat) :=
  let head (vc : Nat) : Option (Packet × Nat) :=
    (List.range 4).findSome? (fun h => if l.credit (4 * vc + h) = 0 then none else l.queue.find? (fun x => chanOf x.1 == 4 * vc + h))
  (head 3).or ((List.range 3).findSome? (fun i => head ((l.turn + 1 + i) % 3)))

/-- Flits leave while there is credit. -/
def Link.pump (clk : Nat) : Nat → Link → Link
  | 0, l => l
  | n + 1, l =>
    match l.next with
    | none => l
    | some (p, k) =>
      let c := chanOf p
      let f : Flit := { chan := c, seq := l.seq, src := p.src, ctx := p.ctx, dst := p.dst, oseq := p.oseq }
      Link.pump clk n { l with
        sentAt := clk, seq := l.seq + 1, sent := put l.sent c (look l.sent c + 1), buf := l.buf ++ [f],
        queue := if k + 1 < flitsOf p then l.queue.map (fun x => if x = (p, k) then (p, k + 1) else x) else l.queue.erase (p, k),
        turn := if p.vc = 3 then l.turn else p.vc.toNat }
def Link.run (l : Link) (clk : Nat) : Link := l.pump clk ((l.queue.map (fun x => flitsOf x.1)).sum)

/-- The neighbour's totals: the slots it has freed, whose flits leave the link buffer (R237, R246); no other acknowledgement of a link's flits
is named (log 202). -/
def Link.credited (l : Link) (c : Nat) (total : BitVec 16) : Link :=
  let l := { l with freed := put l.freed c total }
  let open_ := (look l.sent c - total).toNat
  let gone := (l.buf.filter (fun f => f.chan == c)).length - open_
  { l with buf := (l.buf.foldl (fun (acc : List Flit × Nat) f =>
      if f.chan = c ∧ 0 < acc.2 then (acc.1, acc.2 - 1) else (acc.1 ++ [f], acc.2)) ([], gone)).1 }

namespace State

/-- A packet goes to the router: it is put to its port, whose link sends what it can. -/
def emit (s : State) (p : Packet) : State :=
  let s := { s with sentPkts := s.sentPkts ++ [p], free := s.free + 1 }
  match find? s.links p.port.toNat with
  | none => s
  | some l => { s with links := ins s.links p.port.toNat (Link.run { l with queue := l.queue ++ [(p, 0)] } s.clk) }

/-- The flits of an arriving packet are valid, and their slots are freed and returned on the link that it came by (R237, R246). -/
def arrive (s : State) (p : Packet) : State :=
  match find? s.links p.port.toNat with
  | none => s
  | some l =>
    let f := p.port.toNat
    let c := chanOf p
    let freed := look l.mine c + BitVec.ofNat 16 (flitsOf p)
    { s with links := ins s.links f { l with last := s.clk, sentAt := s.clk, mine := put l.mine c freed, told := put l.told c freed } }

/-! ### Flows -/

/-- The key of a flow (25 R240), and of a context's numbering toward a package (25 R243). -/
def flowKey (die ctx lane dst : Nat) : Nat := ((die * 4096 + ctx) * 4 + lane) * 2048 + dst
def pairKey (die ctx dst : Nat) : Nat := (die * 4096 + ctx) * 2048 + dst

/-- The path of a flow's next packet: kept unless it is down or the flow was silent for longer than FGAP (25 R240). -/
def flowPath (s : State) (key dst : Nat) : Option Route :=
  match find? s.paths key with
  | some (at_, r) => if s.clk - at_ ≤ bits (look s.dev 0x200000) 31 0 ∧ s.pathUp r then some r else s.choosePath dst none
  | none => s.choosePath dst none

/-- A flow has sent a packet by a path, which it keeps. -/
def keepPath (s : State) (key : Nat) (r : Option Route) : State :=
  match r with
  | some r => { s with paths := ins s.paths key (s.clk, r) }
  | none => s
/-- A flow has sent a packet by a path that is not its own: a window's (R247), or one for a resend (R243). Its own path stays (R240). -/
def touchPath (s : State) (key : Nat) (r : Option Route) : State :=
  match r, find? s.paths key with
  | some _, some x => { s with paths := ins s.paths key (s.clk, x.2) }
  | _, _ => s

/-- The enclave that encrypts a domain's traffic to a package (25 R249): both are members of it. -/
def enclaveOf (s : State) (d dst : Nat) : Option (Nat × Enclave) :=
  if d = 0 then none
  else match find? s.enclaves d with
    | some e => if e.members.contains s.index ∧ e.members.contains dst then some (d, e) else none
    | none => none

/-- The key of a hop's packet count, which each generation starts at 0 (33 R326). -/
def hopCount (gen a b : Nat) : Nat := (gen * 65536 + a) * 65536 + b

/-- The packages that a packet passes from one package on to its target: each router takes the lowest link that the map names (log 67). -/
def routeFrom (s : State) (dst via : Nat) : Nat → Nat → List Nat
  | 0, _ => []
  | n + 1, at_ =>
    if at_ = dst then []
    else if at_ / 32 = dst / 32 then [dst]
    else
      let group := if via = 0xFF ∨ at_ / 32 = via then dst / 32 else via
      let via' := if at_ / 32 = via then 0xFF else via
      let exit (p : Nat) : Option Nat := ((List.range 64).find? (s.leadsTo p group)).bind (s.mapAt p)
      match exit at_ with
      | some x => x :: s.routeFrom dst via' n x
      | none =>
        match ((List.range 32).map (fun j => at_ / 32 * 32 + j)).find? (fun p => p != at_ && (exit p).isSome) with
        | some p => p :: s.routeFrom dst via n p
        | none => [dst]

/-- The member at the end of the enclave hop that a packet begins by its port (25 R249): the first on its route. -/
def hopAfter (s : State) (ms : List Nat) (p : Packet) : Nat :=
  match s.portPeer p.port.toNat with
  | none => p.dst.toNat
  | some q => ((q :: s.routeFrom p.dst.toNat p.via.toNat 8 q).find? (fun x => ms.contains x)).getD p.dst.toNat

/-- A packet under the key of its next enclave hop in the current generation (25 R249). -/
def sealUnder (s : State) (d : Nat) (e : Enclave) (p : Packet) : Packet × State :=
  let b := s.hopAfter e.members p
  let hop := hopCount e.gen s.index b
  let n := look e.pkts hop
  let p := { p with enc := true, kgen := BitVec.ofNat 8 e.gen, sealer := BitVec.ofNat 11 s.index }
  let r := Config.gcmSeal (hopKey e.secret e.gen s.index b) (hopNonce s.index b n) (packetHeader p) p.payload
  ({ p with payload := r.1, tag := r.2 }, { s with enclaves := ins s.enclaves d { e with pkts := put e.pkts hop (n + 1) } })

/-- Encrypt a packet of a domain for its enclave hop, when there is one. -/
def sealPacket (s : State) (p : Packet) : Packet × State :=
  match s.enclaveOf p.domain.toNat p.dst.toNat with
  | none => (p, s)
  | some (d, e) => s.sealUnder d e p

/-- A packet leaves by a path, sealed for its hop; with no path it waits in the sender's buffer. -/
def leave (s : State) (r : Option Route) (p : Packet) : State :=
  match r with
  | none => s
  | some r =>
    let x := s.sealPacket (onRoute r p)
    x.2.emit x.1

/-- The window of a contribution, whose route tree gives its path (25 R247). -/
def routeWindow (s : State) (p : Packet) : Option Window := if p.kind = 5#8 then find? s.windows p.win.toNat else none

/-- The path of a packet: that of its window's route tree for a contribution, else its flow's. -/
def packetPath (s : State) (fk : Nat) (p : Packet) : Option Route :=
  match s.routeWindow p with
  | some w => w.route.filter s.pathUp
  | none => s.flowPath fk p.dst.toNat

/-- A packet takes its numbers and leaves, or waits in the sender's buffer where every path is down; it is awaited either way. -/
def sendPacket (s : State) (l die : Nat) (copy : Option Nat) (elems : List Nat) (p : Packet) : State :=
  let ctx := p.ctx.toNat % 4096
  let dst := p.dst.toNat
  let fk := flowKey die ctx p.lane.toNat dst
  let pk := pairKey die ctx dst
  let oseq := (find? s.oseq pk).getD 1
  let cnt := look s.laneCnt fk + 1
  let s := { s with oseq := ins s.oseq pk (oseq + 1), laneSeq := put s.laneSeq fk (look s.laneSeq fk + 1), laneCnt := put s.laneCnt fk cnt }
  let r := s.packetPath fk p
  let p := { p with
    src := BitVec.ofNat 16 s.index, oseq := oseq, lseq := look s.laneSeq fk - 1, job := BitVec.ofNat 32 (s.launchAt l).job,
    domain := BitVec.ofNat 16 (s.launchAt l).domain,
    lcnt := if p.of then (List.range 4).map (fun i => look s.laneCnt (flowKey die ctx i dst)) else [] }
  let p := (r.map (onRoute · p)).getD p
  let t : State := { s with free := s.free + 1 }
  let s := if (s.routeWindow p).isSome then t.touchPath fk r else t.keepPath fk r
  let o : OutPacket := { lnum := l, die := die, copy := copy, packet := p, tries := 0, busy := false, at_ := s.clk, elems := elems }
  { s with out := s.out ++ [o] }.leave r p

/-- The same packet leaves again by a path chosen afresh (25 R243), while its flow keeps its own (R240); a contribution keeps its tree's. -/
def resendPacket (s : State) (o : OutPacket) : State :=
  let dst := o.packet.dst.toNat
  let fk := flowKey o.die (o.packet.ctx.toNat % 4096) o.packet.lane.toNat dst
  let r := match s.routeWindow o.packet with
    | some w => w.route.filter s.pathUp
    | none => s.choosePath dst (some ⟨o.packet.via.toNat, o.packet.port.toNat⟩)
  let p := (r.map (onRoute · o.packet)).getD o.packet
  let o' : OutPacket := { o with packet := p, tries := if o.busy then o.tries else o.tries + 1, busy := false, at_ := s.clk }
  { s with free := s.free + 1, out := s.out.map (fun x => if x = o then o' else x) }.touchPath fk r |>.leave r p

/-- The die that stands for the package itself where a control packet's sender is named, and the source context of those packets (log 147). -/
def controlDie : Nat := 8
def controlCtx : BitVec 16 := 0x8000

/-- A control packet leaves, numbered and awaited as every packet is (25 R243); one toward a package that the domain excludes is not sent
(25 R250). -/
def sendOff (s : State) (l : Nat) (p : Packet) : State :=
  if s.keyRevoked l p.dst.toNat then s else s.sendPacket l controlDie none [] { p with ctx := controlCtx, lane := 0 }

/-- A payload in pieces of at most 256 bytes, of which there is at least one (R238): each with its offset. -/
def payloads (bs : List Byte) : List (Nat × List Byte) :=
  (List.range (max 1 ((bs.length + 255) / 256))).map (fun i => (256 * i, (bs.drop (256 * i)).take 256))

/-- Control packets of a launch to a package, on VC3 (R239): what they carry, OP says, and ADDR the offset of each one's piece of it (log 147). -/
def control (s : State) (l dst op : Nat) (payload : List Byte) : State :=
  (payloads payload).foldl (fun s b => s.sendOff l { blankPacket 7 b.2 with
    vc := 3, dst := BitVec.ofNat 16 dst, op := BitVec.ofNat 8 op, addr := BitVec.ofNat 56 b.1 }) s

/-- The same to every other package of the launch's job. -/
def announce (s : State) (l op : Nat) (payload : List Byte) : State :=
  (((find? s.jobs (s.launchAt l).job).getD []).filter (· ≠ s.index)).foldl (fun s d => s.control l d op payload) s

/-- Unacknowledged operations of a context toward a package (25 R243: at most 4,096). -/
def unacked (s : State) (die ctx dst : Nat) : Nat :=
  (s.out.filter (fun o => o.die == die && o.packet.ctx.toNat % 4096 == ctx && o.packet.dst.toNat == dst)).length

end State
end Sys2Proof.Machine
end

