-- ==== Sys2Proof/Machine/Copy.lean ====
section
/-! DEFINITION. Engine contexts, timelines and tokens (27 R252-R254), posting blocks (R264-R267), the start, the token and the
performing of a copy (R259-R263, R270, 28 R276), and waiting on contexts (R268, R269). -/

namespace Sys2Proof.Machine

/-- The bytes of a virtual range as memory keys, for an engine of a die or the command processor (19 R195), or the status of R270: 8 where the
walk meets an entry in error (19 R197), else 6. The spec says neither what such an access to a page of device registers does nor that it is
refused: it is refused here (log 198). -/
def State.virtKeys (s : State) (die space : Nat) (write : Bool) (a : Word) : Nat → Except Nat (List Nat × State)
  | 0 => .ok ([], s)
  | n + 1 =>
    if regionOf a.toNat ≠ .xlat then .error 6
    else
      match s.translate die space a.toNat with
      | .error e => .error (if e = .ecc then 8 else 6)
      | .ok (leaf, pa, s') =>
        if physKind s.form pa = some .dev ∨ !s.allows space a.toNat leaf (if write then .st else .ld) ∨ (write ∧ entryAttr leaf ≠ 0)
        then .error 6
        else
          match s'.virtKeys die space write (a + 1) n with
          | .error e => .error e
          | .ok (ks, s'') => .ok (pa :: ks, s'')

/-- Such a range has been refused, or is read and has a byte in error: an uncorrectable error is noted (43 R375). -/
def State.noteKeys (s : State) (die : Nat) (r : Except Nat (List Nat × State)) : State :=
  match r with
  | .error e => if e = 8 then s.markUe die else s
  | .ok (ks, _) => if ks.any (fun k => s.isBad k 1) then s.markUe die else s

/-! ## Contexts (R252) -/

/-- The status record of a context that no error has reached. -/
def CtxStatus.clear : CtxStatus := { first := 0, code := 0, errs := 0, cmp := 0, cmpf := -1 }
/-- An operation ends in error (R269). -/
def CtxStatus.fail (x : CtxStatus) (num : Word) (code : Nat) : CtxStatus :=
  { x with first := if x.first = 0#64 then num else x.first, code := if x.first = 0#64 then code else x.code,
           errs := min 65535 (x.errs + 1) }

namespace State

def ctxStatus (s : State) (die ctx : Nat) : CtxStatus := (find? (s.dieAt die).status ctx).getD CtxStatus.clear
def setCtxStatus (s : State) (die ctx : Nat) (x : CtxStatus) : State :=
  let d := s.dieAt die
  s.setDie die { d with status := ins d.status ctx x }

/-- Numbers of a context that are not yet performed. -/
def ctxPending (s : State) (die ctx : Nat) : List Word :=
  let d := s.dieAt die
  (d.copies.filter (fun c => c.ctx == ctx)).map (·.num)
  ++ d.everyTree.flatMap (fun t => (t.2.queue.filter (fun c => c.ctx == ctx)).map (·.num))
  ++ (s.groups.filter (fun g => g.1 / 128 == die)).flatMap (fun g =>
      (g.2.sig.queue.filter (fun c => c.ctx == ctx)).map (·.num)
      ++ g.2.meet.flatMap (fun m => (m.2.queue.filter (fun c => c.ctx == ctx)).map (·.num)))

/-- TL passes every number up to the first that is not performed (21 R210). -/
def settleCtx (s : State) (die ctx : Nat) : State :=
  let d := s.dieAt die
  let tl : Word := match minWord (s.ctxPending die ctx) with
    | some n => n - 1
    | none => look d.posted ctx
  s.setDie die { d with timeline := put d.timeline ctx tl }

/-- A numbered operation, already gone from its queue, has ended with a status (R252, R270). -/
def endNumbered (s : State) (die ctx : Nat) (num : Word) (code : Nat) : State :=
  let s := if code = 0 then s else s.setCtxStatus die ctx ((s.ctxStatus die ctx).fail num code)
  (if code = 8 then s.markUe die else s).settleCtx die ctx

/-- CTX of the running continuation's slot (R253). -/
def slotCtx (s : State) (slot : Nat) : Nat := bits (s.csr (0x0B0 + slot)) 11 0

/-- Number an operation through a slot: n := P + 1, LAST := n (R265). -/
def takeNumber (s : State) (slot : Nat) : Word × State :=
  let ctx := s.slotCtx slot
  let d := s.dieAt s.die
  let n := look d.posted ctx + 1
  let s := s.setDie s.die { d with posted := put d.posted ctx n }
  (n, s.setCsr (0x0B0 + slot) (BitVec.ofNat 64 (low48 n * 2 ^ 16 + ctx)))

/-! ## Tokens (R254) -/

def addToken (s : State) (t : Nat) : State := s.setK { s.q.k with tok := put s.q.k.tok t (look s.q.k.tok t + 1) }

/-- A token of a continuation falls by one, wherever the continuation is. -/
def dropToken (s : State) (grp party t : Nat) : State :=
  match s.runningAt grp party with
  | some sq =>
    let q := s.seqAt sq
    s.setSeq sq { q with k := { q.k with tok := put q.k.tok t (look q.k.tok t - 1) } }
  | none =>
    match s.parkedAt grp party with
    | none => s
    | some slot =>
      let g := s.groupAt grp
      match find? g.side slot with
      | none => s
      | some sd => s.setGroup grp { g with side := ins g.side slot { sd with tok := put sd.tok t (look sd.tok t - 1) } }

/-! ## Reading the block (R265 steps 1 and 3, R266) -/

/-- One doubleword of a block: memory itself, staged stores excluded (21 R203), but for its issuer's earlier writes that wait (21 R208). -/
def blockWord (s : State) (a : Word) : Except Trap (List Byte × State) :=
  match s.locate .ld a 8 with
  | .error f => .error f.trap
  | .ok (t, s') =>
    match t.path with
    | .register off => .ok (leBytes 8 (devReadN s (0x0E0000000000 + off) 8), s')
    | _ =>
      if s.signalBad t.key 8 then .error (.at 0x14 a)
      else
        match regionOf a.toNat with
        | .param off =>
          let size := bits (s.csr 0x081) 16 0
          .ok ((range off 8).map (fun o => if o < size then look s.mem (paramKey s.q.k.lnum o) else 0#8), s')
        | _ => .ok (s.signalPeek t.key 8, s')

/-- n doublewords of a block. -/
def blockWords (s : State) (a : Word) : Nat → Except Trap (List Byte × State)
  | 0 => .ok ([], s)
  | n + 1 =>
    match s.blockWord a with
    | .error t => .error t
    | .ok (b, s') =>
      match s'.blockWords (a + 8) n with
      | .error t => .error t
      | .ok (bs, s'') => .ok (b ++ bs, s'')

/-- An engine caches a block read from translated memory, at most 128 (R266). -/
def cacheBlock (s : State) (eng : Nat) (a : Word) (key : Nat) (bs : List Byte) : State :=
  let d := s.dieAt s.die
  let space := s.launch.space
  let rest := d.cache.filter (fun c => !(c.eng == eng && c.space == space && c.addr == a))
  let mine := rest.filter (fun c => c.eng == eng)
  let rest := if 128 ≤ mine.length then (match mine.head? with
    | some c => rest.erase c
    | none => rest) else rest
  s.setDie s.die { d with cache := rest ++ [{ eng := eng, space := space, addr := a, key := key, data := bs }] }

/-- What a posting finds in translated memory, through its engine's cache (R266): where the cache still holds another block, because the
host has rewritten it, the old one or the new one, which the spec leaves open. -/
def throughCache (s : State) (eng : Nat) (a : Word) (key : Nat) (bs : List Byte) : List Byte × State :=
  match (s.dieAt s.die).cache.find? (fun c => c.eng == eng && c.space == s.launch.space && c.addr == a) with
  | none => (bs, s.cacheBlock eng a key bs)
  | some c =>
    if c.data = bs then (bs, s)
    else
      let s' := { s with free := s.free + 1 }
      if Config.useCachedBlock s.free then (c.data, s') else (bs, s'.cacheBlock eng a key bs)

/-- The whole block at an address, read for a posting to an engine. -/
def readBlock (s : State) (eng : Nat) (a : Word) : Except Trap (List Byte × State) :=
  match s.blockWord a with
  | .error t => .error t
  | .ok (b, _) =>
    match s.blockWords a (blockSize (fieldAt b 0 4) / 8) with
    | .error t => .error t
    | .ok (bs, s') =>
      match (if regionOf a.toNat = .xlat then (s.locate .ld a 8).toOption else none) with
      | none => .ok (bs, s')
      | some (t, _) => .ok (s'.throughCache eng a t.key bs)

/-- n bytes of the launch image, for its static schedule (R267): none where they cannot be read, with the status of R270. -/
def imageBytes (s : State) (a : Word) (n : Nat) : Except Nat (List Nat × List Byte × State) :=
  match s.virtKeys s.die s.launch.space false a n with
  | .error e => .error e
  | .ok (ks, s') => if ks.any (fun k => s'.isBad k 1) then .error 8 else .ok (ks, ks.map (look s'.mem), s')

/-- A block of the schedule, through the cache of the engine it is posted to. -/
def imageBlock (s : State) (eng : Nat) (a : Word) : Except Nat (List Byte × State) :=
  match s.imageBytes a 4 with
  | .error e => .error e
  | .ok (_, w0, _) =>
    match s.imageBytes a (blockSize (leNat w0)) with
    | .error e => .error e
    | .ok (ks, bs, s') =>
      match ks with
      | [] => .ok (bs, s')
      | k :: _ => if ks = range k ks.length then .ok (s'.throughCache eng a k bs) else .ok (bs, s')

/-- n blocks that stand in the image from an address on. -/
def imageBlocks (s : State) (eng : Nat) (a : Word) : Nat → Except Nat (List (List Byte) × State)
  | 0 => .ok ([], s)
  | n + 1 =>
    match s.imageBlock eng a with
    | .error e => .error e
    | .ok (bs, s') =>
      match s'.imageBlocks eng (a + BitVec.ofNat 64 bs.length) n with
      | .error e => .error e
      | .ok (r, s'') => .ok (bs :: r, s'')

/-- The list of a stage as the image holds it now, of at most 64 blocks, each with the status it is to end with; where the image cannot be
read, the list that placement found, whose blocks end with that status (R267, R270). -/
def stageList (s : State) (eng v : Nat) : List (List Byte × Nat) × State :=
  let x := s.launch
  let part : Word := x.image + BitVec.ofNat 64 (x.parts.getD 4 (0, 0)).1
  let placed (e : Nat) : List (List Byte × Nat) := ((find? x.sched v).getD []).map (fun b => (b, e))
  if x.sched.isEmpty then ([], s)
  else
    match s.imageBytes (part + BitVec.ofNat 64 (8 * v)) 8 with
    | .error e => (placed e, s)
    | .ok (_, h, s') =>
      match s'.imageBlocks eng (part + BitVec.ofNat 64 (fieldAt h 0 4)) (min 64 (fieldAt h 4 4)) with
      | .error e => (placed e, s)
      | .ok (bs, s'') => (bs.map (fun b => (b, 0)), s'')

/-- The lists of some stages, in order. -/
def stageLists (s : State) (eng : Nat) (vs : List Nat) : List (List Byte × Nat) × State :=
  vs.foldl (fun acc v =>
    let y := acc.2.stageList eng (v % 256)
    (acc.1 ++ y.1, y.2)) ([], s)

/-! ## Checks of the elements (R265 step 5) -/

/-- The first failing access of a list. -/
def firstFail (xs : List (Except Fail Nat)) : Option Fail := xs.findSome? (fun r => match r with
  | .error f => some f
  | .ok _ => none)

/-- A TILE address in another package: what the issuer can tell of it (R265). -/
def remoteTile (a : Word) (n : Nat) : Except Fail Nat :=
  let off := tileWordOff a
  if bits a 63 31 ≠ 0 ∨ tileSize < off + n then .error ⟨0x05, a, false⟩
  else if off % n ≠ 0 then .error ⟨0x04, a, false⟩ else .ok off

/-- Every element of a LOCAL or TILE side, the mirror, and each MCAST tile, for an issuer's map. -/
def elementFault (s : State) (b : Block) (psz : Nat) : Option Fail :=
  let l := s.q.k.lnum
  let es := List.range b.count
  let src : List (Except Fail Nat) :=
    if b.rdir = 2 then []
    else es.flatMap (fun e => (b.reads e).map (fun p =>
      match b.sk with
      | 0 => s.localKey l s.tile psz true p.1 p.2
      | 3 => s.tileWordKey l p.1 p.2
      | _ => .ok 0))
  let dst : List (Except Fail Nat) :=
    if b.rdir = 1 then (if b.dk = 3 then es.map (fun e => remoteTile (b.dstAt e) b.bytes) else [])
    else es.flatMap (fun e =>
      match b.dk with
      | 0 => [s.localKey l s.tile psz false (b.dstAt e) b.bytes]
      | 3 =>
        if b.kind = 3 then (mcastTiles s.die b).map (fun t => s.mcastKey l s.die (b.dstAt e) t b.bytes)
        else [s.tileWordKey l (b.dstAt e) b.bytes]
      | _ => [])
  let mir : List (Except Fail Nat) :=
    if b.mb then es.map (fun e => s.localKey l s.tile psz false (BitVec.ofNat 64 (b.mboff + 4 * e)) 4) else []
  let tiles : List (Except Fail Nat) :=
    if b.kind = 3 then (mcastTiles s.die b).map (fun t =>
      if (s.footOf l).contains t then .ok 0 else .error ⟨0x0B, b.dst + BitVec.ofNat 64 (t % 2048 * 2 ^ 17), false⟩)
    else []
  firstFail (src ++ dst ++ mir ++ tiles)

/-! ## Levels and exchanges (R263, 03 R28, 21 R205, 39 R355) -/

/-- The smallest level that encloses two package tiles. -/
def tilesLevel (a b : Nat) : Level :=
  if a = b then .tile else if grpOf a = grpOf b then .group else if dieOf a = dieOf b then .die else .package

/-- The level of one side seen from the issuing tile. -/
def sideLevel (tile kind : Nat) (addrs : List Word) : Level :=
  match kind with
  | 0 => addrs.foldl (fun lv a => Level.max lv (match regionOf a.toNat with
      | .raw _ => .tile
      | .peer t _ => tilesLevel tile (grpOf tile * 16 + t)
      | .param _ => .tile
      | _ => .group)) .tile
  | 3 => addrs.foldl (fun lv a => Level.max lv (tilesLevel tile (tileWordTile a))) .tile
  | 2 => .die
  | _ => .package

/-- The level of a block's source and the level of the copy. -/
def blockLevels (tile : Nat) (b : Block) : Level × Level :=
  let es := List.range b.count
  let src := if b.rdir = 2 then .pod else sideLevel tile b.sk (es.flatMap (fun e => (b.reads e).map (·.1)))
  let dst := if b.kind = 3 then (mcastTiles (dieOf tile) b).foldl (fun lv t => Level.max lv (tilesLevel tile t)) .tile
    else sideLevel tile b.dk (es.map b.dstAt)
  (src, if b.rdir ≠ 0 then .pod else Level.max src dst)

/-- The exchanges that an operation posted now belongs to; a copy of the pod's level is none of the package's (39 R355). -/
def joinsNow (s : State) (l grp : Nat) (level : Level) (exch : Option Level) : List (Level × Word) :=
  let levels := [some level, exch].reduceOption.dedup.filter (fun lv => decide (1 ≤ lv.num) && !(level == .pod && lv == .package))
  levels.filterMap (fun lv =>
    let b := s.barOf l lv grp
    if b.exch then some (lv, b.count) else if exch = some lv then some (lv, b.count + 1) else none)

/-! ## Posting -/

/-- A die takes an operation into an engine's queue, numbered through a slot, with a token or none. -/
def enqueue (s : State) (op : CopyOp) (eng slot : Nat) (tok : Option Nat) (level : Level) (exch : Option Level) (desc : Lane)
    (hsrc hdst : Option Handle) (dests : List Nat) (status : Nat) : State :=
  let k := s.q.k
  let ctx := s.slotCtx slot
  let p := s.takeNumber slot
  let s := p.2
  let lv := s.effLevel k.lnum level
  let ex := exch.map (s.effLevel k.lnum)
  let d := s.dieAt s.die
  let c : Copy := { id := d.nextId, eng := eng, op := op, ctx := ctx, num := p.1, tok := tok, party := k.party, sq := s.cur,
                    lnum := k.lnum, space := s.launch.space, sec := k.sec, tile := s.tile, home := k.home, level := lv, desc := desc,
                    hsrc := hsrc, hdst := hdst, joins := s.joinsNow k.lnum s.grp lv ex, exch := ex, st := .waiting,
                    status := status, psz := bits (s.csr 0x081) 16 0, dests := dests, unsent := [], signalled := false, ep := s.epoch,
                    held := s.replayDue }
  let s := s.setDie s.die { d with copies := d.copies ++ [c], nextId := d.nextId + 1 }
  let s := match tok with
    | some t => s.addToken t
    | none => s
  { s with q := { s.q with sent := put s.q.sent k.lnum (look s.q.sent k.lnum + BitVec.ofNat 64 dests.length) } }

/-- Tiles whose counter SIG increments: of the target package for RDIR 1, of this one otherwise. -/
def sigTiles (s : State) (b : Block) : List Nat :=
  if !b.sig then []
  else if b.kind = 3 then mcastTiles s.die b
  else
    ((List.range b.count).map (fun e =>
      if b.dk = 3 then tileWordTile (b.dstAt e)
      else match regionOf (b.dstAt e).toNat with
        | .peer t _ => s.grp * 16 + t
        | _ => s.tile)).dedup

/-- Post a block that has passed its checks; `status`: a status it is to end with (R267). -/
def postBlock (s : State) (b : Block) (eng tok status : Nat) : State :=
  let lv := blockLevels s.tile b
  let ex : Option Level := if 1 ≤ lv.1.num then some lv.1 else none
  let hs := if b.sk = 2 then s.handleOf (fetchHandle b.src) else none
  let hd := if b.dk = 2 then s.handleOf (fetchHandle b.dst) else none
  s.enqueue (.block b) eng b.tls (some tok) lv.2 ex (s.lensOf b.lwin) hs hd (s.sigTiles b) status

/-- Step 4 for a block's bytes, with the bindings as they stand. -/
def blockOk (s : State) (b : Block) (bs : List Byte) (kind : Nat) : Bool :=
  b.ok bs kind s.die (s.lensOf b.lwin) (if b.sk = 2 then s.handleOf (fetchHandle b.src) else none)
    (if b.dk = 2 then s.handleOf (fetchHandle b.dst) else none)

/-- Unstarted operations of an engine. -/
def unstarted (s : State) (eng : Nat) : Nat := ((s.dieAt s.die).copies.filter (fun c => c.eng == eng && c.st == .waiting)).length

/-- What a posting waits for besides room: its issuer's earlier accesses, which it releases (R265); behind those that a station holds its
operation is posted held (19 R198). -/
def postHeld (s : State) : Bool := s.vectorStores || s.underWay s.q.k.lnum s.q.k.party

end State

/-- XCP, XMC, XRED and XAT (R265). -/
def postCopy (kind : Nat) (e : BitVec 4) (t : BitVec 3) (ra : BitVec 5) (s : State) : Res :=
  let a := s.x ra
  let r := regionOf a.toNat
  let inMap := match r with
    | .raw _ => true
    | .gmem _ => true
    | .param _ => true
    | .xlat => true
    | _ => false
  if a.toNat % 64 ≠ 0 then trapR s (.at 0x04 a)
  else if !inMap then trapR s (.at 0x05 a)
  else if look s.q.k.tok t.toNat = 0xFF#8 ∨ 1024 ≤ s.unstarted e.toNat ∨ s.postHeld then heldR s
  else
    match s.readBlock e.toNat a with
    | .error t => trapR s t
    | .ok (bs, s') =>
      let b := parseBlock bs
      if !s'.blockOk b bs kind then trapR s (.at 0x15 a)
      else
        match s'.elementFault b (bits (s.csr 0x081) 16 0) with
        | some f => trapR s f.trap
        | none => doneR (s'.postBlock b e.toNat t.toNat 0)

def execXcp (e : BitVec 4) (t : BitVec 3) (a : BitVec 5) (s : State) : Res := postCopy 0 e t a s
def execXmc (e : BitVec 4) (t : BitVec 3) (a : BitVec 5) (s : State) : Res := postCopy 3 e t a s
def execXred (e : BitVec 4) (t : BitVec 3) (a : BitVec 5) (s : State) : Res := postCopy 1 e t a s
def execXat (e : BitVec 4) (t : BitVec 3) (a : BitVec 5) (s : State) : Res := postCopy 2 e t a s

/-- Post one block of the static schedule: one that fails step 5 ends with status 6, an unbound handle with 13 (R267, R270). -/
def State.postScheduled (s : State) (eng tok : Nat) (bs : List Byte) (given : Nat) : State :=
  let b := parseBlock bs
  let unbound := (b.sk == 2 && (s.handleOf (fetchHandle b.src)).isNone) || (b.dk == 2 && (s.handleOf (fetchHandle b.dst)).isNone)
  let status := if given ≠ 0 then given
    else if unbound then 13
    else if !s.blockOk b bs b.kind then 6
    else if (s.elementFault b (bits (s.csr 0x081) 16 0)).isSome then 6 else 0
  s.postBlock b eng tok status

/-- XADV (R267). -/
def execXadv (e : BitVec 4) (t : BitVec 3) (ra : BitVec 5) (s : State) : Res :=
  let target := bits (s.x ra) 47 0
  let x := s.launch
  let sc := (look x.stageCtr s.die).toNat
  if target ≤ sc then doneR s
  else if 256 < target - sc then trapR s { code := 0x15 }
  else
    let r := s.stageLists e.toNat (range (sc + 1) (target - sc))
    let blocks := r.1
    if 255 < (look s.q.k.tok t.toNat).toNat + blocks.length ∨ 1024 < s.unstarted e.toNat + blocks.length ∨ s.postHeld then heldR s
    else
      let s := blocks.foldl (fun s b => s.postScheduled e.toNat t.toNat b.1 b.2) r.2
      doneR (s.mapLaunch (fun l => { l with stageCtr := put l.stageCtr s.die (BitVec.ofNat 48 target) }))

/-- PBINV (R266): the entry of the block is gone. -/
def execPbinv (e : BitVec 4) (ra : BitVec 5) (s : State) : Res :=
  let d := s.dieAt s.die
  let a := s.x ra
  doneR (s.setDie s.die { d with cache := d.cache.filter (fun c => !(c.eng == e.toNat && c.space == s.launch.space && c.addr == a)) })

/-! ## Waiting and status (R268, R269) -/

def execXtlw (t : BitVec 3) (a : BitVec 5) (s : State) : Res :=
  waitFor s (waitDesc 4 (s.slotCtx t.toNat) (bits (s.x a) 47 0)) id
def execXtlwTk (b : BitVec 5) (s : State) : Res := waitFor s (waitDesc 7 (bits (s.x b) 7 0) 0) id

/-- The first byte of a tile SRAM range outside the raw window. -/
def firstOutside (a : Word) : Word := if a.toNat < tileSize then BitVec.ofNat 64 tileSize else a

/-- The checks of a record of n bytes at raw tile SRAM, a multiple of `al` (R269, R272, 29 R282). -/
def rawFault (s : State) (a : Word) (n al : Nat) : Option Trap :=
  if a.toNat % al ≠ 0 then some (.at 0x04 a)
  else if tileSize < a.toNat + n then some (.at 0x05 (firstOutside a))
  else (s.outsideShare s.q.k.lnum s.tile a.toNat n).map (fun d => .at 0x0B (a + BitVec.ofNat 64 d))
def recordFault (s : State) (a : Word) : Option Trap := rawFault s a 32 32

/-- XFEN's status address: a store, which a frozen landing zone refuses too (03 R32). -/
def statusFault (s : State) (a : Word) : Option Trap :=
  match recordFault s a with
  | some t => some t
  | none => (s.frozenAt s.q.k.lnum s.grp 0 a.toNat 32).map (fun d => .at 0x08 (a + BitVec.ofNat 64 d))

/-- The status record's bytes (R269). -/
def CtxStatus.bytes (x : CtxStatus) : List Byte :=
  leBytes 8 x.first.toNat ++ leBytes 2 x.code ++ leBytes 2 x.errs ++ leBytes 4 0 ++ leBytes 8 x.cmp.toNat ++ leBytes 8 x.cmpf.toNat

def execXfen (t : BitVec 3) (ra : BitVec 5) (s : State) : Res :=
  let ctx := s.slotCtx t.toNat
  let a := s.x ra
  let n := match s.q.hold with
    | some (.fence n _) => n
    | _ => look (s.dieAt s.die).posted ctx
  match (if ra = 0#5 then none else statusFault s a) with
  | some t => trapR s t
  | none =>
    if (look (s.dieAt s.die).timeline ctx).toNat < n.toNat ∨ s.postHeld then .next (s.holdFor (.fence n false))
    else if ra = 0#5 then doneR s
    else if s.sourceHeld s.q.k.lnum (tileKey s.tile a.toNat) 32 then .next (s.holdFor (.fence n false))
    else
      doneR ((s.ownStore a.toNat (s.ctxStatus s.die ctx).bytes a).setCtxStatus s.die ctx CtxStatus.clear)

/-! ## The engine's accesses -/

namespace State

/-- The memory keys of n bytes at a source address; none: a byte that reads zero (19 R191, 27 R259). `e`: the element. -/
def sourceKeys (s : State) (die : Nat) (c : Copy) (b : Block) (e : Nat) (a : Word) (n : Nat) : Except Nat (List (Option Nat) × State) :=
  match b.sk with
  | 0 =>
    (match s.localKey c.lnum c.tile c.psz true a n with
      | .error _ => .error 6
      | .ok k => .ok ((List.range n).map (fun i => match regionOf a.toNat with
          | .param off => if off + i < c.psz then some (k + i) else none
          | _ => some (k + i)), s))
  | 3 =>
    (match s.tileWordKey c.lnum a n with
      | .error _ => .error 6
      | .ok k => .ok ((range k n).map some, s))
  | 1 =>
    (match s.virtKeys die c.space false a n with
      | .error e => .error e
      | .ok (ks, s') => .ok (ks.map some, s'))
  | _ =>
    match c.hsrc with
    | none => .error 13
    | some h =>
      let rc := b.tensorAt h b.src e
      if !h.inExtent rc.1 rc.2 then .ok (List.replicate n none, s)
      else if !(s.dieAt die).serves (h.part (h.blockOf rc.1 rc.2)) then .error 7
      else .ok ((range (h.elemKey die rc.1 rc.2) n).map some, s)

/-- A byte of a 4-bit tensor of odd width whose second column lies outside the extent (R259). -/
def halfIn (h : Option Handle) (b : Block) (a : Word) (e : Nat) : Bool :=
  h.any (fun h =>
    let rc := b.tensorAt h a e
    dWidth h.desc == 4 && h.inExtent rc.1 rc.2 && !h.inExtent rc.1 (rc.2 + 1))

/-- A byte of a copy's source: of memory inside an exchange's units, as it stood when the exchange phase began (21 R205). -/
def copyByte (s : State) (c : Copy) (key : Nat) : Byte :=
  let g := grpOf c.tile
  match c.exch with
  | some lv => if (s.openJoins c).contains lv then s.exchangeByte c.lnum lv (unitOf lv g) g key else look s.mem key
  | none => look s.mem key

/-- n bytes of a copy's source; one in error ends it with status 8 (43 R372). -/
def sourceBytes (s : State) (die : Nat) (c : Copy) (b : Block) (e : Nat) (a : Word) (n : Nat) : Except Nat (List Byte × State) :=
  match s.sourceKeys die c b e a n with
  | .error x => .error x
  | .ok (ks, s') =>
    if ks.any (fun k => k.any (fun k => s.isBad k 1)) then .error 8
    else .ok (ks.map (fun k => match k with
      | some k => if b.sk = 2 ∧ halfIn c.hsrc b b.src e then s.copyByte c k &&& 0x0F#8 else s.copyByte c k
      | none => 0#8), s')

/-- The value of element e of a source: its bytes and a status it adds (R259, R262). -/
def sourceElem (s : State) (die : Nat) (c : Copy) (b : Block) (e : Nat) : Except Nat (List Byte × Nat × State) :=
  let n := b.bytes
  if b.spx then
    let i0 := e % max (b.ext.headD 1) 1
    let g := i0 / 4
    match s.sourceBytes die c b e (b.spxMeta e g) 1 with
    | .error x => .error x
    | .ok (m, s1) =>
      let nib := leNat m / 16 ^ (g % 2) % 16
      let p := nib % 4
      let q := nib / 4
      let zero : List Byte := List.replicate n 0
      if q ≤ p then .ok (zero, 10, s1)
      else if i0 % 4 ≠ p ∧ i0 % 4 ≠ q then .ok (zero, 0, s1)
      else
        match s1.sourceBytes die c b e (b.spxValue e (2 * g + (if i0 % 4 = p then 0 else 1))) n with
        | .error x => .error x
        | .ok (v, s2) => .ok (v, 0, s2)
  else
    match s.sourceBytes die c b e (b.srcAt e) n with
    | .error x => .error x
    | .ok (v, s1) => .ok (v, 0, s1)

/-- The party that an engine context is for the ordering rules (21 R204, 23 R222). -/
def ctxParty (die ctx : Nat) : Nat := 2 ^ 40 + die * 4096 + ctx

/-- A copy's early-path write (R263): the exchanges that it belongs to read it, and those open outside its level the bytes as they were
(21 R205). -/
def engineWrite (s : State) (die : Nat) (c : Copy) (key : Nat) (bs : List Byte) (kind : Nat) (addr : Word) : State :=
  let g := grpOf c.tile
  let n := bs.length
  (s.openJoins c).foldl (fun s lv => s.forgetBefore c.lnum lv (unitOf lv g) key n)
    ((s.noteBefore c.lnum g (Level.max .group c.level) key n).earlyWrite c.lnum (ctxParty die c.ctx) g key bs kind addr)

/-- The bytes that the code of one element takes in a packet: a 4-bit code has a byte of its own (log 69). -/
def packedBytes (desc : Lane) : Nat := max 1 (dWidth desc / 8)

/-- The contribution of a REDUCE through a lens (R261): its code, which a remote target decodes, or here the value it decodes to; the
mirror takes the residual. -/
def lensElem (s : State) (die : Nat) (c : Copy) (b : Block) (e : Nat) (v : List Byte) : Except Nat (List Byte × State) :=
  let mk := tileKey c.tile (b.mboff + 4 * e)
  if b.mb ∧ s.isBad mk 4 then .error 8
  else
    let r : Lane := if b.mb then BitVec.ofNat 32 (s.peekNat mk 4) else 0
    let t := (add32 .rne false (BitVec.ofNat 32 (leNat v)) r).1
    let code := (encode32 c.desc 127 none t).1
    let x := (decode32 c.desc code 127).1
    let s := if b.mb then s.engineWrite die c mk (leBytes 4 (add32 .rne false t (x ^^^ 0x80000000#32)).1.toNat) 0 (BitVec.ofNat 64 (b.mboff + 4 * e))
      else s
    .ok (if b.rdir = 1 then leBytes (packedBytes c.desc) code else leBytes 4 x.toNat, s)

/-- Read a whole source: elements (index, bytes), and the first status met. -/
def readSource (die : Nat) (c : Copy) (b : Block) : List Nat → List (Nat × List Byte) → Nat → State → List (Nat × List Byte) × Nat × State
  | [], acc, st, s => (acc, st, s)
  | e :: es, acc, st, s =>
    match s.sourceElem die c b e with
    | .error x => readSource die c b es acc (if st = 0 then x else st) s
    | .ok (v, x, s1) =>
      let st := if st = 0 then x else st
      if b.lwin = 0 then readSource die c b es (acc ++ [(e, v)]) st s1
      else
        match s1.lensElem die c b e v with
        | .error y => readSource die c b es acc (if st = 0 then y else st) s1
        | .ok r => readSource die c b es (acc ++ [(e, r.1)]) st r.2

end State

/-! ## Cutting a remote copy into packets (28 R276) -/

/-- Runs of elements whose addresses are contiguous, each within one 256-byte block of them: address, elements, bytes. `n`: bytes of an
element at the address. -/
def runsOf (n : Nat) : List (Nat × Word × List Byte) → List (Word × List Nat × List Byte) → List (Word × List Nat × List Byte)
  | [], acc => acc.reverse
  | (e, a, v) :: r, acc =>
    match acc with
    | (a0, es, bs) :: t =>
      if a = a0 + BitVec.ofNat 64 (n * es.length) ∧ a0.toNat / 256 = (a.toNat + n - 1) / 256 then runsOf n r ((a0, es ++ [e], bs ++ v) :: t)
      else runsOf n r ((a, [e], v) :: (a0, es, bs) :: t)
    | [] => runsOf n r [(a, [e], v)]

/-- The runs of a write, cut by bytes: none crosses a 256-byte boundary of its target address (25 R238). -/
def byteRuns (xs : List (Nat × Word × List Byte)) : List (Word × List Nat × List Byte) :=
  (runsOf 1 (xs.flatMap (fun x => ((List.range x.2.2.length).zip x.2.2).map (fun y => (x.1, x.2.1 + BitVec.ofNat 64 y.1, [y.2])))) []).map
    (fun r => (r.1, r.2.1.dedup, r.2.2))

/-- The bytes of one source row of a sparse copy (R262), of all rows, and the address of byte i of them. -/
def Block.rowBytes (b : Block) : Nat := 2 ^ b.esz * (b.ext.headD 0 / 2) + (b.ext.headD 0 + 7) / 8
def Block.rawBytes (b : Block) : Nat := b.count / max (b.ext.headD 1) 1 * b.rowBytes
def Block.rawAt (b : Block) (i : Nat) : Word :=
  b.spxRow (i / max b.rowBytes 1 * max (b.ext.headD 1) 1) + BitVec.ofNat 64 (i % max b.rowBytes 1)

/-- The packets of a remote copy in order, with the elements that each serves. -/
def State.cutCopy (s : State) (c : Copy) (b : Block) (space : Nat) (data : List (Nat × List Byte)) : List (Packet × List Nat) :=
  let tileSide := if b.rdir = 2 then b.sk == 3 else b.dk == 3
  let die := dieOf c.tile
  let base (kind : Nat) (a : Word) (bs : List Byte) : Packet :=
    { blankPacket kind bs with
      dst := BitVec.ofNat 16 b.rpkg, ctx := BitVec.ofNat 16 (die * 4096 + c.ctx), addr := a.truncate 56,
      spid := BitVec.ofNat 16 space, dkind := if tileSide then 1 else 0 }
  let contribution (a : Word) (bs : List Byte) (op : Nat) : Packet :=
    let w := s.windowAt b.rpkg a
    { base 5 a bs with
      op := BitVec.ofNat 8 op, win := (match w with
        | some (n, _) => BitVec.ofNat 8 n
        | none => 0xFF),
      cidx := (match w with
        | some (_, x) => BitVec.ofNat 16 (x.members.idxOf s.index)
        | none => 0),
      lens := if b.lwin = 0 then 0 else c.desc,
      rnd := (s.barOf c.lnum .pod (grpOf c.tile)).count.truncate 16 }
  let ps : List (Packet × List Nat) :=
    if b.rdir = 2 ∧ b.spx then
      (runsOf 1 ((List.range b.rawBytes).map (fun i => (i, b.rawAt i, [(0 : Byte)]))) []).map (fun r => (base 1 r.1 r.2.2, r.2.1))
    else if b.rdir = 2 then
      (runsOf b.bytes ((List.range b.count).map (fun e => (e, b.srcAt e, List.replicate b.bytes 0))) []).map (fun r =>
        (base 1 r.1 r.2.2, r.2.1))
    else if b.kind = 1 then
      -- cut as a COPY is, but that the codes of a lens stand one for an element
      (if b.lwin = 0 then byteRuns (data.map (fun p => (p.1, b.dstAt p.1, p.2)))
        else runsOf b.bytes (data.map (fun p => (p.1, b.dstAt p.1, p.2))) []).map (fun r => (contribution r.1 r.2.2 b.rop, r.2.1))
    else if b.kind = 2 then
      data.map (fun p =>
        let a := b.dstAt p.1
        let w := s.windowAt b.rpkg a
        let addOp : Nat := if b.rop = 0 then (if b.esz = 2 then 0 else 1) else (if b.esz = 2 then 2 else 3)
        if (b.rop = 0 ∨ b.rop = 10) ∧ w.any (fun x => x.2.op == addOp) then (contribution a p.2 addOp, [p.1])
        else ({ base 3 a p.2 with op := BitVec.ofNat 8 b.rop }, [p.1]))
    else (byteRuns (data.map (fun p => (p.1, b.dstAt p.1, p.2)))).map (fun r => ({ base 0 r.1 r.2.2 with of := b.of }, r.2.1))
  ((List.range ps.length).zip ps).map (fun p => ({ p.2.1 with lane := BitVec.ofNat 2 (p.1 % b.lanes) }, p.2.2))

/-- The signals of a copy of RDIR 1 that SIG completes: one control packet for each destination tile, whose CIDX names the counter
(R263, log 147). -/
def Copy.signals (c : Copy) (b : Block) : List (Packet × List Nat) :=
  c.dests.map (fun t =>
    let a := (((List.range b.count).map b.dstAt).find? (fun a => tileWordTile a == t)).getD 0
    ({ blankPacket 7 [] with
        dst := BitVec.ofNat 16 b.rpkg, ctx := BitVec.ofNat 16 (dieOf c.tile * 4096 + c.ctx), addr := a.truncate 56, op := 1,
        cidx := BitVec.ofNat 16 b.mcn, dkind := 1 }, []))

/-! ## Starting (R263, R32, R205) -/

namespace State

def setCopies (s : State) (die : Nat) (f : List Copy → List Copy) : State :=
  let d := s.dieAt die
  s.setDie die { d with copies := f d.copies }
def putCopy (s : State) (die : Nat) (c : Copy) : State := s.setCopies die (fun cs => cs.map (fun x => if x.id = c.id then c else x))
def copyAt (s : State) (die id : Nat) : Option Copy := (s.dieAt die).copies.find? (fun c => c.id == id)

/-- A range of a memory lies in a zone of an open exchange that the copy is no part of (03 R32). -/
def zoneHolds (s : State) (c : Copy) (grp memory lo n : Nat) : Bool :=
  (s.launchAt c.lnum).zones.any (fun z =>
    let lv := s.effLevel c.lnum z.lv
    let bar := s.barOf c.lnum lv grp
    z.memory == memory && decide (z.start < lo + n) && decide (lo < z.start + z.size) && bar.exch
    && !(unitOf lv grp == unitOf lv (grpOf c.tile) && c.joins.contains (lv, bar.count)))

/-- A key of tile or group memory as a zone names it. -/
def keyHeld (s : State) (c : Copy) (k n : Nat) : Bool :=
  match keyTile k, keyGroup k with
  | some t, _ => s.zoneHolds c (grpOf t) 0 (k % 2 ^ 17) n
  | none, some g => s.zoneHolds c g 1 (k % 2 ^ 20) n
  | none, none => false

/-- A frozen zone holds a copy back. -/
def copyFrozen (s : State) (c : Copy) (b : Block) : Bool :=
  let g := grpOf c.tile
  let side (kind : Nat) (source : Bool) (a : Word) (n : Nat) : Bool :=
    match kind with
    | 0 => (s.localKey c.lnum c.tile c.psz source a 1).toOption.any (fun k => s.keyHeld c k n)
    | 3 => (s.tileWordKey c.lnum a 1).toOption.any (fun k => s.keyHeld c k n)
    | 2 => s.zoneHolds c g 2 (fetchHandle a) 1
    | _ => s.zoneHolds c g 3 a.toNat n
  (List.range b.count).any (fun e =>
    (b.rdir != 2 && (if b.sk = 2 then side 2 true b.src 1 else (b.reads e).any (fun p => side b.sk true p.1 p.2)))
    || (b.rdir != 1 && (
      if b.kind = 3 then (mcastTiles (dieOf c.tile) b).any (fun t => s.keyHeld c (tileKey t (tileWordOff (b.dstAt e))) b.bytes)
      else side b.dk false (if b.dk = 2 then b.dst else b.dstAt e) b.bytes)))

/-- Lower-numbered copies of a context. -/
def lower (s : State) (die : Nat) (c : Copy) : List Copy :=
  (s.dieAt die).copies.filter (fun x => x.ctx == c.ctx && decide (x.num.toNat < c.num.toNat))

/-- Nothing holds a waiting copy back. -/
def canStart (s : State) (die : Nat) (c : Copy) (b : Block) : Bool :=
  c.st == .waiting && !c.held
  && c.exch.all (fun lv => s.exchOpen c.lnum lv (grpOf c.tile))
  && !s.copyFrozen c b
  && (b.rdir == 0 || s.remote c.lnum b.rpkg != .waits)
  && (!b.of || b.rdir != 1 || (s.lower die c).all (fun x => x.block.all (·.rdir == 0) || (x.st != .waiting && x.unsent.isEmpty)))

/-- A waiting copy may start: its engine starts its copies in the order of acceptance, and one that has to wait holds back no other (R263,
R265, log 191). -/
def mayStart (s : State) (die : Nat) (c : Copy) (b : Block) : Bool :=
  s.canStart die c b
  && (s.dieAt die).copies.all (fun x => x.eng != c.eng || decide (c.id ≤ x.id) || !x.block.any (s.canStart die x))

/-- A copy gives counts of signals sent back that no tile will receive (03 R48). -/
def signalsLost (s : State) (c : Copy) (n : Nat) : State :=
  let q := s.seqAt c.sq
  s.setSeq c.sq { q with sent := put q.sent c.lnum (look q.sent c.lnum - BitVec.ofNat 64 n) }

/-- A tile has been sent its signal already: a copy whose signals go on from there ends in no error (R263, log 204). -/
def counting (c : Copy) : Bool := c.signalled && decide (c.unsent.length < c.dests.length)

/-- Packets leave while the context has room toward the target (25 R243); signals one by one. -/
def pumpCopy (die id : Nat) : Nat → State → State
  | 0, s => s
  | n + 1, s =>
    match s.copyAt die id with
    | none => s
    | some c =>
      match c.unsent, c.st with
      | (p, es) :: r, .started data out =>
        -- an excluded package's operations end with outcome 4 (25 R250)
        if c.signalled ∧ !out.isEmpty then s
        else if s.keyRevoked c.lnum p.dst.toNat then
          (if counting c then (s.putCopy die { c with unsent := [] }).signalsLost c c.unsent.length
            else s.putCopy die { c with unsent := [], status := if c.status = 0 then 4 else c.status })
        else if 4096 ≤ s.unacked die c.ctx p.dst.toNat then s
        else
          let oseq := (find? s.oseq (pairKey die c.ctx p.dst.toNat)).getD 1
          let s := s.putCopy die { c with unsent := r, st := .started data (out ++ [oseq]) }
          pumpCopy die id n (s.sendPacket c.lnum die (some id) es p)
      | _, _ => s

/-- Every started copy of a context sends what it can, in the order of its numbers. -/
def pumpCtx (s : State) (die ctx : Nat) : State :=
  ((s.dieAt die).copies.filter (fun c => c.ctx == ctx)).foldl (fun s c => pumpCopy die c.id (c.unsent.length) s) s

/-- The ranges that a copy reads are remembered for the exchanges it belongs to (21 R205, 39 R357). -/
def markReads (s : State) (die : Nat) (c : Copy) : State :=
  let g := grpOf c.tile
  let rs := (s.copySource die c).map (fun p => (p.1, p.2, g))
  (s.openJoins c).foldl (fun s lv =>
    let b := s.barOf c.lnum lv g
    s.setBar c.lnum lv (unitOf lv g) { b with reads := b.reads ++ rs }) s

/-- The elements of a copy in error that are written, the others keeping their old values (R270); the zeros of R262 are always written. -/
def survivors (b : Block) (status : Nat) (data : List (Nat × List Byte)) (s : State) : List (Nat × List Byte) × State :=
  if status = 0 then (data, s)
  else if b.of then ([], s)
  else data.foldl (fun (acc : List (Nat × List Byte) × State) p =>
    if b.spx ∧ status = 10 ∧ p.2.all (· == 0) then (acc.1 ++ [p], acc.2)
    else
      let s := acc.2
      (if Config.keepsOld s.free then acc.1 else acc.1 ++ [p], { s with free := s.free + 1 })) ([], s)

/-- A copy starts: its source is read, or its packets leave (R263). -/
def startCopy (s : State) (die : Nat) (c : Copy) (b : Block) : State :=
  if c.status ≠ 0 then s.putCopy die { c with st := .started [] [] }
  else if b.rdir = 0 then
    let s := s.markReads die c
    let r := readSource die c b (List.range b.count) [] 0 s
    r.2.2.putCopy die { c with st := .started r.1 [], status := r.2.1 }
  else
    match s.copyRefused c b, s.remote c.lnum b.rpkg with
    | some code, _ => s.putCopy die { c with st := .started [] [], status := code }
    | none, .space space =>
      if b.rdir = 2 then
        (s.putCopy die { c with st := .started [] [], unsent := s.cutCopy c b space [] }).pumpCtx die c.ctx
      else
        let s := s.markReads die c
        let r := readSource die c b (List.range b.count) [] 0 s
        let y := survivors b r.2.1 r.1 r.2.2
        (y.2.putCopy die { c with st := .started y.1 [], unsent := y.2.cutCopy c b space y.1, status := r.2.1 }).pumpCtx die c.ctx
    | none, _ => s

end State

/-- COPY_START. -/
def execCopyStart (die : BitVec 3) (id : Nat) (s : State) : Res :=
  match s.copyAt die.toNat id with
  | none => .fault .notEnabled
  | some c =>
    match c.block with
    | none => .fault .notEnabled
    | some b => if s.mayStart die.toNat c b then .next (s.startCopy die.toNat c b) else .fault .notEnabled

/-! ## Completing the token (R254) -/

/-- A copy's source may be reused: its reads and returns are done. -/
def Copy.sourceDone (c : Copy) : Bool :=
  match c.st, c.op with
  | .started _ out, .block b =>
    -- a remote read writes its mirror as it is performed (R261)
    if b.rdir = 0 then !b.ret else if b.rdir = 2 then !b.mb && out.isEmpty && c.unsent.isEmpty
    else if b.ret then out.isEmpty && c.unsent.isEmpty else true
  | _, _ => false

/-- TOKEN_COMPLETE. -/
def execTokenComplete (die : BitVec 3) (id : Nat) (s : State) : Res :=
  match s.copyAt die.toNat id with
  | none => .fault .notEnabled
  | some c =>
    match c.tok with
    | none => .fault .notEnabled
    | some t =>
      if c.sourceDone then .next ((s.putCopy die.toNat { c with tok := none }).dropToken (grpOf c.tile) c.party t)
      else .fault .notEnabled

/-! ## Performing (R260, R263, R270) -/

namespace State

/-- The keys of a destination element, or the status that it ends its copy with. `t`: the tile of a MCAST. -/
def destKeys (s : State) (die : Nat) (c : Copy) (b : Block) (e : Nat) (t : Option Nat) : Except Nat (List Nat × State) :=
  let n := b.bytes
  let a := b.dstAt e
  match b.dk with
  | 0 =>
    (match s.localKey c.lnum c.tile c.psz false a n with
      | .error _ => .error 6
      | .ok k => .ok (range k n, s))
  | 3 =>
    (match (match t with
        | some t => s.mcastKey c.lnum die a t n
        | none => s.tileWordKey c.lnum a n) with
      | .error _ => .error 6
      | .ok k => .ok (range k n, s))
  | 1 => s.virtKeys die c.space true a n
  | _ =>
    match c.hdst with
    | none => .error 13
    | some h =>
      let rc := b.tensorAt h b.dst e
      if !h.inExtent rc.1 rc.2 then .error 9
      else if !(s.dieAt die).serves (h.part (h.blockOf rc.1 rc.2)) then .error 7
      else .ok (range (h.elemKey die rc.1 rc.2) n, s)

/-- The targets of the elements in order: (element, bytes, keys), and the first status met. -/
def resolve (die : Nat) (c : Copy) (b : Block) : List (Nat × List Byte × Option Nat) → List (Nat × List Byte × List Nat) → Nat → State →
    List (Nat × List Byte × List Nat) × Nat × State
  | [], acc, st, s => (acc, st, s)
  | (e, v, t) :: r, acc, st, s =>
    match s.destKeys die c b e t with
    | .error x => resolve die c b r acc (if st = 0 then x else st) s
    | .ok (ks, s') =>
      if (b.kind = 1 ∨ b.kind = 2) ∧ ks.any (fun k => s'.isBad k 1) then resolve die c b r acc (if st = 0 then 8 else st) s'
      else if b.dk = 2 ∧ halfIn c.hdst b b.dst e then
        -- the second column's write is discarded (R259)
        let v' := (v.zip ks).map (fun p => (look s'.mem p.2 &&& 0xF0#8) ||| (p.1 &&& 0x0F#8))
        resolve die c b r (acc ++ [(e, v', ks)]) (if st = 0 then 9 else st) s'
      else resolve die c b r (acc ++ [(e, v, ks)]) st s'

/-- The operators of REDUCE (25 R247). -/
def reduceNew (op n old v : Nat) : Nat :=
  match op with
  | 0 => amoNew 0 4 old v
  | 1 => amoNew 0 8 old v
  | 2 => amoNew 10 4 old v
  | 3 => amoNew 10 8 old v
  | 4 => amoNew 4 n old v
  | _ => amoNew 5 n old v

/-- Write bytes to keys, as one write where they are consecutive. -/
def writeKeys (s : State) (die : Nat) (c : Copy) (ks : List Nat) (bs : List Byte) (kind : Nat) (addr : Word) : State :=
  match ks with
  | [] => s
  | k :: _ =>
    if ks = range k ks.length then s.engineWrite die c k bs kind addr
    else (ks.zip bs).foldl (fun s p => s.engineWrite die c p.1 [p.2] kind addr) s

/-- One destination element takes its value; RET puts the old one back (R260). -/
def writeElem (s : State) (die : Nat) (c : Copy) (b : Block) (x : Nat × List Byte × List Nat) : State :=
  let n := b.bytes
  let old := leNat (x.2.2.map (look s.mem))
  let v := leNat x.2.1
  let a := if b.dk = 2 then b.dst else b.dstAt x.1
  match b.kind with
  | 1 => s.writeKeys die c x.2.2 (leBytes n (reduceNew b.rop n old v)) (if b.rop = 2 ∨ b.rop = 3 then 2 else 0) a
  | 2 =>
    let s := s.writeKeys die c x.2.2 (leBytes n (amoNew b.rop n old v)) (if b.rop = 10 then 2 else 0) a
    if b.ret then (match s.localKey c.lnum c.tile c.psz true (b.srcAt x.1) n with
      | .ok k => s.engineWrite die c k (leBytes n old) 0 (b.srcAt x.1)
      | .error _ => s) else s
  | _ => s.writeKeys die c x.2.2 x.2.1 0 a

/-- The elements of a copy that ends in error are each wholly old or wholly new (R270), but for the zeros of R262; a flag is not performed
(R263). -/
def writeSome (s : State) (die : Nat) (c : Copy) (b : Block) (status : Nat) (x : Nat × List Byte × List Nat) : State :=
  if status = 0 then s.writeElem die c b x
  else if b.of then s
  else if b.spx ∧ status = 10 ∧ x.2.1.all (· == 0) then s.writeElem die c b x
  else if Config.keepsOld s.free then { s with free := s.free + 1 }
  else { s.writeElem die c b x with free := s.free + 1 }

/-- The destination writes of a copy, in ascending element order: the state and the status. -/
def writeCopy (s : State) (die : Nat) (c : Copy) (b : Block) (data : List (Nat × List Byte)) : State × Nat :=
  let xs : List (Nat × List Byte × Option Nat) :=
    if b.kind = 3 then data.flatMap (fun p => (mcastTiles die b).map (fun t => (p.1, p.2, some t)))
    else data.map (fun p => (p.1, p.2, none))
  let r := resolve die c b xs [] c.status s
  (r.1.foldl (fun s x => s.writeSome die c b r.2.1 x) r.2.2, r.2.1)

/-- Elements in ascending order, whatever the order in which they came (R259, R261). -/
def byElement (n : Nat) (data : List (Nat × List Byte)) : List (Nat × List Byte) :=
  (List.range n).filterMap (fun e => data.find? (fun p => p.1 == e))

/-- The elements of a remote read from what came back, all of it or, in error, a part: sparse rows are expanded (R262), and a lens is
applied (R261). -/
def arrived (s : State) (die : Nat) (c : Copy) (b : Block) (data : List (Nat × List Byte)) : List (Nat × List Byte) × Nat × State :=
  let es := List.range b.count
  if b.spx then
    let byte (i : Nat) : Byte := ((data.find? (fun p => p.1 == i)).map (fun p => p.2.headD 0)).getD 0
    let came (i n : Nat) : Bool := (range i n).all (fun j => data.any (fun p => p.1 == j))
    let whole (e : Nat) : Bool :=
      let row := e / max (b.ext.headD 1) 1 * b.rowBytes
      let g := e % max (b.ext.headD 1) 1 / 4
      came (row + b.bytes * (b.ext.headD 0 / 2) + g / 2) 1 && came (row + b.bytes * (2 * g)) (2 * b.bytes)
    let es := es.filter whole
    let e0 := max (b.ext.headD 1) 1
    let elem (e : Nat) : List Byte × Bool :=
      let row := e / e0 * b.rowBytes
      let g := e % e0 / 4
      let nib := (byte (row + b.bytes * (b.ext.headD 0 / 2) + g / 2)).toNat / 16 ^ (g % 2) % 16
      let value (j : Nat) : List Byte := (range (row + b.bytes * j) b.bytes).map byte
      if nib / 4 ≤ nib % 4 then (List.replicate b.bytes 0, true)
      else if e % 4 = nib % 4 then (value (2 * g), false)
      else if e % 4 = nib / 4 then (value (2 * g + 1), false)
      else (List.replicate b.bytes 0, false)
    (es.map (fun e => (e, (elem e).1)), if es.any (fun e => (elem e).2) then 10 else 0, s)
  else if b.lwin = 0 then (byElement b.count data, 0, s)
  else (byElement b.count data).foldl (fun acc p =>
    match acc.2.2.lensElem die c b p.1 p.2 with
    | .error x => (acc.1, if acc.2.1 = 0 then x else acc.2.1, acc.2.2)
    | .ok (v, s') => (acc.1 ++ [(p.1, v)], acc.2.1, s')) ([], 0, s)

/-- A local copy that SIG completes: the counters of its destination tiles, and their received counts (R263, 03 R48). -/
def signalDone (s : State) (c : Copy) (b : Block) : State :=
  if b.rdir = 1 then s else c.dests.foldl (fun s t =>
    let s := s.addCounter t c.sec b.mcn 1
    let q := s.seqAt (3 * t)
    s.setSeq (3 * t) { q with received := put q.received c.lnum (look q.received c.lnum + 1) }) s

/-- A copy ends: token, counters, status and timeline; one in error takes its sent counts back. -/
def finishCopy (s : State) (die : Nat) (c : Copy) (b : Block) (status : Nat) : State :=
  let s := match c.tok with
    | some t => s.dropToken (grpOf c.tile) c.party t
    | none => s
  let s := if status = 0 then s.signalDone c b else s.signalsLost c c.dests.length
  (s.setCopies die (fun cs => cs.filter (fun x => x.id ≠ c.id))).endNumbered die c.ctx c.num status

end State

/-- Bytes that an open exchange reads, which is none of the copy's own, hold its writes back (21 R205). -/
def State.writesHeld (s : State) (die : Nat) (c : Copy) (b : Block) : Bool :=
  let mine := s.openJoins c
  let reads := (s.openReads c.lnum).filter (fun r => !mine.contains r.1)
  b.rdir != 1 && !reads.isEmpty && (List.range b.count).any (fun e =>
    (if b.kind = 3 then (mcastTiles die b).map some else [none]).any (fun t =>
      match s.destKeys die c b e t with
      | .error _ => false
      | .ok (ks, _) => ks.any (fun k => reads.any (fun r => overlaps r.2.1 r.2.2.1 k 1))))

/-- COPY_PERFORMED. A zone that has been frozen since the copy's start holds it too (03 R32). -/
def execCopyPerformed (die : BitVec 3) (id : Nat) (s : State) : Res :=
  match s.copyAt die.toNat id with
  | none => .fault .notEnabled
  | some c =>
    match c.block, c.st with
    | some b, .started data out =>
      if !out.isEmpty || !c.unsent.isEmpty || (b.of && b.rdir != 1 && !(s.lower die.toNat c).isEmpty) || s.writesHeld die.toNat c b
          || (b.rdir != 1 && s.copyFrozen c b) then
        .fault .notEnabled
      else if b.rdir = 1 ∧ b.sig ∧ c.status = 0 ∧ !c.signalled then
        .next ((s.putCopy die.toNat { c with signalled := true, unsent := c.signals b }).pumpCtx die.toNat c.ctx)
      else
        let r :=
          if b.rdir = 1 then (s, c.status)
          else if b.rdir = 2 then
            let a := s.arrived die.toNat c b data
            a.2.2.writeCopy die.toNat { c with status := if c.status = 0 then a.2.1 else c.status } b a.1
          else s.writeCopy die.toNat c b data
        .next (r.1.finishCopy die.toNat c b r.2)
    | _, _ => .fault .notEnabled

end Sys2Proof.Machine
end

