-- ==== Sys2Proof/Machine/TensorStore.lean ====
section
/-! DEFINITION. Handle bindings and the tensor store's in-memory operations (27 R271-R274, 19 R192 R193). -/

namespace Sys2Proof.Machine

/-! ## Range words (R271) -/

def rangeHandle (w : Word) : Nat := bits w 11 0
def rangeFirst (w : Word) : Nat := bits w 37 12
def rangeCount (w : Word) : Nat := bits w 63 38

/-- The handle of a range word whose blocks lie in its extent. -/
def State.rangeOf (s : State) (w : Word) (count : Nat) : Option Handle :=
  match s.handleOf (rangeHandle w) with
  | none => none
  | some h => if count = 0 ∨ h.blocks < rangeFirst w + count then none else some h

/-- Posting an in-memory operation (R273): checks, holds, numbering. -/
def postMemoryOp (s : State) (e : BitVec 4) (slot : BitVec 3) (op : Option CopyOp) : Res :=
  match op with
  | none => trapR s { code := 0x15 }
  | some op =>
    if 1024 ≤ s.unstarted e.toNat ∨ s.postHeld then heldR s
    else doneR (s.enqueue op e.toNat slot.toNat none .tile none 0 none none [] 0)

def execTsz (e : BitVec 4) (t : BitVec 3) (a : BitVec 5) (s : State) : Res :=
  let w := s.x a
  postMemoryOp s e t ((s.rangeOf w (rangeCount w)).map (fun h => .tsz h (rangeFirst w) (rangeCount w)))

/-- The two handles of TSC and TSCMP. -/
def State.rangePair (s : State) (a b : Word) : Option (Handle × Handle) :=
  if rangeCount b ≠ 0 then none
  else match s.rangeOf a (rangeCount a), s.rangeOf b (rangeCount a) with
    | some h, some h2 => some (h, h2)
    | _, _ => none

def execTsc (e : BitVec 4) (t : BitVec 3) (a b : BitVec 5) (s : State) : Res :=
  let w := s.x a
  let v := s.x b
  postMemoryOp s e t ((s.rangePair w v).map (fun p => .tsc p.1 (rangeFirst w) (rangeCount w) p.2 (rangeFirst v)))
def execTscmp (e : BitVec 4) (t : BitVec 3) (a b : BitVec 5) (s : State) : Res :=
  let w := s.x a
  let v := s.x b
  postMemoryOp s e t
    ((s.rangePair w v).map (fun p => .tscmp p.1 (rangeFirst w) (rangeCount w) p.2 (rangeFirst v) (rangeHandle w)))

/-! ## TSF (R274) -/

/-- An operation reaches the tensor store. -/
def Copy.tensor (c : Copy) : Bool :=
  match c.op with
  | .block b => (b.sk == 2 && b.rdir != 2) || (b.dk == 2 && b.rdir != 1)
  | _ => true

/-- A tensor-store access of a continuation is not complete. -/
def State.tensorOpen (s : State) : Bool :=
  let p := s.q.k.party
  (s.dieAt s.die).copies.any (fun c => c.party == p && c.tensor)
  || s.everySeq.any (fun q => grpOf (tileOf q.1) == s.grp && q.2.mq.any (fun e => e.party == p && (match e.op with
      | .fts _ _ => true
      | _ => false)))

def execTsf (s : State) : Res := if s.tensorOpen then heldR s else doneR s

/-! ## Bindings (R272) -/

/-- The record of THB. -/
def parseHandle (bs : List Byte) (lnum : Nat) : Handle :=
  { desc := BitVec.ofNat 32 (fieldAt bs 0 4), first := fieldAt bs 4 4 % 64, count := fieldAt bs 4 4 / 64 % 128,
    rows := fieldAt bs 8 8 % 2 ^ 26, cols := fieldAt bs 8 8 / 2 ^ 26 % 2 ^ 26, base := fieldAt bs 16 4 % 2 ^ 25, lnum := lnum,
    tree := none }

/-- A field keeps its limit. -/
def handleFieldsOk (bs : List Byte) (h : Handle) : Bool :=
  h.desc != 0#32 && !dImpossible h.desc && decide (1 ≤ h.count) && decide (h.count ≤ 64) && fieldAt bs 4 4 / 2 ^ 13 == 0
  && decide (1 ≤ h.rows) && decide (1 ≤ h.cols) && fieldAt bs 8 8 / 2 ^ 52 == 0 && h.base % 512 == 0 && fieldAt bs 16 4 / 2 ^ 25 == 0
  && fieldAt bs 20 12 == 0

/-- The end of a handle's last block in the i-th partition of its set; none: no block lies there. -/
def Handle.endIn (h : Handle) (i : Nat) : Option Nat :=
  if i < h.blocks then some (h.base + ((h.blocks - 1 - i) / h.count + 1) * h.slotSize) else none

/-- Every block slot lies below a size in each partition of the set that holds one, and the partition passes a test. -/
def Handle.fits (h : Handle) (size : Nat) (p : Nat → Bool) : Bool :=
  (List.range h.count).all (fun i => match h.endIn i with
    | none => true
    | some e => decide (e ≤ size) && p ((h.first + i) % 64))

def execThb (a b : BitVec 5) (s : State) : Res :=
  let adr := s.x a
  let n := bits (s.x b) 11 0
  match recordFault s adr with
  | some t => trapR s t
  | none =>
    let key := tileKey s.tile adr.toNat
    if s.vectorStores then heldR s
    else if s.signalBad key 32 then trapR s (.at 0x14 adr)
    else
      let bs := s.signalPeek key 32
      let h := parseHandle bs s.q.k.lnum
      let d := s.dieAt s.die
      let sp : Option Space := find? s.spaces s.launch.space
      if (find? d.handles n).isSome ∨ !handleFieldsOk bs h ∨ !h.fits 0x1800000 (fun _ => true) then trapR s { code := 0x15 }
      else if !h.fits ((sp.map (fun (x : Space) => x.bytes)).getD 0) (fun p => ((sp.map (fun (x : Space) => x.parts)).getD 0).getLsbD p) then trapR s { code := 0x0B }
      else doneR (s.setDie s.die { d with handles := ins d.handles n h })

def execThu (b : BitVec 5) (s : State) : Res :=
  let n := bits (s.x b) 11 0
  match s.handleOf n with
  | none => trapR s { code := 0x15 }
  | some _ =>
    let d := s.dieAt s.die
    doneR (s.setDie s.die { d with handles := del d.handles n, unbound := d.unbound ++ (find? d.handles n).toList })

/-! ## Performing an in-memory operation (R273) -/

namespace State

/-- Some block of a range lies in an offline partition. -/
def rangeOffline (s : State) (die : Nat) (h : Handle) (first count : Nat) : Bool :=
  (range first count).any (fun b => !(s.dieAt die).serves (h.part b))
/-- Some block of a range holds an uncorrectable error. -/
def rangeBad (s : State) (die : Nat) (h : Handle) (first count : Nat) : Bool :=
  (range first count).any (fun b => s.isBad (h.key die b) h.slotSize)

/-- A block that an operation ending in error may leave wholly old or wholly new (R270). -/
def oldOrNew (s : State) (f : State → State) : State :=
  if Config.keepsOld s.free then { s with free := s.free + 1 } else f { s with free := s.free + 1 }

/-- TSZ of a range; with a status, only blocks that are served may change. -/
def zeroBlocks (s : State) (die : Nat) (h : Handle) (first count : Nat) (status : Nat) : State :=
  (range first count).foldl (fun s b =>
    let f (s : State) : State := s.zero (h.key die b) h.slotSize
    if status = 0 then f s else if (s.dieAt die).serves (h.part b) then s.oldOrNew f else s) s

/-- TSC: every block is read before any is written; with a status, only blocks that are served and sound may be copied. -/
def copyBlocks (s : State) (die : Nat) (h : Handle) (first count : Nat) (h2 : Handle) (first2 : Nat) (status : Nat) : State :=
  let src := (List.range count).map (fun j => s.peek (h.key die (first + j)) h.slotSize)
  let sound (j : Nat) : Bool := !s.rangeOffline die h (first + j) 1 && !s.rangeOffline die h2 (first2 + j) 1 && !s.rangeBad die h (first + j) 1
  ((List.range count).zip src).foldl (fun s p =>
    let f (s : State) : State := s.poke (h2.key die (first2 + p.1)) p.2
    if status = 0 then f s else if sound p.1 then s.oldOrNew f else s) s

/-- The blocks of two ranges that differ. -/
def differing (s : State) (die : Nat) (h : Handle) (first count : Nat) (h2 : Handle) (first2 : Nat) : List Nat :=
  (List.range count).filter (fun j => s.peek (h.key die (first + j)) h.slotSize != s.peek (h2.key die (first2 + j)) h2.slotSize)

/-- The binding that an operation captured still stands (R270). -/
def stillBound (s : State) (die : Nat) (h : Handle) : Bool :=
  (s.dieAt die).handles.any (fun x => { x.2 with tree := none } == { h with tree := none })
/-- The handles of an in-memory operation. -/
def opHandles (op : CopyOp) : List Handle :=
  match op with
  | .block _ => []
  | .tsz h _ _ => [h]
  | .tsc h _ _ h2 _ => [h, h2]
  | .tscmp h _ _ h2 _ _ => [h, h2]

/-- What holds an in-memory operation back: its issuer's held accesses (19 R198), and for TSZ and TSC a frozen landing zone that they would
read or write (03 R32). -/
def opWaits (s : State) (die : Nat) (c : Copy) : Bool :=
  let writes : Bool := match c.op with
    | .tscmp _ _ _ _ _ _ => false
    | _ => true
  c.held || (writes && (opHandles c.op).any (fun h => (s.dieAt die).handles.any (fun x =>
    { x.2 with tree := none } == { h with tree := none } && s.zoneHolds c (grpOf c.tile) 2 x.1 1)))

/-- An operation's effect and its status. It acts whole, in one step, so that no access sees a mixture of old and new within it (19 R193,
log 17). -/
def runMemoryOp (s : State) (die : Nat) (c : Copy) : State × Nat :=
  if !(opHandles c.op).all (s.stillBound die) then (s, 13)
  else match c.op with
  | .block _ => (s, 0)
  | .tsz h first count =>
    let st := if s.rangeOffline die h first count then 7 else 0
    (s.zeroBlocks die h first count st, st)
  | .tsc h first count h2 first2 =>
    if h.slotSize ≠ h2.slotSize then (s, 11)
    else
      let st := if s.rangeOffline die h first count ∨ s.rangeOffline die h2 first2 count then 7
        else if s.rangeBad die h first count then 8 else 0
      (s.copyBlocks die h first count h2 first2 st, st)
  | .tscmp h first count h2 first2 hid =>
    if h.slotSize ≠ h2.slotSize then (s, 11)
    else if s.rangeOffline die h first count ∨ s.rangeOffline die h2 first2 count then (s, 7)
    else if s.rangeBad die h first count ∨ s.rangeBad die h2 first2 count then (s, 8)
    else
      let ds := s.differing die h first count h2 first2
      let x := s.ctxStatus die c.ctx
      match ds with
      | [] => (s, 0)
      | j :: _ =>
        (s.setCtxStatus die c.ctx
          { x with cmp := x.cmp + BitVec.ofNat 64 ds.length,
                   cmpf := if x.cmpf = -1 then BitVec.ofNat 64 ((first + j) * 4096 + hid) else x.cmpf }, 0)

end State

/-- TS_OP_COMPLETE. -/
def execTsOpComplete (die : BitVec 3) (id : Nat) (s : State) : Res :=
  match s.copyAt die.toNat id with
  | none => .fault .notEnabled
  | some c =>
    if c.block.isSome || s.opWaits die.toNat c then .fault .notEnabled
    else
      let r := if c.status ≠ 0 then (s, c.status) else s.runMemoryOp die.toNat c
      .next ((r.1.setCopies die.toNat (fun cs => cs.filter (fun x => x.id ≠ id))).endNumbered die.toNat c.ctx c.num r.2)

end Sys2Proof.Machine
end

