-- ==== Sys2Proof/Machine/Fabric.lean ====
section
/-! DEFINITION. The receiving side of the fabric (25 R241-R248, R250): packets at their target, acknowledgements at their source,
reduction windows, links, and the fabric registers (R251). -/

namespace Sys2Proof.Machine

def SrcCtx.empty : SrcCtx :=
  { highest := 0, marks := [], returns := [], outcomes := [], accepted := [0, 0, 0, 0], expect := [0, 0, 0, 0], flags := [] }

/-- The number that an OSEQ stands for, counted on through its wrap: of those that it may be, the one nearest to the highest accepted. -/
def SrcCtx.number (x : SrcCtx) (oseq : Nat) : Nat :=
  let n := x.highest / 2 ^ 32 * 2 ^ 32 + oseq
  if n + 2 ^ 31 ≤ x.highest then n + 2 ^ 32 else if x.highest + 2 ^ 31 < n ∧ 2 ^ 32 ≤ n then n - 2 ^ 32 else n

/-- An OSEQ has been accepted, or lies below the bitmap (R243). -/
def SrcCtx.seen (x : SrcCtx) (oseq : Nat) : Bool :=
  x.marks.contains (x.number oseq) || decide (x.number oseq + 4096 < x.highest)

/-- Accept an OSEQ on a lane (R242, R243); what was kept for an operation of that number before the wrap goes. -/
def SrcCtx.accept (x : SrcCtx) (oseq lane : Nat) : SrcCtx :=
  let n := x.number oseq
  let h := max x.highest n
  { x with highest := h, marks := (x.marks ++ [n]).filter (fun m => decide (h ≤ m + 4096)),
           accepted := x.accepted.set lane (x.accepted.getD lane 0 + 1),
           returns := del x.returns oseq, outcomes := del x.outcomes oseq }

/-- Every lane has accepted what a flag counts, and every packet before it has been accepted, so that none sent after it stands for one
(R242). -/
def SrcCtx.ready (x : SrcCtx) (p : Packet) : Bool :=
  let n := x.number p.oseq.toNat
  let low := max 1 (x.highest - 4096)
  (List.range 4).all (fun i =>
    decide ((x.accepted.getD i 0 + 2 ^ 16 - (p.lcnt.getD i 0).toNat) % 2 ^ 16 < 2 ^ 15))
  && (List.range (n - low)).all (fun i => x.marks.contains (low + i))

namespace State

/-! ## Answers -/

/-- The enclave of a packet's domain, of which this package is a member, and the secret of the packet's generation (R249, R250): the current
one or the one before. -/
def packetKey (s : State) (p : Packet) : Option (Nat × BitVec 384) :=
  match find? s.enclaves p.domain.toNat with
  | none => none
  | some x =>
    let both (ms : List Nat) : Bool := ms.contains p.src.toNat && ms.contains s.index
    if both x.members ∧ x.gen = p.kgen.toNat then some (p.domain.toNat, x.secret)
    else match x.oldGen with
      | some (g, sec, ms) => if both ms ∧ g = p.kgen.toNat then some (p.domain.toNat, sec) else none
      | none => none

/-- An answer leaves for the source of a packet, sealed where the packet was: an acknowledgement, read data or an atomic return. Where
every path is down it cannot leave, and the source sends again (R243). -/
def answer (s : State) (p : Packet) (kind : Nat) (op : Nat) (payload : List Byte) : State :=
  let a := { blankPacket kind payload with
      src := BitVec.ofNat 16 s.index, dst := p.src, ctx := p.ctx, lane := p.lane, oseq := p.oseq, addr := p.addr, domain := p.domain,
      op := BitVec.ofNat 8 op }
  match s.choosePath p.src.toNat none with
  | none => s
  | some route =>
    let a := onRoute route a
    let r := match (if p.enc then s.packetKey p else none) with
      | none => (a, s)
      | some (d, _) => (match find? s.enclaves d with
        | none => (a, s)
        | some e => s.sealUnder d e a)
    r.2.emit r.1

/-- An acknowledgement with its outcome (R244); busy sets bit 3 (log 21). -/
def acknowledge (s : State) (p : Packet) (outcome : Nat) : State := s.answer p 6 outcome []
def busyAnswer (s : State) (p : Packet) : State := s.answer p 6 8 []

/-! ## What every packet meets on arrival (R241, R249, R250) -/

/-- The current generation of a packet's enclave excludes its source or this package (R250). -/
def packetRevoked (s : State) (p : Packet) : Bool :=
  p.kgen != 0 && (match s.packetKey p with
    | some (d, _) => (find? s.enclaves d).any (fun e => e.excluded.contains p.src.toNat || e.excluded.contains s.index)
    | none => true)

/-- A sticky bit of FSTAT. -/
def fstat (s : State) (v : Word) : State := { s with dev := put s.dev 0x200010 (look s.dev 0x200010 ||| v) }

/-- Open a packet: none when it is dropped for its tag or a retired generation (R250). -/
def openPacket (s : State) (p : Packet) : Option Packet × State :=
  if !p.enc then (some p, s)
  else match s.packetKey p with
    | none => (none, s.fstat 4)
    | some (d, secret) =>
      match find? s.enclaves d with
      | none => (none, s.fstat 4)
      | some e =>
        let from_ := p.sealer.toNat
        let hop := hopCount p.kgen.toNat from_ s.index
        let n := look e.pkts hop
        let s' := { s with enclaves := ins s.enclaves d { e with pkts := put e.pkts hop (n + 1) } }
        match Config.gcmOpen (hopKey secret p.kgen.toNat from_ s.index) (hopNonce from_ s.index n) (packetHeader p) p.payload p.tag with
        | none => (none, s'.fstat 4)
        | some bs => (some { p with payload := bs }, s')

/-- A packet for another package goes on by the lowest up port of its path, so that a flow keeps one path (R240): through a member of its
enclave under the key of the next enclave hop (R249), through any other package unchanged but for HOPS, which counts the global link it came
by, and with it the hop class (R239). With every port down it is lost here, and its source sends it again (R243). -/
def forward (s : State) (p : Packet) : State :=
  let out := ((s.pathPorts p.dst.toNat p.via.toNat).head?.map (BitVec.ofNat 7)).getD 0x7F
  let global := decide (32 ≤ p.port.toNat)
  let onward (p : Packet) : Packet :=
    let p := { p with port := out }
    if global then { p with hops := p.hops + 1, hopClass := (p.hops + 1).truncate 2 } else p
  if !p.enc ∨ (s.packetKey p).isNone then s.emit (onward p)
  else if s.packetRevoked p then s.acknowledge p 4
  else
    match s.openPacket p, s.packetKey p with
    | (some q, s'), some (d, _) =>
      (match find? s'.enclaves d with
        | none => s'
        | some e =>
          let r := s'.sealUnder d e (onward q)
          r.2.emit r.1)
    | (_, s'), _ => s'

/-- A packet reaches this package: it goes on, or `act` takes it. -/
def received (s : State) (kind : Nat) (p : Packet) (act : State → State) : Res :=
  if p.kind.toNat ≠ kind then .fault .notEnabled
  else
    let s := s.arrive p
    .next (if p.dst.toNat ≠ s.index then s.forward p else act s)

/-- The number of a source context, and what the target keeps for it. -/
def srcKey (p : Packet) : Nat := p.src.toNat * 65536 + p.ctx.toNat
def srcAt (s : State) (p : Packet) : SrcCtx := (find? s.srcs (srcKey p)).getD SrcCtx.empty
def setSrc (s : State) (p : Packet) (x : SrcCtx) : State := { s with srcs := ins s.srcs (srcKey p) x }

/-- A further context finds no room (R243). -/
def srcFull (s : State) (p : Packet) : Bool := (find? s.srcs (srcKey p)).isNone && decide (8192 ≤ s.srcs.length)

/-- LSEQ against the next one expected on its lane (R241). -/
def checkLane (s : State) (p : Packet) : State :=
  let x := s.srcAt p
  let i := p.lane.toNat
  let s' := if x.expect.getD i 0 = p.lseq.toNat then s else s.fstat 1
  s'.setSrc p { x with expect := x.expect.set i ((p.lseq.toNat + 1) % 2 ^ 16) }

/-! ## The target of a packet (R238, R244, R245) -/

/-- A launch of a job that the sending package belongs to. -/
def jobLaunch (s : State) (pkg : Nat) (ok : Launch → Bool) : Option Nat :=
  (s.launches.find? (fun l => l.2.job != 0 && l.2.placed && ((find? s.jobs l.2.job).getD []).contains pkg && ok l.2)).map (·.1)

/-- The launch that n bytes at a packet's address count for, one of the issuing launch's job, with a group of its footprint. -/
def packetLaunch (s : State) (p : Packet) (n : Nat) : Option (Nat × Nat) :=
  let a : Word := p.addr.zeroExtend 64
  let job (x : Launch) : Bool := x.job == p.job.toNat
  if p.dkind = 1 then
    let t := tileWordTile a
    let off := tileWordOff a
    if tileSize < off + n ∨ 2 ^ 31 ≤ a.toNat then none
    else (s.jobLaunch p.src.toNat (fun x =>
        job x && x.foot.contains t && decide (x.shBase ≤ off) && decide (off + n ≤ x.shBase + x.shSize))).map (fun l => (l, grpOf t))
  else (s.jobLaunch p.src.toNat (fun x => job x && x.space == p.spid.toNat)).map (fun l => (l, grpOf ((s.footOf l).headD 0)))

/-- The memory keys of n bytes at a packet's address, with the launch they count for; none: outcome 2. -/
def packetTarget (s : State) (p : Packet) (write : Bool) (n : Nat) : Option (Nat × Nat × List Nat × State) :=
  match s.packetLaunch p n with
  | none => none
  | some (l, g) =>
    let a : Word := p.addr.zeroExtend 64
    if p.dkind = 1 then some (l, g, range (tileKey (tileWordTile a) (tileWordOff a)) n, s)
    else
      match s.virtKeys 0 p.spid.toNat write a n with
      | .error _ => none
      | .ok (ks, s') => some (l, g, ks, s')

/-- The bytes that a packet names are refused with outcome 2: an uncorrectable error among them, or in the walk, is noted (43 R375). -/
def notePacket (s : State) (p : Packet) (write : Bool) : State :=
  let n := p.payload.length
  let a : Word := p.addr.zeroExtend 64
  if (s.packetLaunch p n).isNone then s
  else if p.dkind = 1 then s.noteKeys (dieOf (tileWordTile a)) (.ok (range (tileKey (tileWordTile a) (tileWordOff a)) n, s))
  else s.noteKeys 0 (s.virtKeys 0 p.spid.toNat write a n)

/-- The phases of the target hold a packet: a frozen landing zone of another exchange than the pod's (03 R32), or package memory that is
read in a package compute phase (39 R358, 03 R28). -/
def targetShut (s : State) (p : Packet) : Bool :=
  let n := p.payload.length
  match s.packetLaunch p n with
  | none => false
  | some (l, g) =>
    let a : Word := p.addr.zeroExtend 64
    let memory := if p.dkind = 1 then 0 else 3
    let lo := if p.dkind = 1 then tileWordOff a else a.toNat
    (s.launchAt l).zones.any (fun z =>
      z.memory == memory && decide (z.start < lo + n) && decide (lo < z.start + z.size)
      && s.effLevel l z.lv != s.effLevel l .pod && s.exchOpen l z.lv g)
    || (p.kind == 1 && p.dkind != 1 && !s.exchOpen l .package g)

/-- A read of the pod's exchange is remembered for its sources (39 R357, R358). -/
def markRemoteRead (s : State) (l g : Nat) (ks : List Nat) : State :=
  let lv := s.effLevel l .pod
  let b := s.barOf l lv g
  if b.exch then s.setBar l lv (unitOf lv g) { b with reads := b.reads ++ ks.map (fun k => (k, 1, 1024)) } else s

/-- The party that a source context of another package is. -/
def remoteParty (p : Packet) : Nat := 2 ^ 41 + srcKey p

/-- An early-path write of another package: the pod's exchange reads it (21 R205). -/
def remoteWrite (s : State) (p : Packet) (l grp : Nat) (ks : List Nat) (bs : List Byte) (kind : Nat) : State :=
  let lv := s.effLevel l .pod
  let s := ks.foldl (fun s k => s.forgetBefore l lv (unitOf lv grp) k 1) s
  match ks with
  | [] => s
  | k :: _ =>
    if ks = range k ks.length then s.earlyWrite l (remoteParty p) grp k bs kind (p.addr.zeroExtend 64)
    else (ks.zip bs).foldl (fun s x => s.earlyWrite l (remoteParty p) grp x.1 [x.2] kind (p.addr.zeroExtend 64)) s

/-- A write is performed: the outcome (R244). -/
def performWrite (s : State) (p : Packet) : Nat × State :=
  match s.packetTarget p true p.payload.length with
  | none => (2, s.notePacket p true)
  | some (l, g, ks, s') => (0, s'.remoteWrite p l g ks p.payload 0)

/-- An outcome is remembered for a duplicate. -/
def keepOutcome (s : State) (p : Packet) (outcome : Nat) : State :=
  if outcome = 0 then s
  else let x := s.srcAt p
       s.setSrc p { x with outcomes := ins x.outcomes p.oseq.toNat outcome }

/-- Arrival with exactly-once delivery (R243): `act` performs it, the packet's OSEQ accepted. -/
def deliver (s : State) (p : Packet) (dup : Packet → State → State) (act : Packet → State → State) : State :=
  match s.openPacket p with
  | (none, s') => s'
  | (some p, s') =>
    if s'.packetRevoked p then s'.acknowledge p 4
    else if s'.srcFull p then s'.busyAnswer p
    else
      let s1 := s'.checkLane p
      if (s1.srcAt p).seen p.oseq.toNat then dup p s1
      else act p (s1.setSrc p ((s1.srcAt p).accept p.oseq.toNat p.lane.toNat))

/-- A contribution of the same number waits for its round. -/
def contributed (s : State) (p : Packet) : Bool :=
  s.windows.any (fun w => w.2.contribs.any (fun c => c.2.src == p.src && c.2.ctx == p.ctx && c.2.oseq == p.oseq))

/-- A duplicate is acknowledged again (R243), but not before what it repeats (R242, R248). -/
def ackAgain (p : Packet) (s : State) : State :=
  if (s.srcAt p).flags.any (fun f => f.2.oseq == p.oseq) || s.contributed p then s
  else s.acknowledge p ((find? (s.srcAt p).outcomes p.oseq.toNat).getD 0)

end State

/-! ## Writes and ordered flags (R242, R243) -/

namespace State

/-- A write is performed and acknowledged. -/
def writeAnswered (p : Packet) (s : State) : State :=
  let r := s.performWrite p
  (r.2.keepOutcome p r.1).acknowledge p r.1

/-- A read request is answered with what the memory holds, in the pod's exchange what it held when that began (R243, 21 R205, 39 R358): its
length is that of its payload (log 21). -/
def readAnswered (p : Packet) (s : State) : State :=
  match s.packetTarget p false p.payload.length with
  | none => (s.notePacket p false).acknowledge p 2
  | some (l, g, ks, s') =>
    if ks.any (fun k => s'.isBad k 1) then (s'.notePacket p false).acknowledge p 2
    else
      let lv := s'.effLevel l .pod
      (s'.markRemoteRead l g ks).answer p 2 0 (ks.map (s'.exchangeByte l lv (unitOf lv g) 1024))

/-- A read that the target's phases hold reads its source in the pod's exchange: its bytes are that exchange's from its arrival on
(39 R357, R358). -/
def markHeldRead (p : Packet) (s : State) : State :=
  if p.kind ≠ 1#8 then s
  else match s.packetTarget p false p.payload.length with
    | none => s
    | some (l, g, ks, s') => s'.markRemoteRead l g ks

/-- An accepted packet waits at the target. -/
def keepPacket (p : Packet) (s : State) : State :=
  let s := s.markHeldRead p
  s.setSrc p { s.srcAt p with flags := (s.srcAt p).flags ++ [(s.epoch, p)] }

/-- An accepted packet is performed, or waits for the target's phases. -/
def performOr (act : Packet → State → State) (p : Packet) (s : State) : State := if s.targetShut p then s.keepPacket p else act p s

end State

/-- An ordered flag: a write of 4 or 8 bytes with OF (R242). -/
def isOrderedFlag (p : Packet) : Bool := p.kind == 0 && p.of && (p.payload.length == 4 || p.payload.length == 8)

/-- PACKET_WRITE. -/
def execPacketWrite (p : Packet) (s : State) : Res :=
  s.received 0 p (fun s => s.deliver p State.ackAgain (fun p s =>
    if isOrderedFlag p then s.keepPacket p else s.performOr State.writeAnswered p))

/-! ## Reads (R243, 39 R358) -/

/-- PACKET_READ_REQUEST: one that has been accepted before is served again. -/
def execPacketReadRequest (p : Packet) (s : State) : Res :=
  s.received 1 p (fun s => s.deliver p (fun p s => s.performOr State.readAnswered p) (fun p s => s.performOr State.readAnswered p))

/-! ## Outcomes at the source (R244) -/

namespace State

/-- The operation that an answer belongs to. -/
def awaited (s : State) (p : Packet) : Option OutPacket :=
  s.out.find? (fun o => o.packet.dst == p.src && o.packet.ctx == p.ctx && o.packet.oseq == p.oseq)

/-- An operation ends with an outcome: its copy, or its meeting's command, learns of it; nothing waits for a control packet. -/
def opDone (s : State) (o : OutPacket) (outcome : Nat) : State :=
  let s := { s with out := s.out.erase o }
  match o.copy with
  | some id =>
    (match s.copyAt o.die id with
      | none => s
      | some c =>
        let st := match c.st with
          | .started data out => CopySt.started data (out.erase o.packet.oseq)
          | .waiting => .waiting
        -- a signal fails that is not the first: a counter has been incremented, and the copy is not in error (27 R263, log 204)
        if outcome ≠ 0 ∧ c.signalled ∧ c.unsent.length + 1 < c.dests.length then
          ((s.putCopy o.die { c with st := st }).signalsLost c 1).pumpCtx o.die c.ctx
        else
          (s.putCopy o.die { c with st := st, status := if c.status = 0 then outcome else c.status,
                                    unsent := if outcome ≠ 0 ∧ c.signalled then [] else c.unsent }).pumpCtx o.die c.ctx)
  | none =>
    if o.elems.isEmpty then s else
    let g := o.elems.getD 0 0
    let m := o.elems.getD 1 0
    let gr := s.groupAt g
    (match find? gr.meet m with
      | none => s
      | some mt =>
        match mt.queue.find? (fun c => c.num.toNat == o.elems.getD 2 0 && c.sent) with
        | none => s
        | some c =>
          let st := if c.status = 0 then outcome else c.status
          if s.out.any (fun x => x.copy.isNone && x.elems == o.elems) then
            s.setGroup g { gr with meet := ins gr.meet m { mt with queue := mt.queue.map (fun x => if x = c then { c with status := st } else x) } }
          else (s.setGroup g { gr with meet := ins gr.meet m { mt with queue := mt.queue.erase c } }).endNumbered o.die c.ctx c.num st)

end State

/-- PACKET_READ_DATA: elements of the copy that asked (27 R263). -/
def execPacketReadData (p : Packet) (s : State) : Res :=
  s.received 2 p (fun s =>
    match s.openPacket p with
    | (none, s') => s'
    | (some p, s') =>
      match s'.awaited p with
      | none => s'
      | some o =>
        let s1 := match o.copy.bind (s'.copyAt o.die) with
          | none => s'
          | some c =>
            let n := p.payload.length / max o.elems.length 1
            let got := ((List.range o.elems.length).zip o.elems).map (fun (x : Nat × Nat) => (x.2, (p.payload.drop (n * x.1)).take n))
            (match c.st with
              | .started data out => s'.putCopy o.die { c with st := .started (data ++ got) out }
              | .waiting => s')
        s1.opDone o 0)

/-- PACKET_ACKNOWLEDGEMENT. -/
def execPacketAcknowledgement (p : Packet) (busy : Bool) (outcome : BitVec 3) (s : State) : Res :=
  s.received 6 p (fun s =>
    match s.openPacket p with
    | (none, s') => s'
    | (some p, s) =>
      match s.awaited p with
      | none => s
      | some o =>
        if busy then { s with out := s.out.map (fun x => if x = o then { o with busy := true } else x) }
        else s.opDone o outcome.toNat)

/-- A packet that is lost is sent again, or ends with outcome 1, a read with 5 (R243); one that an enclave excludes with 4 (R250). -/
def State.retry (s : State) (o : OutPacket) : State :=
  if s.domainRevoked o.packet.domain.toNat o.packet.dst.toNat then s.opDone o 4
  else if o.busy ∨ o.tries < bits (look s.dev 0x200110) 7 0 then s.resendPacket o
  else s.opDone o (if o.packet.kind = 1 then 5 else 1)

/-- Operations toward or from a package that the current generation excludes end with outcome 4 (R250). -/
def State.endRevoked (s : State) : State :=
  (s.out.filter (fun o => s.domainRevoked o.packet.domain.toNat o.packet.dst.toNat)).foldl (fun s o => s.opDone o 4) s

/-- ACK_TIMEOUT (R243). A control packet is named by die 0 and context 0, where no operation of that context has the number. -/
def execAckTimeout (die : BitVec 3) (ctx : BitVec 12) (dst : BitVec 11) (oseq : BitVec 32) (s : State) : Res :=
  let of_ (d : Nat) (o : OutPacket) : Bool :=
    o.die == d && o.packet.ctx.toNat % 4096 == ctx.toNat && o.packet.dst.toNat == dst.toNat && o.packet.oseq == oseq
  let late (o : OutPacket) : Res := if s.clk < o.at_ + bits (look s.dev 0x200108) 31 0 then .fault .notEnabled else .next (s.retry o)
  match s.out.find? (of_ die.toNat) with
  | some o => late o
  | none =>
    match (if die = 0 ∧ ctx = 0 then s.out.find? (of_ State.controlDie) else none) with
    | some o => late o
    | none => .fault .notEnabled

/-! ## Atomics (R243, R260) -/

namespace State

/-- An atomic is performed: its old value, or an outcome. -/
def performAtomic (s : State) (p : Packet) : Except Nat (List Byte × State) :=
  let n := p.payload.length
  let op := p.op.toNat
  if (n ≠ 4 ∧ n ≠ 8) ∨ op = 9 ∨ 10 < op then .error 2
  else
    match s.packetTarget p true n with
    | none => .error 2
    | some (l, g, ks, s') =>
      if ks.any (fun k => s'.isBad k 1) then .error 2
      else
        let old := ks.map (look s'.mem)
        .ok (old, s'.remoteWrite p l g ks (leBytes n (amoNew op n (leNat old) (leNat p.payload))) (if op = 10 then 2 else 0))

end State

/-- The operators and element sizes of windows (R247). -/
def windowSize (op : Nat) : Nat := if op = 1 ∨ op = 3 then 8 else 4

/-- A contribution that its window accepts: operator, size, range and membership (R247), and a round not yet delivered (R248). -/
def Window.accepts (w : Window) (p : Packet) (op size : Nat) : Bool :=
  w.op == op && p.payload.length % windowSize w.op == 0 && size == windowSize w.op
  && w.members[p.cidx.toNat]? == some p.src.toNat && !w.delivered.contains p.rnd.toNat
  && !(w.done.any (fun x => x.1 == p.rnd.toNat && decide (p.addr.toNat ≤ x.2) && decide (x.2 < p.addr.toNat + p.payload.length)))
  && decide (w.base.toNat ≤ p.addr.toNat) && decide (p.addr.toNat + p.payload.length ≤ w.base.toNat + w.size)

namespace State

/-- The contribution waits for its round. -/
def contribute (s : State) (n : Nat) (w : Window) (p : Packet) : State :=
  { s with windows := ins s.windows n { w with contribs := w.contribs ++ [(s.epoch, p)] } }

end State

/-- An atomic add that is of a window's type: its operator (R247). -/
def addOperator (op n : Nat) : Option Nat :=
  match op, n with
  | 0, 4 => some 0
  | 0, 8 => some 1
  | 10, 4 => some 2
  | 10, 8 => some 3
  | _, _ => none

/-- An atomic is performed, and its old value returned and kept for a duplicate (R243). -/
def State.atomicAnswered (p : Packet) (s : State) : State :=
  match s.performAtomic p with
  | .error o => ((s.notePacket p true).keepOutcome p o).acknowledge p o
  | .ok (v, s') => (s'.setSrc p { s'.srcAt p with returns := ins (s'.srcAt p).returns p.oseq.toNat v }).answer p 4 0 v

/-! ## Packets that wait at the target (R242, 03 R32, 39 R358) -/

/-- A contribution of a packet's context, numbered below it, waits for its round. -/
def State.earlierContribution (s : State) (p : Packet) : Bool :=
  let x := s.srcAt p
  s.windows.any (fun w => w.2.contribs.any (fun c => c.2.src == p.src && c.2.ctx == p.ctx
    && decide (x.number c.2.oseq.toNat < x.number p.oseq.toNat)))

/-- Whether a held packet still waits: a meeting's contribution for its home's decision (33 R314), any other for the target's phases, and
a flag for its counts and for every earlier packet that is not performed. -/
def State.stillHeld (s : State) (x : SrcCtx) (p : Packet) : Bool :=
  p.kind == 5 || s.targetShut p
  || (isOrderedFlag p && (!x.ready p || x.flags.any (fun f => decide (x.number f.2.oseq.toNat < x.number p.oseq.toNat)) || s.earlierContribution p))

/-- ORDERED_FLAG_PERFORM: the first held packet of a context that need wait no longer. -/
def execOrderedFlagPerform (src ctx : BitVec 16) (s : State) : Res :=
  match find? s.srcs (src.toNat * 65536 + ctx.toNat) with
  | none => .fault .notEnabled
  | some x =>
    match x.flags.find? (fun f => !s.stillHeld x f.2) with
    | none => .fault .notEnabled
    | some f =>
      let s := s.setSrc f.2 { x with flags := x.flags.erase f }
      .next (match f.2.kind.toNat with
        | 1 => s.readAnswered f.2
        | 3 => s.atomicAnswered f.2
        | _ => s.writeAnswered f.2)

/-- PACKET_ATOMIC_RETURN: with RET the old value replaces the source element (27 R260). -/
def execPacketAtomicReturn (p : Packet) (s : State) : Res :=
  s.received 4 p (fun s =>
    match s.openPacket p with
    | (none, s') => s'
    | (some p, s') =>
      match s'.awaited p with
      | none => s'
      | some o =>
        let s1 := match o.copy.bind (s'.copyAt o.die) with
          | none => s'
          | some c =>
            match c.block with
            | none => s'
            | some b =>
              let a := b.srcAt (o.elems.headD 0)
              if !b.ret then s'
              else match s'.localKey c.lnum c.tile c.psz true a b.bytes with
                | .ok k => s'.engineWrite o.die c k p.payload 0 a
                | .error _ => s'
        s1.opDone o 0)

/-! ## Reduction windows (R247, R248) -/

/-- A contribution whose payload holds codes of a lens, decoded (27 R261). -/
def decodedPacket (p : Packet) : Packet :=
  if p.lens = 0#32 then p
  else
    let n := State.packedBytes p.lens
    { p with
      lens := 0
      payload := (List.range (p.payload.length / n)).flatMap (fun i =>
        leBytes 4 (decode32 p.lens (leNat ((p.payload.drop (n * i)).take n)) 127).1.toNat) }

/-- The word that names a meeting of this package (33 R310), and the one that a packet carries. -/
def State.meetingWord (s : State) (g m : Nat) : Nat := s.index + g / 128 * 2 ^ 11 + g % 128 * 2 ^ 14 + m * 2 ^ 21
def packetMeeting (p : Packet) : Nat := p.addr.toNat % 2 ^ 25

/-- The home meeting that a contribution names is held here. -/
def State.meetingHere (s : State) (p : Packet) : Bool :=
  let w := packetMeeting p
  (find? (s.groupAt (w / 2 ^ 11 % 8 * 128 + w / 2 ^ 14 % 128)).meet (w / 2 ^ 21)).any (fun (x : Meeting) => x.home)

namespace State

/-- The memory keys of an element of a window; none where its target faults or is in error (R244). -/
def windowKeys (s : State) (w : Window) (a : Nat) : Option (List Nat × State) :=
  match s.virtKeys 0 w.space true (BitVec.ofNat 64 a) (windowSize w.op) with
  | .error _ => none
  | .ok (ks, s') => if ks.any (fun k => s'.isBad k 1) then none else some (ks, s')

/-- An element of a contribution meets a fault: the contribution is never performed (R244). -/
def contributionFaults (s : State) (w : Window) (p : Packet) : Bool :=
  (List.range (p.payload.length / windowSize w.op)).any (fun i => (s.windowKeys w (p.addr.toNat + windowSize w.op * i)).isNone)

/-- The uncorrectable errors that its elements have met are noted (43 R375). -/
def noteContribution (s : State) (w : Window) (p : Packet) : State :=
  (List.range (p.payload.length / windowSize w.op)).foldl (fun s i =>
    s.noteKeys 0 (s.virtKeys 0 w.space true (BitVec.ofNat 64 (p.addr.toNat + windowSize w.op * i)) (windowSize w.op))) s

/-- A contribution is accepted by its window, or refused (R244, R247). -/
def takeContribution (s : State) (n : Nat) (w : Window) (p : Packet) (op size : Nat) : State :=
  let refuse (o : Nat) : State := (s.keepOutcome p o).acknowledge p o
  if w.homePkg ≠ s.index ∨ !w.accepts p op size then refuse 3
  else if s.contributionFaults w p then ((s.noteContribution w p).keepOutcome p 2).acknowledge p 2
  else s.contribute n w p

end State

/-- PACKET_REDUCTION_CONTRIBUTION: into a window whose home is here, or on to a meeting (33 R314), whose home decides it by
QM_CONTRIBUTION_ARRIVAL. One that names no window and a translated address is refused: it is a REDUCE outside every window. -/
def execPacketReductionContribution (p : Packet) (s : State) : Res :=
  s.received 5 p (fun s => s.deliver p State.ackAgain (fun p s =>
    let p := decodedPacket p
    let refuse (o : Nat) : State := (s.keepOutcome p o).acknowledge p o
    if p.win = 0xFF then
      (if regionOf p.addr.toNat = .xlat then refuse 3 else if s.meetingHere p then s.keepPacket p else refuse 2)
    else match find? s.windows p.win.toNat with
      | none => refuse 3
      | some w => s.takeContribution p.win.toNat w p p.op.toNat (windowSize p.op.toNat)))

/-- PACKET_ATOMIC. -/
def execPacketAtomic (p : Packet) (s : State) : Res :=
  s.received 3 p (fun s => s.deliver p
    (fun p s => match find? (s.srcAt p).returns p.oseq.toNat with
      | some v => s.answer p 4 0 v
      | none => State.ackAgain p s)
    (fun p s =>
      match s.windowAt s.index (p.addr.zeroExtend 64) with
      | some (n, w) =>
        if addOperator p.op.toNat p.payload.length = some w.op then
          s.takeContribution n w p w.op p.payload.length
        else s.performOr State.atomicAnswered p
      | none => s.performOr State.atomicAnswered p))

/-- The operator of a window on elements of its size. -/
def windowOp (op a b : Nat) : Nat := State.reduceNew op (windowSize op) a b

/-- The place of a contribution among those of one member to an element of a round: (die, engine context, OSEQ). -/
def contributionBefore (x p : Packet) : Bool :=
  decide (x.ctx.toNat < p.ctx.toNat) || (x.ctx == p.ctx && decide (x.oseq.toNat ≤ p.oseq.toNat))
def insertPacket (p : Packet) : List Packet → List Packet
  | [] => [p]
  | x :: r => if contributionBefore x p then x :: insertPacket p r else p :: x :: r

/-- The leaf of member i for an element (R248). -/
def Window.leaf (w : Window) (ps : List Packet) (a i : Nat) : Option Nat :=
  let n := windowSize w.op
  let mine := (ps.filter (fun p => p.cidx.toNat == i && decide (p.addr.toNat ≤ a) && decide (a < p.addr.toNat + p.payload.length))).foldl
    (fun acc p => insertPacket p acc) []
  mine.foldl (fun (acc : Option Nat) p =>
    let v := leNat ((p.payload.drop (a - p.addr.toNat)).take n)
    match acc with
    | none => some v
    | some x => some (windowOp w.op x v)) none

/-- Addresses of the elements that a round's contributions touch, ascending. -/
def Window.elements (w : Window) (ps : List Packet) : List Nat :=
  let n := windowSize w.op
  ((ps.flatMap (fun p => (List.range (p.payload.length / n)).map (fun i => p.addr.toNat + n * i))).dedup).mergeSort (· ≤ ·)

/-- Every element that a round's contributions touch has all its n leaves (R248). -/
def Window.full (w : Window) (ps : List Packet) : Bool :=
  (w.elements ps).all (fun a => (List.range w.n).all (fun i => (w.leaf ps a i).isSome))

namespace State

/-- The party that a window's home is for the ordering rules (21 R204, 37 R350). -/
def windowParty (n : Nat) : Nat := 2 ^ 43 + n

/-- A launch of this package in a window's space. -/
def windowLaunch (s : State) (w : Window) : Option Nat := (s.launches.find? (fun l => l.2.placed && l.2.space == w.space)).map (·.1)

/-- One element of a round is performed at the home: an early-path write of the launch in the window's space. -/
def windowElement (s : State) (win : Nat) (w : Window) (ps : List Packet) (a : Nat) : State :=
  let leaves := (List.range w.n).map (w.leaf ps a)
  match (tree (fun x y (f : Unit) => (windowOp w.op x y, f)) leaves ()).1, s.windowKeys w a with
  | some v, some (ks, s') =>
    let bs := leBytes (windowSize w.op) (windowOp w.op (leNat (ks.map (look s'.mem))) v)
    let l := (s.windowLaunch w).getD 0
    let g := grpOf ((s.footOf l).headD 0)
    (ks.zip bs).foldl (fun s x => s.earlyWrite l (windowParty win) g x.1 [x.2] 0 (BitVec.ofNat 64 a)) s'
  | _, _ => s

/-- The pod barrier has closed a round (R248): SSCPOD of the launch in the window's space has passed it, or no such launch is left. -/
def roundClosed (s : State) (w : Window) (r : Nat) : Bool :=
  match s.windowLaunch w with
  | none => true
  | some l =>
    let past := ((s.barOf l .pod (grpOf ((s.footOf l).headD 0))).count.toNat + 65536 - r) % 65536
    decide (0 < past) && decide (past < 32768)

end State

/-- Delivered rounds, without those so far back that their numbers come again (R248: RND is taken modulo 2^16). -/
def roundsAfter (rounds : List Nat) (r : Nat) : List Nat := rounds.filter (fun x => decide ((r + 65536 - x) % 65536 < 32768)) ++ [r]

/-- WINDOW_DELIVERY: the elements of a round are performed, in ascending order, when each has its n leaves or the pod barrier has closed the
round; then every contribution is acknowledged (R248). One that has come to fault since it was accepted is performed in no element, and
ends with outcome 2 (R244). -/
def execWindowDelivery (win : BitVec 4) (round : BitVec 16) (closed : Bool) (s : State) : Res :=
  match find? s.windows win.toNat with
  | none => .fault .notEnabled
  | some w =>
    let r := round.toNat
    let held := (w.contribs.filter (fun c => c.2.rnd == round)).map (·.2)
    let ps := held.filter (fun p => !s.contributionFaults w p)
    if w.homePkg ≠ s.index ∨ w.delivered.contains r ∨ (if closed then !s.roundClosed w r else held.isEmpty || !w.full ps) then
      .fault .notEnabled
    else
      let w' : Window := { w with
        delivered := if closed then roundsAfter w.delivered r else w.delivered
        done := if closed then w.done.filter (fun d => d.1 != r) else w.done ++ (w.elements ps).map (fun a => (r, a))
        contribs := w.contribs.filter (fun c => c.2.rnd != round)
        round := r }
      let t := (w.elements ps).foldl (fun s a => s.windowElement win.toNat w ps a) s
      .next (held.foldl (fun s p =>
        let o : Nat := if ps.contains p then 0 else 2
        ((if o = 0 then s else s.noteContribution w p).keepOutcome p o).acknowledge p o) { t with windows := ins t.windows win.toNat w' })

/-! ## Jobs, links and control (R237, R239, R245, R246) -/

namespace State

/-- A signal of another package's copy (27 R263): the counter of the tile and its received count (03 R42, R48). -/
def signalArrived (s : State) (p : Packet) : State :=
  match s.packetLaunch p 0 with
  | none => (s.keepOutcome p 2).acknowledge p 2
  | some (l, _) =>
    let t := tileWordTile (p.addr.zeroExtend 64)
    let s := s.addCounter t (s.launchAt l).secondary p.cidx.toNat 1
    let q := s.seqAt (3 * t)
    (s.setSeq (3 * t) { q with received := put q.received l (look q.received l + 1) }).acknowledge p 0

/-- A member meeting whose home has failed (33 R319): its open tag passes every tag. -/
def meetingFailed (s : State) (p : Packet) : State :=
  let w := packetMeeting p
  let g := w / 2 ^ 11 % 8 * 128 + w / 2 ^ 14 % 128
  let gr := s.groupAt g
  match find? gr.meet (w / 2 ^ 21) with
  | none => s
  | some (x : Meeting) =>
    if x.home || bits x.link 10 0 != p.src.toNat then s
    else s.setGroup g { gr with meet := ins gr.meet (w / 2 ^ 21) { x with failed := x.failed.or (some x.open_), open_ := 2 ^ 32 } }

/-- A member has acknowledged a rotation (R250). -/
def rotationAcked (s : State) (p : Packet) : State :=
  let a := 2048 * leNat ((p.payload.drop 2).take 1) + p.src.toNat
  match find? s.enclaves (leNat (p.payload.take 2)) with
  | none => s
  | some e => if e.acked.contains a then s
    else { s with enclaves := ins s.enclaves (leNat (p.payload.take 2)) { e with acked := e.acked ++ [a] } }

/-- A package announces its space for a job (R245). -/
def jobAnnounced (s : State) (pkg job space : Nat) : State :=
  { s with jobSpaces := s.jobSpaces.filter (fun x => !(x.1 == job && x.2.1 == pkg)) ++ [(job, pkg, space)] }

end State

/-- JOB_ANNOUNCE: the job table takes a package's space identifier. -/
def execJobAnnounce (pkg : BitVec 11) (job : BitVec 32) (space : BitVec 16) (s : State) : Res :=
  .next (s.jobAnnounced pkg.toNat job.toNat space.toNat)

/-- PACKET_CONTROL: what a control packet carries takes effect once, and it is acknowledged (log 147); pod barriers, sweeps and key rotations
are delivered by their own steps. -/
def execPacketControl (p : Packet) (s : State) : Res :=
  s.received 7 p (fun s => s.deliver p State.ackAgain (fun p s =>
    match p.op.toNat with
    | 0 => (s.jobAnnounced p.src.toNat (leNat (p.payload.take 4)) (leNat ((p.payload.drop 4).take 2))).acknowledge p 0
    | 1 => s.signalArrived p
    | 7 => (s.rotationAcked p).acknowledge p 0
    | 8 => (s.meetingFailed p).acknowledge p 0
    | _ => s.acknowledge p 0))

namespace State

/-- A link goes down (R237): FSTAT.LDOWN, what its buffer and its queue hold is discarded, and this package's packets among it are sent again
(R243) on other paths (R240), its control packets too; other packages' packets and answers are sent again by their sources. -/
def dropLink (s : State) (port : Nat) (l : Link) : State :=
  let same (src ctx dst : BitVec 16) (oseq : BitVec 32) (o : OutPacket) : Bool :=
    src == o.packet.src && ctx == o.packet.ctx && dst == o.packet.dst && oseq == o.packet.oseq
  let lost (o : OutPacket) : Bool :=
    l.buf.any (fun f => same f.src f.ctx f.dst f.oseq o) || l.queue.any (fun x => same x.1.src x.1.ctx x.1.dst x.1.oseq o)
  let s := { s.fstat 2 with links := ins s.links port { l with up := false, replays := 0, buf := [], queue := [] } }
  (s.out.filter lost).foldl (fun s o => s.retry o) s

end State

/-- LINK_DOWN: 1,024 clk without a valid flit or beat. -/
def execLinkDown (port : BitVec 7) (s : State) : Res :=
  match find? s.links port.toNat with
  | none => .fault .notEnabled
  | some l => if l.up && decide (l.last + 1024 ≤ s.clk) then .next (s.dropLink port.toNat l) else .fault .notEnabled

/-- Failures in a row of a flit of a link, the present one included. -/
def Link.failures (l : Link) (seq : BitVec 16) : Nat := if l.failSeq = seq then l.replays + 1 else 1

/-- FLIT_CRC_ERROR: the flit is replayed from the link buffer; one that fails 16 replays in a row takes the link down. -/
def execFlitCrcError (f : FailedFlit) (s : State) : Res :=
  match find? s.links f.port.toNat with
  | none => .fault .notEnabled
  | some l =>
    if !l.up then .fault .notEnabled
    else if 16 < l.failures f.seq then .next (s.dropLink f.port.toNat l)
    else .next { s with links := ins s.links f.port.toNat { l with failSeq := f.seq, replays := l.failures f.seq } }

/-- KEEP_ALIVE: the neighbour's beat with its totals by channel, or, on a link that has been idle for 256 clk, this package's own beat, which
tells its totals (R246). -/
def execKeepAlive (b : KeepAliveBeat) (s : State) : Res :=
  match find? s.links b.port.toNat with
  | none => .fault .notEnabled
  | some l =>
    match b.totals with
    | none =>
      if l.up && decide (l.sentAt + 256 ≤ s.clk) then
        .next { s with links := ins s.links b.port.toNat { l with sentAt := s.clk, told := l.mine } }
      else .fault .notEnabled
    | some ts =>
      if l.up && ts.length == 16 then
        let l' := ((List.range 16).zip ts).foldl (fun l x => Link.credited l x.1 x.2) l
        .next { s with links := ins s.links b.port.toNat (Link.run { l' with last := s.clk } s.clk) }
      else .fault .notEnabled

/-- CREDIT_RETURN: the total of slots freed, by virtual channel and hop class (R246); what waited for them leaves. -/
def execCreditReturn (port : BitVec 7) (vc hop : BitVec 2) (total : BitVec 16) (s : State) : Res :=
  match find? s.links port.toNat with
  | none => .fault .notEnabled
  | some l =>
    if l.up then
      .next { s with links := ins s.links port.toNat (Link.run { l.credited (vc.toNat * 4 + hop.toNat) total with last := s.clk } s.clk) }
    else .fault .notEnabled

/-! ## Registers (R251) -/

def execFgapWrite (v : BitVec 32) (s : State) : Res := .next (devWrite s 0x200000 ⟨true, false⟩ (v.zeroExtend 64))
def execFstatClear (v : BitVec 64) (s : State) : Res := .next (devWrite s 0x200010 ⟨true, true⟩ v)

end Sys2Proof.Machine
end

