-- ==== Sys2Proof/Machine/SumTree.lean ====
section
/-! DEFINITION. The sum-tree engine (29): configuration, the numbered commands, their execution, the commit at the die barrier. -/

namespace Sys2Proof.Machine

/-! ## Priorities and nodes (R278, R279) -/

/-- A valid priority's stored form. -/
def validPrio (p : Lane) : Option Lane :=
  if p = 0x80000000#32 then some 0 else if p.toNat < 0x7F800000 then some p else none

/-- A finite non-negative binary32 value in units of 2^-149. -/
def units32 (p : Lane) : Nat :=
  let e := bits p 30 23
  if e = 0 then bits p 22 0 else (2 ^ 23 + bits p 22 0) * 2 ^ (e - 1)

namespace Tree

/-- The sum node of 2^k leaves from lo on. -/
def sumNode (t : Tree) : Nat → Nat → Option Lane
  | 0, lo => if lo < t.nleaf then some (look t.prio lo) else none
  | k + 1, lo =>
    match t.sumNode k lo, t.sumNode k (lo + 2 ^ k) with
    | some a, some b => some (add32 .rne false a b).1
    | some a, none => some a
    | none, r => r

def depth (t : Tree) : Nat := log2up t.nleaf
/-- The total T. -/
def total (t : Tree) : Lane := (t.sumNode t.depth 0).getD 0
/-- p_min: +infinity when no leaf is positive. -/
def minPrio (t : Tree) : Lane := (t.prio.map (fun p => p.2.toNat)).min?.elim 0x7F800000#32 (BitVec.ofNat 32)

/-- The descent of a draw: x in units of 2^-149 (R288). -/
def descend (t : Tree) : Nat → Nat → Nat → Nat
  | 0, lo, _ => lo
  | k + 1, lo, x =>
    let l := units32 ((t.sumNode k lo).getD 0)
    let r := units32 ((t.sumNode k (lo + 2 ^ k)).getD 0)
    if r = 0 then t.descend k lo x
    else if l = 0 then t.descend k (lo + 2 ^ k) x
    else if x < l then t.descend k lo x
    else t.descend k (lo + 2 ^ k) (x - l)

end Tree

/-! ## Leaf records (R280) -/

def leafRecord (leaf : Nat) (gen : BitVec 16) (st : Nat) (prio wgt : Lane) : List Byte :=
  leBytes 4 leaf ++ leBytes 2 gen.toNat ++ leBytes 1 st ++ leBytes 1 0 ++ leBytes 4 prio.toNat ++ leBytes 4 wgt.toNat

/-- Draw j of B with uniform u / 2^149, and whether the uniform was clamped (R288). -/
def Tree.draw (t : Tree) (b j u : Nat) (clamped : Bool) : List Byte :=
  let tot := t.total
  if tot = 0#32 then leafRecord 0xFFFFFF 0 1 0 0
  else if tot = 0x7F800000#32 then leafRecord 0xFFFFFF 0 2 0 0
  else
    let x := (rne32 (.fin false ⟨units32 tot * (j * 2 ^ 149 + u), b * 2 ^ 149, -149⟩)).1
    let i := t.descend t.depth 0 (units32 x)
    leafRecord i (look t.gen i) (if clamped then 3 else 0) (look t.prio i) 0

/-- A supplied uniform in units of 2^-149, clamped below 1. -/
def suppliedUniform (v : Lane) : Nat × Bool :=
  let e := bits v 30 23
  if v = 0x80000000#32 then (0, false)
  else if (e = 255 ∧ bits v 22 0 ≠ 0) ∨ bit v 31 then (0, true)
  else if 127 ≤ e then ((2 ^ 24 - 1) * 2 ^ 125, true)
  else (units32 v, false)

/-! ## Weights (R289) -/

/-- A non-negative finite binary32 as m / 2^k in lowest terms. -/
def dyadic (v : Lane) : Nat → Nat × Nat
  | fuel =>
    let rec strip : Nat → Nat → Nat → Nat × Nat
      | 0, m, k => (m, k)
      | n + 1, m, k => if m % 2 = 0 ∧ 0 < k then strip n (m / 2) (k - 1) else (m, k)
    strip fuel (units32 v) 149

/-- n / 2^150 ≤ (a / b)^(m / 2^k). -/
def powAtLeast (a b m k n : Nat) : Bool := decide (n ^ 2 ^ k * b ^ m ≤ a ^ m * 2 ^ (150 * 2 ^ k))

/-- The greatest encoding not above the power, by bits from the top. -/
def powSearch (a b m k : Nat) : Nat → Nat → Nat
  | 0, c => c
  | n + 1, c => if powAtLeast a b m k (2 * units32 (BitVec.ofNat 32 (c + 2 ^ n))) then powSearch a b m k n (c + 2 ^ n) else powSearch a b m k n c

/-- (a / b)^β to nearest even, for a < b. -/
def powRound (a b : Nat) (beta : Lane) : Lane :=
  let q := dyadic beta 149
  let c := powSearch a b q.1 q.2 30 0
  let mid := units32 (BitVec.ofNat 32 c) + units32 (BitVec.ofNat 32 (c + 1))
  let above := powAtLeast a b q.1 q.2 mid
  let tie := above && decide (mid ^ 2 ^ q.2 * b ^ q.1 = a ^ q.1 * 2 ^ (150 * 2 ^ q.2))
  BitVec.ofNat 32 (if above ∧ !(tie ∧ c % 2 = 0) then c + 1 else c)

/-- WGT of a record. -/
def Tree.weight (t : Tree) (beta : Lane) (st : Nat) (p : Lane) : Lane :=
  let m := t.minPrio
  if st = 1 ∨ st = 2 ∨ p.toNat = 0 ∨ 0x7F800000 ≤ p.toNat ∨ m = 0x7F800000#32 then 0
  else if p.toNat ≤ m.toNat then 0x3F800000#32
  else powRound (units32 m) (units32 p) beta

/-! ## Issue (R282, R284, R285) -/

/-- Steps 3 to 5 for ranges (address, length, alignment): each step is made for all of them. -/
def rangesFault (s : State) (xs : List (Word × Nat × Nat)) : Option Trap :=
  match xs.find? (fun x => decide (x.1.toNat % x.2.2 ≠ 0)), xs.find? (fun x => decide (tileSize < x.1.toNat + x.2.1)) with
  | some x, _ => some (.at 0x04 x.1)
  | none, some x => some (.at 0x05 (firstOutside x.1))
  | none, none => xs.findSome? (fun x =>
      (s.outsideShare s.q.k.lnum s.tile x.1.toNat x.2.1).map (fun d => .at 0x0B (x.1 + BitVec.ofNat 64 d)))

namespace State

/-- A tree as the running continuation's launch holds it on its die. -/
def treeOf (s : State) (n : Nat) : Option Tree :=
  match find? (s.dieAt s.die).trees n with
  | some t => if t.lnum = s.q.k.lnum then some t else none
  | none => none
def setTree (s : State) (die n : Nat) (t : Tree) : State :=
  let d := s.dieAt die
  s.setDie die { d with trees := ins d.trees n t }

/-- Unstarted commands of the engine (R282, R292), those of freed trees among them. -/
def prFull (s : State) : Bool :=
  let d := s.dieAt s.die
  decide (d.prQlim ≤ ((d.trees ++ d.leaving).map (fun t => t.2.queue.length)).sum)

/-- The die superstep whose exchange a command accepted now runs in (R283). -/
def exchStep (s : State) (lv : Level) : Word :=
  let b := s.barOf s.q.k.lnum lv s.grp
  if b.exch then b.count else b.count + 1

/-- A numbered command is accepted (R282). -/
def acceptPr (s : State) (n : Nat) (t : Tree) (slot : Nat) (addr : Word) (op : PrOp) : State :=
  let ctx := s.slotCtx slot
  let p := s.takeNumber slot
  let k := s.q.k
  let c : PrCmd := { op := op, addr := addr, tile := s.tile, home := k.home, role := k.role, ts := k.ts, party := k.party, ctx := ctx,
                     num := p.1, beta := t.beta, key := t.key, order := s.nextOrder, step := s.exchStep .die, ep := s.epoch }
  { p.2 with nextOrder := s.nextOrder + 1 }.setTree s.die n { t with queue := t.queue ++ [c] }

end State

/-- The shape of PRPUT, PRUPD, PRWT and PRSUM: `len` bytes at X(ra) aligned to `al`. -/
def issuePr (s : State) (p : BitVec 2) (slot : BitVec 3) (ra : BitVec 5) (count : Option (Nat × Nat)) (size al : Nat) (op : Nat → PrOp) : Res :=
  let a := s.x ra
  match s.treeOf p.toNat with
  | none => trapR s { code := 0x15 }
  | some t =>
    let n := match count with
      | some (n, _) => n
      | none => 1
    if count.any (fun c => decide (c.1 = 0 ∨ c.2 < c.1)) then trapR s { code := 0x15 }
    else match rangesFault s [(a, size * n, al)] with
      | some x => trapR s x
      | none => if s.prFull ∨ s.postHeld then heldR s else doneR (s.acceptPr p.toNat t slot.toNat a (op n))

def execPrput (p : BitVec 2) (t : BitVec 3) (a b : BitVec 5) (s : State) : Res := issuePr s p t a (some ((s.x b).toNat, 4096)) 16 16 .put
def execPrupd (p : BitVec 2) (t : BitVec 3) (a b : BitVec 5) (s : State) : Res := issuePr s p t a (some ((s.x b).toNat, 4096)) 16 16 .upd
def execPrwt (p : BitVec 2) (t : BitVec 3) (a b : BitVec 5) (s : State) : Res := issuePr s p t a (some ((s.x b).toNat, 1024)) 16 16 .wt
def execPrsum (p : BitVec 2) (t : BitVec 3) (a : BitVec 5) (s : State) : Res := issuePr s p t a none 32 32 (fun _ => .sum)

/-- The draw descriptor's fields keep their limits (R288). -/
def drawOk (bs : List Byte) : Bool :=
  let b := fieldAt bs 0 2
  let src := fieldAt bs 2 1
  decide (1 ≤ b) && decide (b ≤ 1024) && decide (src ≤ 1) && fieldAt bs 3 5 == 0 && decide (fieldAt bs 8 4 < 2 ^ 17)
  && (src == 1 || fieldAt bs 8 4 == 0) && fieldAt bs 12 4 == 0

def execPrdraw (p : BitVec 2) (t : BitVec 3) (ra rb : BitVec 5) (s : State) : Res :=
  let a := s.x ra
  let out := s.x rb
  match s.treeOf p.toNat with
  | none => trapR s { code := 0x15 }
  | some tr =>
    match rangesFault s [(a, 32, 32)] with
    | some x => trapR s x
    | none =>
      let key := tileKey s.tile a.toNat
      if s.vectorStores then heldR s
      else if s.signalBad key 32 then trapR s (.at 0x14 a)
      else
        let bs := s.signalPeek key 32
        let b := fieldAt bs 0 2
        let src := fieldAt bs 2 1
        let uoff := fieldAt bs 8 4
        if !drawOk bs then trapR s { code := 0x15 }
        else match rangesFault s ((out, 16 * b, 16) :: (if src = 1 then [(BitVec.ofNat 64 uoff, 4 * b, 4)] else [])) with
          | some x => trapR s x
          | none =>
            if s.prFull ∨ s.postHeld then heldR s
            else doneR (s.acceptPr p.toNat tr t.toNat a (.draw b src uoff (fieldAt bs 16 16) out))

/-- The configuration record's fields keep their limits (R284). -/
def treeConfigOk (bs : List Byte) : Bool :=
  let beta := fieldAt bs 8 4
  decide (fieldAt bs 0 2 < 4096) && fieldAt bs 2 2 == 0 && decide (1 ≤ fieldAt bs 4 4) && decide (fieldAt bs 4 4 ≤ 16777216)
  && decide (beta ≤ 0x42800000) && fieldAt bs 12 4 == 0 && fieldAt bs 24 8 == 0

/-- Some accepted operation names a handle's binding (R284). -/
def State.handleBusy (s : State) (h : Handle) : Bool :=
  (s.dieAt s.die).copies.any (fun c => c.hsrc == some h || c.hdst == some h || (match c.op with
    | .tsz x _ _ => x == h
    | .tsc x _ _ y _ => x == h || y == h
    | .tscmp x _ _ y _ _ => x == h || y == h
    | .block _ => false))
  || s.everySeq.any (fun q => dieOf (tileOf q.1) == s.die && q.2.mq.any (fun e => e.hdl == some h))

def execPrcfg (p : BitVec 2) (ra : BitVec 5) (s : State) : Res :=
  let a := s.x ra
  let n := p.toNat
  match recordFault s a with
  | some t => trapR s t
  | none =>
    let key := tileKey s.tile a.toNat
    if s.vectorStores then heldR s
    else if s.signalBad key 32 then trapR s (.at 0x14 a)
    else
      let bs := s.signalPeek key 32
      let hid := fieldAt bs 0 2
      let nleaf := fieldAt bs 4 4
      let beta : Lane := BitVec.ofNat 32 (fieldAt bs 8 4)
      let skey : Word := BitVec.ofNat 64 (fieldAt bs 16 8)
      let bad : Res := trapR s { code := 0x15 }
      if !treeConfigOk bs then bad
      else match find? (s.dieAt s.die).trees n with
        | some t =>
          if t.lnum = s.q.k.lnum ∧ t.hid = hid ∧ t.nleaf = nleaf then doneR (s.setTree s.die n { t with beta := beta, key := skey }) else bad
        | none =>
          match s.handleOf hid with
          | none => bad
          | some h =>
            if h.desc ≠ 0x04000000#32 ∨ h.rows * h.cols < 4 * 2 ^ log2up nleaf then bad
            else if s.handleBusy h then heldR s
            else
              let d := s.dieAt s.die
              let t : Tree := { lnum := s.q.k.lnum, hid := hid, hdl := some h, nleaf := nleaf, beta := beta, key := skey, prio := [], gen := [], staged := [],
                                stale := 0, refused := 0, refusedSt := 0, clrBy := [], failed := false, badStore := false, queue := [] }
              doneR (s.setDie s.die { d with trees := ins d.trees n t, handles := ins d.handles hid { h with tree := some n } })

def execPrclr (p : BitVec 2) (s : State) : Res :=
  match s.treeOf p.toNat with
  | none => trapR s { code := 0x15 }
  | some t => if s.postHeld then heldR s else doneR (s.setTree s.die p.toNat { t with clrBy := t.clrBy ++ [(s.q.k.home.toNat * 4 + s.q.k.role.toNat, s.q.k.ts)] })

/-- Staged records, the mark and the counts are discarded (R287). -/
def Tree.discard (t : Tree) : Tree := { t with staged := [], refusedSt := 0, clrBy := [] }

/-! ## Execution (R283, R286, R288-R291) -/

namespace State

/-- The tile ranges that a command reads, and those it writes: offset and length. -/
def prRanges (c : PrCmd) : List (Nat × Nat) × List (Nat × Nat) :=
  let a := c.addr.toNat
  match c.op with
  | .put n => ([(a, 16 * n)], [])
  | .upd n => ([(a, 16 * n)], [])
  | .wt n => ([(a, 16 * n)], [(a, 16 * n)])
  | .draw b src uoff _ out => (if src = 1 then [(uoff, 4 * b)] else [], [(out.toNat, 16 * b)])
  | .sum => ([], [(a, 32)])

/-- A frozen zone of a level outside the die holds a command (R283). -/
def prFrozen (s : State) (l : Nat) (c : PrCmd) : Bool :=
  let r := prRanges c
  (s.launchAt l).zones.any (fun z =>
    let lv := s.effLevel l z.lv
    z.memory == 0 && decide ((s.effLevel l .die).num < lv.num) && (s.barOf l lv (grpOf c.tile)).exch
    && (r.1 ++ r.2).any (fun x => decide (z.start < x.1 + x.2) && decide (x.1 < z.start + z.size)))

/-- The records that PRPUT and PRUPD submit: staged ones, and how many are refused. -/
def prStage (s : State) (t : Tree) (c : PrCmd) (put : Bool) (n : Nat) : Tree :=
  (List.range n).foldl (fun t i =>
    let bs := s.partyPeek t.lnum c.party (tileKey c.tile (c.addr.toNat + 16 * i)) 16
    let leaf := fieldAt bs 0 4
    let st := fieldAt bs 6 1
    match validPrio (BitVec.ofNat 32 (fieldAt bs 8 4)) with
    | some p =>
      if t.nleaf ≤ leaf ∨ (!put ∧ (st = 1 ∨ st = 2)) then { t with refusedSt := t.refusedSt + 1 }
      else { t with staged := t.staged ++ [{ put := put, leaf := leaf, gen := BitVec.ofNat 16 (fieldAt bs 4 2), prio := p,
                                             place := c.home.toNat * 4 + c.role.toNat, ts := c.ts, order := c.order, idx := i }] }
    | none => { t with refusedSt := t.refusedSt + 1 }) t

/-- The outputs of a command: tile offset and bytes of each record. -/
def prOutputs (s : State) (t : Tree) (c : PrCmd) : List (Nat × List Byte) :=
  match c.op with
  | .put _ => []
  | .upd _ => []
  | .wt n => (List.range n).map (fun i =>
      let o := c.addr.toNat + 16 * i
      let bs := s.partyPeek t.lnum c.party (tileKey c.tile o) 16
      (o + 12, leBytes 4 (t.weight c.beta (fieldAt bs 6 1) (BitVec.ofNat 32 (fieldAt bs 8 4))).toNat))
  | .draw b src uoff ctr out => (List.range b).map (fun j =>
      let u : Nat × Bool :=
        if src = 1 then suppliedUniform (BitVec.ofNat 32 (leNat (s.partyPeek t.lnum c.party (tileKey c.tile (uoff + 4 * j)) 4)))
        else (philoxWord c.key (ctr + j / 4) (j % 4) / 2 ^ 8 * 2 ^ 125, false)
      (out.toNat + 16 * j, t.draw b j u.1 u.2))
  | .sum =>
    [(c.addr.toNat, leBytes 4 t.total.toNat ++ leBytes 4 t.minPrio.toNat ++ leBytes 4 t.nleaf ++ leBytes 4 t.prio.length
        ++ leBytes 4 (min t.stale (2 ^ 32 - 1)) ++ leBytes 4 (min t.refused (2 ^ 32 - 1)) ++ leBytes 4 c.beta.toNat
        ++ leBytes 4 (b2n (!t.clrBy.isEmpty) + 2 * b2n t.failed))]

/-- Write a command's outputs (R283). -/
def prWrite (s : State) (l die : Nat) (c : PrCmd) (xs : List (Nat × List Byte)) (err : Bool) : State :=
  xs.foldl (fun s x =>
    let f (s : State) : State :=
      s.engineEarly l (ctxParty die c.ctx) (grpOf c.tile) (s.effLevel l .die) (tileKey c.tile x.1) x.2 (BitVec.ofNat 64 x.1)
    if err then s.oldOrNew f else f s) s

/-- One command of a tree runs: the state, the tree, and its status (R291). -/
def runPr (s : State) (die : Nat) (t : Tree) (c : PrCmd) : State × Tree × Nat :=
  let h := t.hdl
  let offline := h.any (fun h => s.rangeOffline die h 0 h.blocks)
  let bad := t.badStore || h.any (fun h => s.rangeBad die h 0 h.blocks)
  let input := (prRanges c).1.any (fun r => s.partyBad t.lnum c.party (tileKey c.tile r.1) r.2)
  let isSum := c.op == .sum
  if t.failed ∧ !isSum then (s, t, 8)
  else if input then (s, t, 8)
  else if !t.failed ∧ bad then (s.prWrite t.lnum die c (s.prOutputs t c) true, { t with failed := true }, 8)
  else if offline then (s.prWrite t.lnum die c (s.prOutputs t c) true, t, 7)
  else
    match c.op with
    | .put m => (s, s.prStage t c true m, 0)
    | .upd m => (s, s.prStage t c false m, 0)
    | _ => (s.prWrite t.lnum die c (s.prOutputs t c) false, t, 0)

/-- A tree that has run a command goes back: into the table, or, freed already (R285), to its place among the leaving ones until its queue is
empty; what it stages is discarded. `old`: the tree before the command. -/
def keepTree (s : State) (die n : Nat) (old t : Tree) (leaving : Bool) : State :=
  if !leaving then s.setTree die n t
  else
    let d := s.dieAt die
    s.setDie die { d with leaving := if t.queue.isEmpty then d.leaving.erase (n, old) else d.leaving.replace (n, old) (n, t.discard) }

/-- The oldest command of a tree may run: its exchange is open, and no frozen zone holds it (R283). -/
def prReady (s : State) (t : Tree) : Bool :=
  match t.queue with
  | [] => false
  | c :: _ =>
    let bar := s.barOf t.lnum .die (grpOf c.tile)
    bar.exch && decide (c.step.toNat ≤ bar.count.toNat) && !s.prFrozen t.lnum c

/-- The tree of a number that runs next, of the leaving ones, oldest first, and the held one, and whether it is leaving: they proceed
independently, so it is the first whose oldest command may run (R283). -/
def treeToRun (s : State) (die n : Nat) : Option (Tree × Bool) :=
  let d := s.dieAt die
  let all := (d.leaving.filter (fun x => x.1 == n)).map (fun x => (x.2, true)) ++ ((find? d.trees n).map (fun t => (t, false))).toList
  (all.find? (fun x => s.prReady x.1)).or all.head?

end State

/-- PR_COMMAND_EXECUTE. -/
def execPrCommandExecute (die : BitVec 3) (tree : BitVec 2) (s : State) : Res :=
  match s.treeToRun die.toNat tree.toNat with
  | none => .fault .notEnabled
  | some (t, leaving) =>
    match t.queue with
    | [] => .fault .notEnabled
    | c :: rest =>
      if !s.prReady t then .fault .notEnabled
      else
        let r := s.runPr die.toNat { t with queue := rest } c
        .next ((r.1.keepTree die.toNat tree.toNat t r.2.1 leaving).endNumbered die.toNat c.ctx c.num r.2.2)

/-! ## Commit at the die barrier (R285-R287) -/

/-- The sort key of a staged record. -/
def PrStaged.before (a b : PrStaged) : Bool :=
  if a.leaf ≠ b.leaf then decide (a.leaf < b.leaf)
  else if a.place ≠ b.place then decide (a.place < b.place)
  else if a.ts ≠ b.ts then decide (a.ts.toNat < b.ts.toNat)
  else if a.order ≠ b.order then decide (a.order < b.order)
  else decide (a.idx ≤ b.idx)

def insertPr (x : PrStaged) : List PrStaged → List PrStaged
  | [] => [x]
  | y :: r => if y.before x then y :: insertPr x r else x :: y :: r

/-- One staged record is applied. -/
def Tree.apply (t : Tree) (x : PrStaged) : Tree :=
  if x.put then { t with prio := put t.prio x.leaf x.prio, gen := put t.gen x.leaf (look t.gen x.leaf + 1) }
  else if x.gen = look t.gen x.leaf then { t with prio := put t.prio x.leaf x.prio }
  else { t with stale := t.stale + 1 }

/-- The staged records are sorted and applied. -/
def Tree.commit (t : Tree) : Tree :=
  let t := (t.staged.foldl (fun acc x => insertPr x acc) []).foldl Tree.apply t
  { t with staged := [], refused := t.refused + t.refusedSt, refusedSt := 0 }
namespace State

/-- The trees of a launch on a die at a barrier that commits (R286): a marked one becomes free (R285). -/
def commitTrees (s : State) (l die : Nat) : State :=
  let d := s.dieAt die
  let gone := d.trees.filter (fun t => t.2.lnum == l && !t.2.clrBy.isEmpty)
  let freed := gone.map (·.1)
  s.setDie die { d with
    -- what a freed tree has accepted in the superstep's compute phase executes in the next exchange
    leaving := d.leaving ++ (gone.filter (fun t => !t.2.queue.isEmpty)).map (fun t => (t.1, t.2.discard)),
    trees := (d.trees.filter (fun t => !freed.contains t.1)).map (fun t => if t.2.lnum = l then (t.1, t.2.commit) else t),
    handles := d.handles.map (fun h => if h.2.tree.any freed.contains then (h.1, { h.2 with tree := none }) else h) }
/-- At a barrier that discards (R287). -/
def discardTrees (s : State) (l die : Nat) : State :=
  let d := s.dieAt die
  s.setDie die { d with trees := d.trees.map (fun t => if t.2.lnum = l then (t.1, t.2.discard) else t) }

end State

/-- PR_QLIM_WRITE (R292). -/
def execPrQlimWrite (die : BitVec 3) (v : BitVec 64) (s : State) : Res :=
  .next (devWrite s (0x1000000 + 0x100000 * die.toNat + 0x100) ⟨true, true⟩ v)

end Sys2Proof.Machine
end

