-- ==== Sys2Proof/Machine/Signature.lean ====
section
/-! DEFINITION. The signature accumulator (31): shapes and teams, the arithmetic of signatures, issue and execution. -/

namespace Sys2Proof.Machine

/-! ## Levels and arithmetic (R293, R302) -/

/-- The elements of levels 1 to m: level k's element I under 65536 * k + I. -/
abbrev Levels := Store 32
def Levels.elem (s : Levels) (k i : Nat) : Lane := look s (65536 * k + i)

/-- One rounding's flags: NV with every NaN result, no DZ. -/
def sgFlags (r : Fl Lane) : Fl Lane :=
  (r.1, (r.2 &&& 0x07#5) ||| (if bits r.1 30 23 = 255 ∧ bits r.1 22 0 ≠ 0 then fNV else 0))
def sgAdd (a b : Lane) : Fl Lane := sgFlags (add32 .rne false a b)
def sgSub (a b : Lane) : Fl Lane := sgFlags (sub32 .rne false a b)
def sgMul (a b : Lane) : Fl Lane := sgFlags (mul32 .rne false a b)
/-- x / n for a small number n. -/
def sgDiv (a : Lane) (n : Nat) : Fl Lane := sgFlags (div32 .rne false a (rne32 (.fin false (.int n 0))).1)

/-- A level written from its elements with their flags. -/
def Levels.fill (s : Levels) (k n : Nat) (f : Nat → Fl Lane) (fl : BitVec 5) : Levels × BitVec 5 :=
  (List.range n).foldl (fun acc i => let r := f i; (put acc.1 (65536 * k + i) r.1, acc.2 ||| r.2)) (s, fl)

/-- The truncated exponential of an increment. -/
def sgExp (d m : Nat) (delta : List Lane) (fl : BitVec 5) : Levels × BitVec 5 :=
  let one := Levels.fill [] 1 d (fun i => (delta.getD i 0, 0)) fl
  (range 2 (m - 1)).foldl (fun acc j =>
    Levels.fill acc.1 j (d ^ j) (fun i =>
      let q := sgDiv (delta.getD (i % d) 0) j
      let p := sgMul (Levels.elem acc.1 (j - 1) (i / d)) q.1
      (p.1, p.2 ||| q.2)) acc.2) one

/-- One element of the truncated product. -/
def sgProdAt (d : Nat) (s q : Levels) (k i : Nat) : Fl Lane :=
  (range 1 k).foldl (fun acc j =>
    let t : Fl Lane := if j = k then (q.elem k i, 0) else sgMul (s.elem (k - j) (i / d ^ j)) (q.elem j (i % d ^ j))
    let a := sgAdd acc.1 t.1
    (a.1, acc.2 ||| t.2 ||| a.2)) (s.elem k i, 0)
/-- The truncated product P(S, Q). -/
def sgProd (d m : Nat) (s q : Levels) (fl : BitVec 5) : Levels × BitVec 5 :=
  (range 1 m).foldl (fun acc k => Levels.fill acc.1 k (d ^ k) (sgProdAt d s q k) acc.2) ([], fl)

/-- W^n from W^(n-1) (R305); zero below level n. -/
def sgPower (d m n : Nat) (w x : Levels) (fl : BitVec 5) : Levels × BitVec 5 :=
  (range n (m + 1 - n)).foldl (fun acc k => Levels.fill acc.1 k (d ^ k) (fun i =>
    (range 1 (k - 1)).foldl (fun (acc : Fl Lane) j =>
      let p := sgMul (w.elem (k - j) (i / d ^ j)) (x.elem j (i % d ^ j))
      let a := sgAdd acc.1 p.1
      (a.1, acc.2 ||| p.2 ||| a.2)) (0, 0)) acc.2) ([], fl)

/-- The powers W^2 to W^m. -/
def sgPowers (d m : Nat) (x : Levels) (fl : BitVec 5) : List Levels × BitVec 5 :=
  let r := (range 2 (m - 1)).foldl (fun (acc : List Levels × Levels × BitVec 5) n =>
    let w := sgPower d m n acc.2.1 x acc.2.2
    (acc.1 ++ [w.1], w.1, w.2)) ([], x, fl)
  (r.1, r.2.2)

/-- The log-signature. -/
def sgLog (d m : Nat) (x : Levels) (fl : BitVec 5) : Levels × BitVec 5 :=
  let ws := sgPowers d m x fl
  (range 1 m).foldl (fun acc k => Levels.fill acc.1 k (d ^ k) (fun i =>
    (range 2 (k - 1)).foldl (fun (a : Fl Lane) n =>
      let t := sgDiv ((ws.1.getD (n - 2) []).elem k i) n
      let b := if n % 2 = 0 then sgSub a.1 t.1 else sgAdd a.1 t.1
      (b.1, a.2 ||| t.2 ||| b.2)) (x.elem k i, 0)) acc.2) ([], ws.2)

/-! ## Shapes and images (R294, R296, R297) -/

def levelSum (d m : Nat) : Nat := ((range 1 m).map (d ^ ·)).sum
def shapeOk (d m : Nat) (team : Bool) : Bool :=
  decide (2 ≤ d) && decide (d ≤ 16) && decide (1 ≤ m) && decide (m ≤ 6) && decide (d ^ m ≤ 65536)
  && (if team then decide (2 ≤ m) else decide (levelSum d m ≤ 65536))

/-- The image size Z. -/
def imageSize (d m : Nat) : Nat := (32 + 4 * levelSum d m + 31) / 32 * 32
/-- The offset of level k in an image. -/
def levelOff (d k : Nat) : Nat := 32 + 4 * levelSum d (k - 1)

/-- STATUS. -/
def Sig.statusWord (x : Sig) : Nat := b2n x.failed * 512 + b2n x.mismatch * 256 + (x.flags &&& 0x17#5).toNat

/-- An image of some levels. -/
def Sig.image (x : Sig) (kind : Nat) (ls : Levels) : List Byte :=
  let body := [BitVec.ofNat 8 x.d, BitVec.ofNat 8 x.m, BitVec.ofNat 8 kind, 1] ++ leBytes 4 x.statusWord ++ leBytes 8 x.count.toNat
    ++ List.replicate 16 0
    ++ (range 1 x.m).flatMap (fun k => (List.range (x.d ^ k)).flatMap (fun i => leBytes 4 (ls.elem k i).toNat))
  body ++ List.replicate (imageSize x.d x.m - body.length) 0

/-- The levels of an image at a memory key, its words being read by `at_`. -/
def readLevels (at_ : Nat → Nat) (d n key : Nat) : Levels :=
  (range 1 n).foldl (fun s k =>
    (List.range (d ^ k)).foldl (fun s i => put s (65536 * k + i) (BitVec.ofNat 32 (at_ (key + levelOff d k + 4 * i)))) s) []

/-! ## Issue (R298-R301) -/

/-- The end of the region that an array must lie in: raw tile SRAM or ordinary group memory. -/
def sgRegionEnd (a : Word) : Option Nat :=
  match regionOf a.toNat with
  | .raw _ => some tileSize
  | .gmem _ => some 0x10EC000
  | _ => none

/-- Steps 3 to 5 of R299 for n bytes. -/
def sgRangeFault (s : State) (a : Word) (n al : Nat) : Option Trap :=
  if a.toNat % al ≠ 0 then some (.at 0x04 a)
  else match sgRegionEnd a with
    | none => some (.at 0x05 a)
    | some e =>
      if e < a.toNat + n then some (.at 0x05 (BitVec.ofNat 64 e))
      else match regionOf a.toNat with
        | .raw off => (s.outsideShare s.q.k.lnum s.tile off n).map (fun d => .at 0x0B (a + BitVec.ofNat 64 d))
        | _ => none

namespace State

/-- The accumulator of the issuer's group, when its launch may command it here (R299 step 1). -/
def sigOf (s : State) : Option Sig :=
  let x := (s.groupAt s.grp).sig
  if x.held = some s.q.k.lnum ∧ !s.launch.secondary ∧ (!x.team ∨ x.lead = s.grp) then some x else none
def setSig (s : State) (g : Nat) (x : Sig) : State := s.setGroup g { s.groupAt g with sig := x }

/-- A command of another continuation is incomplete and changes the state (R300): SGLOG too, whose roundings set flags (R305). -/
def sgRaces (s : State) (x : Sig) : Bool := x.queue.any (fun c => c.party != s.q.k.party && c.op != .rd)

/-- A numbered command is accepted. -/
def acceptSg (s : State) (x : Sig) (slot : Nat) (a : Word) (op : SgOp) : State :=
  let ctx := s.slotCtx slot
  let changes : Bool := match op with
    | .inc _ => true
    | .join _ _ => true
    | .clr => true
    | _ => false
  let p := s.takeNumber slot
  let inGroup : Bool := match op, regionOf a.toNat with
    | .clr, _ => false
    | _, .gmem _ => true
    | _, _ => false
  let c : SgCmd := { op := op, addr := a, tile := s.tile, party := s.q.k.party, ctx := ctx, num := p.1,
                     step := if inGroup then some (s.exchStep .group) else none, ep := s.epoch }
  let s' := p.2.setSig s.grp { x with queue := x.queue ++ [c] }
  if changes ∧ s.sgRaces x then s'.detEvent s.q.k.lnum true a else s'

end State

/-- The shape of a numbered command: its operands, its range, room, acceptance. -/
def issueSg (s : State) (slot : BitVec 3) (a : Word) (ok : Bool) (range : Sig → Option (Nat × Nat)) (op : SgOp) : Res :=
  match s.sigOf with
  | none => trapR s { code := 0x15 }
  | some x =>
    if !ok then trapR s { code := 0x15 }
    else match (range x).bind (fun r => sgRangeFault s a r.1 r.2) with
      | some t => trapR s t
      | none =>
        if (s.dieAt s.die).sgQlim ≤ x.queue.length ∨ s.postHeld then heldR s
        else doneR (s.acceptSg x slot.toNat a op)

def execSginc (t : BitVec 3) (a b : BitVec 5) (s : State) : Res :=
  let n := (s.x b).toNat
  issueSg s t (s.x a) (decide (1 ≤ n) && decide (n ≤ 4096)) (fun x => some (4 * n * x.d, 4)) (.inc n)
def execSgjoin (t : BitVec 3) (a b : BitVec 5) (s : State) : Res :=
  let w := s.x b
  let n := bits w 6 0
  issueSg s t (s.x a) (bits w 63 8 == 0 && decide (1 ≤ n) && decide (n ≤ 64)) (fun x => some (n * imageSize x.d x.m, 32)) (.join (bit w 7) n)
def execSglog (t : BitVec 3) (a : BitVec 5) (s : State) : Res := issueSg s t (s.x a) true (fun x => some (imageSize x.d x.m, 32)) .log
def execSgrd (t : BitVec 3) (a : BitVec 5) (s : State) : Res := issueSg s t (s.x a) true (fun x => some (imageSize x.d x.m, 32)) .rd
def execSgclr (t : BitVec 3) (s : State) : Res := issueSg s t 0 true (fun _ => none) .clr

/-- The groups of a shape led by group g. -/
def teamGroups (g m : Nat) (team : Bool) : List Nat := if team then range g m else [g]

namespace State

/-- The accumulators that go with one: itself and its team. -/
def sigMembers (s : State) (g : Nat) : List Nat :=
  let x := (s.groupAt g).sig
  teamGroups g x.m x.team
/-- A level of some levels. -/
def oneLevel (ls : Levels) (k : Nat) : Levels := ls.filter (fun p => decide (65536 * k ≤ p.1) && decide (p.1 < 65536 * (k + 1)))
/-- An accumulator with all its levels: of a team, the group at distance k - 1 from the lead holds level k in its own store (R295). -/
def gatherSig (s : State) (g : Nat) (x : Sig) : Sig :=
  if x.team then { x with lev := (range 1 x.m).flatMap (fun k => oneLevel (s.groupAt (g + k - 1)).sig.lev k) } else x
/-- Its levels go back to the stores that hold them. -/
def storeSig (s : State) (g : Nat) (x : Sig) : State :=
  if !x.team then s.setSig g x
  else (range 1 x.m).foldl (fun s k =>
    let y := if k = 1 then x else (s.groupAt (g + k - 1)).sig
    s.setSig (g + k - 1) { y with lev := oneLevel x.lev k }) s
/-- Some level store of an accumulator is in error (R307). -/
def sigBad (s : State) (g : Nat) (x : Sig) : Bool := x.badStore || (x.team && (range g x.m).any (fun y => (s.groupAt y).sig.badStore))

/-- SGCLR reads nothing of the level stores and writes them whole, which ends the errors in them (43 R372). -/
def soundSigs (s : State) (g : Nat) (x : Sig) : State :=
  (teamGroups g x.m x.team).foldl (fun s y => s.setSig y { (s.groupAt y).sig with badStore := false }) s

/-- They become free. -/
def freeSigs (s : State) (gs : List Nat) : State := gs.foldl (fun s g => s.setSig g Sig.reset) s
/-- They become held by a launch in the identity state of a shape. -/
def holdSigs (s : State) (l g d m : Nat) (team : Bool) : State :=
  (teamGroups g m team).foldl (fun s x => s.setSig x { Sig.reset with held := some l, lead := g, team := team, d := d, m := m }) s

end State

/-- SGCFG with a configuration word (R301). -/
def sgConfigure (s : State) (w : Word) : Res :=
  let g := s.grp
  let l := s.q.k.lnum
  let x := (s.groupAt g).sig
  let d := bits w 4 0
  let m := bits w 10 8
  let team := bit w 16
  let bad : Res := trapR s { code := 0x15 }
  let own := if x.held = some l then s.sigMembers g else []
  if bits w 63 17 ≠ 0 ∨ bits w 15 11 ≠ 0 ∨ bits w 7 5 ≠ 0 ∨ s.launch.secondary then bad
  else if x.held.any (· != l) ∨ (x.held.isSome ∧ x.team ∧ x.lead ≠ g) then bad
  else if m = 0 then
    (if x.held.isNone then doneR s else if !x.queue.isEmpty then heldR s else doneR (s.freeSigs own))
  else if !shapeOk d m team then bad
  else
    let need := teamGroups g m team
    if team ∧ 127 < g % 128 + m - 1 then bad
    else if need.any (fun y => !(s.footOf l).any (fun t => grpOf t == y)) then bad
    else if need.any (fun y => !own.contains y && (s.groupAt y).sig.held.isSome) then bad
    else if !x.queue.isEmpty then heldR s
    else doneR ((s.freeSigs own).holdSigs l g d m team)

def execSgcfg (a : BitVec 5) (s : State) : Res := sgConfigure s (s.x a)
def execSgcfgRelease (a : BitVec 5) (s : State) : Res := sgConfigure s (s.x a)

/-! ## Execution (R300, R303-R307) -/

namespace State

/-- The memory key of a command's array. -/
def sgKey (g : Nat) (c : SgCmd) : Nat :=
  match regionOf c.addr.toNat with
  | .gmem off => groupKey g off
  | _ => tileKey c.tile c.addr.toNat

/-- The bytes that a command reads, and writes. -/
def sgLens (x : Sig) (c : SgCmd) : Nat × Nat :=
  match c.op with
  | .inc n => (4 * n * x.d, 0)
  | .join _ n => (n * imageSize x.d x.m, 0)
  | .log => (0, imageSize x.d x.m)
  | .rd => (0, imageSize x.d x.m)
  | .clr => (0, 0)

/-- A frozen zone holds a command that is no part of its exchange. -/
def sgFrozen (s : State) (l g : Nat) (x : Sig) (c : SgCmd) : Bool :=
  let n := (sgLens x c).1 + (sgLens x c).2
  let mem : Nat × Nat := match regionOf c.addr.toNat with
    | .gmem off => (1, off)
    | _ => (0, c.addr.toNat)
  n != 0 && (s.launchAt l).zones.any (fun z =>
    let lv := s.effLevel l z.lv
    let bar := s.barOf l lv g
    z.memory == mem.1 && bar.exch && decide (z.start < mem.2 + n) && decide (mem.2 < z.start + z.size)
    && !(lv == .group && c.step == some bar.count))

/-- n bytes of a command's input as its issuer reads them (R300), as a number. -/
def sgNat (s : State) (l : Nat) (c : SgCmd) (key n : Nat) : Nat := leNat (s.partyPeek l c.party key n)

/-- The increments of an array. -/
def increments (s : State) (l : Nat) (c : SgCmd) (key d n : Nat) : List (List Lane) :=
  (List.range n).map (fun i => (List.range d).map (fun j => BitVec.ofNat 32 (s.sgNat l c (key + 4 * (i * d + j)) 4)))

/-- An image counts as present, and it is one that does not match (R304). `at_`: n bytes of memory as a number. -/
def imagePresent (at_ : Nat → Nat → Nat) (x : Sig) (key : Nat) : Bool :=
  bit (BitVec.ofNat 8 (at_ (key + 3) 1)) 0 && at_ key 1 == x.d && at_ (key + 1) 1 == x.m && at_ (key + 2) 1 == 0
def imageStranger (at_ : Nat → Nat → Nat) (x : Sig) (key : Nat) : Bool :=
  bit (BitVec.ofNat 8 (at_ (key + 3) 1)) 0 && !imagePresent at_ x key

/-- SGJOIN's new state. -/
def sgJoin (at_ : Nat → Nat → Nat) (x : Sig) (side : Bool) (n key : Nat) : Sig :=
  let z := imageSize x.d x.m
  let keys := (List.range n).map (fun j => key + j * z)
  let leaves := keys.map (fun k => if imagePresent at_ x k then some (readLevels (at_ · 4) x.d x.m k) else none)
  let r := tree (fun a b f => sgProd x.d x.m a b f) leaves x.flags
  let x := { x with mismatch := x.mismatch || keys.any (imageStranger at_ x) }
  match r.1 with
  | none => x
  | some q =>
    let p := if side then sgProd x.d x.m q x.lev r.2 else sgProd x.d x.m x.lev q r.2
    { x with lev := p.1, flags := p.2,
             count := x.count + ((keys.filter (imagePresent at_ x)).map (fun k => BitVec.ofNat 64 (at_ (k + 8) 8))).sum }

/-- Output bytes in 32-byte beats. -/
def sgWrite (s : State) (l g : Nat) (c : SgCmd) (bs : List Byte) (err : Bool) : State :=
  (List.range (bs.length / 32)).foldl (fun s i =>
    let f (s : State) : State :=
      s.engineEarly l (ctxParty (g / 128) c.ctx) g .group (sgKey g c + 32 * i) ((bs.drop (32 * i)).take 32) (c.addr + BitVec.ofNat 64 (32 * i))
    if err then s.oldOrNew f else f s) s

/-- A command's effect and status; `x` is the accumulator, all its levels with it, with the command gone from its queue. -/
def runSg (s : State) (l g : Nat) (x : Sig) (c : SgCmd) : State × Nat :=
  let key := sgKey g c
  let input := s.partyBad l c.party key (sgLens x c).1
  let logged := sgLog x.d x.m x.lev x.flags
  let img : List Byte := match c.op with
    | .log => { x with flags := logged.2 }.image 1 logged.1
    | .rd => x.image 0 x.lev
    | _ => []
  if x.failed ∧ c.op ≠ .rd then (s.storeSig g x, 8)
  else if (sgLens x c).1 ≠ 0 ∧ input then (s.storeSig g x, 8)
  else if s.sigBad g x ∧ !x.failed ∧ c.op ≠ .clr then ((s.storeSig g { x with failed := true }).sgWrite l g c img true, 8)
  else
    match c.op with
    | .inc n =>
      let r := (s.increments l c key x.d n).foldl (fun (acc : Levels × BitVec 5) v =>
        let e := sgExp x.d x.m v acc.2
        sgProd x.d x.m acc.1 e.1 e.2) (x.lev, x.flags)
      (s.storeSig g { x with lev := r.1, flags := r.2, count := x.count + BitVec.ofNat 64 n }, 0)
    | .join side n => (s.storeSig g (sgJoin (s.sgNat l c) x side n key), 0)
    | .log => ((s.storeSig g { x with flags := logged.2 }).sgWrite l g c img false, 0)
    | .rd => ((s.storeSig g x).sgWrite l g c img false, 0)
    | .clr => ((s.storeSig g { x with lev := [], flags := 0, mismatch := false, count := 0 }).soundSigs g x, 0)

end State

/-- SG_COMMAND_EXECUTE. -/
def execSgCommandExecute (grp : BitVec 10) (s : State) : Res :=
  let g := grp.toNat
  let x := (s.groupAt g).sig
  match x.held, x.queue with
  | some l, c :: rest =>
    let bar := s.barOf l .group g
    if c.step.any (fun n => !bar.exch || decide (bar.count.toNat < n.toNat)) ∨ s.sgFrozen l g x c then .fault .notEnabled
    else
      let r := s.runSg l g (s.gatherSig g { x with queue := rest }) c
      .next (r.1.endNumbered (g / 128) c.ctx c.num r.2)
  | _, _ => .fault .notEnabled

/-- SG_QLIM_WRITE (R308). -/
def execSgQlimWrite (die : BitVec 3) (v : BitVec 64) (s : State) : Res :=
  .next (devWrite s (0x1000000 + 0x100000 * die.toNat + 0x10400) ⟨true, true⟩ v)

end Sys2Proof.Machine
end

