-- ==== Sys2Proof/Machine/Quorum.lean ====
section
/-! DEFINITION. Quorum meetings (33 R309-R321): opening, commands, the fate of contributions, closing rounds, records, exclusion. -/

namespace Sys2Proof.Machine

/-! ## Opening (R310, R311) -/

/-- The descriptor's fields. -/
structure QmDesc where
  home : Bool
  len : Nat
  n : Nat
  quorum : Nat
  lambda : Lane
  first : Nat
  res : Word
  work : Word
  link : Word
  flags : Nat
  deriving DecidableEq, Repr

def parseMeeting (bs : List Byte) : QmDesc :=
  { home := fieldAt bs 0 1 == 0, len := fieldAt bs 2 2, n := fieldAt bs 4 2, quorum := fieldAt bs 6 2,
    lambda := BitVec.ofNat 32 (fieldAt bs 8 4), first := fieldAt bs 12 4, res := BitVec.ofNat 64 (fieldAt bs 16 8),
    work := BitVec.ofNat 64 (fieldAt bs 24 8), link := BitVec.ofNat 64 (fieldAt bs 32 8), flags := fieldAt bs 40 1 }

/-- The limits and reserved parts of a descriptor. -/
def meetingFieldsOk (bs : List Byte) (d : QmDesc) : Bool :=
  decide (fieldAt bs 0 1 ≤ 1) && fieldAt bs 1 1 == 0 && decide (1 ≤ d.len) && decide (d.len ≤ 1024) && fieldAt bs 41 23 == 0
  && (if d.home then
        decide (1 ≤ d.n) && decide (d.n ≤ 2048) && decide (1 ≤ d.quorum) && decide (d.quorum ≤ d.n)
        && decide (d.lambda.toNat ≤ 0x3F800000) && decide (d.flags ≤ 3)
      else
        d.n == 0 && d.quorum == 0 && d.lambda == 0 && d.work == 0 && d.flags == 0 && bits d.link 63 25 == 0)

/-- Pages of a working area: mapped with write permission and ATTR 0. -/
def State.workMapped (s : State) (space : Nat) (a : Word) (n : Nat) : Bool :=
  (List.range ((n + 65535) / 65536)).all (fun i =>
    let v := a + BitVec.ofNat 64 (65536 * i)
    decide (regionOf v.toNat = .xlat) && (match s.walk space v.toNat with
      | .ok (leaf, _) => s.allows space v.toNat leaf .st && entryAttr leaf == 0 && physKind s.form (entryPa leaf) != some PhysKind.dev
      | .error _ => false))

/-- RES and its 4·L bytes: the region's end, and the memory key with its tile, if it lies in a tile. -/
def State.resPlace (s : State) (a : Word) (n : Nat) : Option (Nat × Option (Nat × Nat)) :=
  match regionOf a.toNat with
  | .raw off => if off + n ≤ tileSize then some (tileKey s.tile off, some (s.tile, off)) else none
  | .peer t off => if off + n ≤ tileSize then some (tileKey (s.grp * 16 + t) off, some (s.grp * 16 + t, off)) else none
  | .gmem off => if off + n ≤ ctxBase then some (groupKey s.grp off, none) else none
  | _ => none

/-- The first byte of RES that does not lie in its region. -/
def resOutside (a : Word) : Word :=
  match regionOf a.toNat with
  | .raw off => a + BitVec.ofNat 64 (tileSize - off)
  | .peer _ off => a + BitVec.ofNat 64 (tileSize - off)
  | .gmem off => a + BitVec.ofNat 64 (ctxBase - off)
  | _ => a

/-- The checks of a descriptor's two addresses (R310). -/
def meetingFault (s : State) (d : QmDesc) : Option Trap :=
  let l := s.q.k.lnum
  let table := if d.home then 4 * d.n else 0
  if d.home ∧ d.link.toNat % 4 ≠ 0 then some (.at 0x04 d.link)
  else if d.res.toNat % 32 ≠ 0 then some (.at 0x04 d.res)
  else if d.home ∧ tileSize < d.link.toNat + table then some (.at 0x05 (firstOutside d.link))
  else match s.resPlace d.res (4 * d.len) with
    | none => some (.at 0x05 (resOutside d.res))
    | some (_, t) =>
      match (if d.home then s.outsideShare l s.tile d.link.toNat table else none), t.bind (fun t => s.outsideShare l t.1 t.2 (4 * d.len)) with
      | some x, _ => some (.at 0x0B (d.link + BitVec.ofNat 64 x))
      | none, some x => some (.at 0x0B (d.res + BitVec.ofNat 64 x))
      | none, none => none

/-- The member table's entries. -/
def State.memberTable (s : State) (d : QmDesc) : List (BitVec 32) :=
  if d.home then (List.range d.n).map (fun i => BitVec.ofNat 32 (s.signalNat (tileKey s.tile (d.link.toNat + 4 * i)) 4)) else []

def execQmopen (m : BitVec 4) (ra : BitVec 5) (s : State) : Res :=
  let a := s.x ra
  let bad : Res := trapR s { code := 0x15 }
  if s.launch.secondary then bad
  else match rawFault s a 64 32 with
    | some t => trapR s t
    | none =>
      let key := tileKey s.tile a.toNat
      if s.vectorStores then heldR s
      else if s.signalBad key 64 then trapR s (.at 0x14 a)
      else
        let bs := s.signalPeek key 64
        let d := parseMeeting bs
        match meetingFault s d with
        | some t => trapR s t
        | none =>
          let table := s.memberTable d
          let g := s.groupAt s.grp
          if !meetingFieldsOk bs d ∨ (find? g.meet m.toNat).isSome ∨ table.any (fun e => bits e 31 24 ≠ 0 ∨ bits e 23 16 = 255 ∨ bits e 15 11 ≠ 0)
              ∨ (d.home ∧ (d.work.toNat % 65536 ≠ 0 ∨ !s.workMapped s.launch.space d.work (37888 + 12 * d.len * d.n))) then bad
          else if d.home ∧ s.signalBad (tileKey s.tile d.link.toNat) (4 * d.n) then trapR s (.at 0x14 d.link)
          else
            let x : Meeting :=
              { lnum := s.q.k.lnum, space := s.launch.space, home := d.home, len := d.len, n := d.n, quorum := d.quorum, lambda := d.lambda,
                open_ := d.first, resKey := ((s.resPlace d.res (4 * d.len)).map (·.1)).getD 0, work := d.work, link := d.link,
                replay := d.flags % 2 == 1, bcast := d.flags / 2 == 1, members := table, onTime := [], late := [], back := [], next := [],
                done := [], excluded := [], senders := [], lagDrop := [], refused := 0, dropped := 0, records := [], forced := [],
                failed := none, badWork := false, queue := [] }
            doneR (s.setGroup s.grp { g with meet := ins g.meet m.toNat x })

/-! ## Issue (R312, R313) -/

namespace State

def meetAt (s : State) (g m : Nat) : Option Meeting := find? (s.groupAt g).meet m
def setMeet (s : State) (g m : Nat) (x : Meeting) : State :=
  let gr := s.groupAt g
  s.setGroup g { gr with meet := ins gr.meet m x }
/-- A meeting that the running continuation may command. -/
def meetOf (s : State) (m : Nat) : Option Meeting :=
  match s.meetAt s.grp m with
  | some x => if x.lnum = s.q.k.lnum ∧ !s.launch.secondary then some x else none
  | none => none

/-- Unstarted commands of the group's engine. -/
def qmFull (s : State) : Bool :=
  decide (64 ≤ ((s.groupAt s.grp).meet.map (fun m => (m.2.queue.filter (fun c => !c.sent)).length)).sum)

/-- A numbered command is accepted. -/
def acceptQm (s : State) (m : Nat) (x : Meeting) (slot : Nat) (a : Word) (op : QmOp) : State :=
  let ctx := s.slotCtx slot
  let p := s.takeNumber slot
  let c : QmCmd := { op := op, addr := a, tile := s.tile, party := s.q.k.party, ctx := ctx, num := p.1, sent := false, status := 0,
                     ep := s.epoch }
  p.2.setMeet s.grp m { x with queue := x.queue ++ [c] }

end State

/-- The shape of QMJOIN and QMREC. -/
def issueQm (s : State) (m : BitVec 4) (slot : BitVec 3) (a : Word) (ok : Meeting → Bool) (len : Meeting → Nat) (op : QmOp) : Res :=
  match s.meetOf m.toNat with
  | none => trapR s { code := 0x15 }
  | some x =>
    if !ok x then trapR s { code := 0x15 }
    else match rawFault s a (len x) 32 with
      | some t => trapR s t
      | none => if s.qmFull ∨ s.postHeld then heldR s else doneR (s.acceptQm m.toNat x slot.toNat a op)

def execQmjoin (m : BitVec 4) (t : BitVec 3) (a b : BitVec 5) (s : State) : Res :=
  let w := s.x b
  issueQm s m t (s.x a) (fun _ => bits w 63 43 == 0) (fun x => 4 * x.len) (.join (w.truncate 32) ((w >>> 32).truncate 11))

/-- A record word is in order: QMREC needs the home side, and a force the replay window (R318). -/
def recordWordOk (w : Word) (x : Meeting) : Bool :=
  bits w 63 33 == 0 && x.home
  && (!bit w 32 || (x.replay && decide (x.open_ ≤ bits w 31 0) && decide (bits w 31 0 < x.open_ + 16)))

/-- QMREC by its record word. -/
def qmRecord (m : BitVec 4) (t : BitVec 3) (a b : BitVec 5) (s : State) : Res :=
  let w := s.x b
  issueQm s m t (s.x a) (recordWordOk w) (fun _ => 2336) (if bit w 32 then .recForce (w.truncate 32) else .recRead (w.truncate 32))
def execQmrecRead (m : BitVec 4) (t : BitVec 3) (a b : BitVec 5) (s : State) : Res := qmRecord m t a b s
def execQmrecForce (m : BitVec 4) (t : BitVec 3) (a b : BitVec 5) (s : State) : Res := qmRecord m t a b s

/-- The group, by its package number, and the meeting that a home word names in its package (R310). -/
def linkGroupOf (w : Word) : Nat := bits w 13 11 * 128 + bits w 20 14
def linkMeeting (w : Word) : Nat := bits w 24 21

/-- The home of a member meeting has BCAST clear, and sends it no results (R317): seen here where the home lies in this package and is open. -/
def State.homeSilent (s : State) (x : Meeting) : Bool :=
  if bits x.link 10 0 = s.index then (s.meetAt (linkGroupOf x.link) (linkMeeting x.link)).any (fun h => h.home && !h.bcast)
  else !Config.homeBcast x.link.toNat

def execQmwait (m : BitVec 4) (a : BitVec 5) (s : State) : Res :=
  match s.meetOf m.toNat with
  | none => trapR s { code := 0x15 }
  | some x =>
    -- a member meeting whose open tag has passed the round has had its results, or has failed (R319)
    if !x.home && decide (x.open_ ≤ bits (s.x a) 31 0) && s.homeSilent x then trapR s { code := 0x15 }
    else waitFor s (waitDesc 8 m.toNat (bits (s.x a) 31 0 + 1)) id

/-! ## Failure (R319) -/

namespace State

/-- Meetings of this package that a home has recorded as senders, of the members not left out: group and meeting. -/
def localSenders (s : State) (x : Meeting) (out : List Nat) : List (Nat × Nat) :=
  ((x.senders.filter (fun p => !out.contains p.1 && p.2 / 2 ^ 14 == s.index)).map (fun p =>
    (p.2 % 2 ^ 14 / 2 ^ 11 * 128 + p.2 % 2 ^ 11 / 16, p.2 % 16))).dedup

/-- Meetings of other packages that a home has recorded as senders, of the members not left out. -/
def farSenders (s : State) (x : Meeting) (out : List Nat) : List Nat :=
  ((x.senders.filter (fun p => !out.contains p.1 && p.2 / 2 ^ 14 != s.index)).map (·.2)).dedup
/-- The word of R310 that names a recorded sender. -/
def senderWord (w : Nat) : Nat := w / 2 ^ 14 + w % 2 ^ 14 / 2 ^ 11 * 2 ^ 11 + w % 2 ^ 11 / 16 * 2 ^ 14 + w % 16 * 2 ^ 21

/-- A meeting fails with a code: the outermost barrier takes it, and every waiter is released; with BCAST, in the member meetings of every
recorded sender too, excluded or not, here at once and elsewhere by packets (log 147). -/
def failMeeting (s : State) (g m : Nat) (x : Meeting) (code : Nat) : State :=
  let over_ (y : Meeting) : Meeting := { y with failed := some y.open_, open_ := 2 ^ 32 }
  let s := (s.raiseCode x.lnum g code).setMeet g m (over_ x)
  if x.bcast then
    let s := (s.localSenders x []).foldl (fun s p => match s.meetAt p.1 p.2 with
      | some y => if y.home then s else s.setMeet p.1 p.2 (over_ y)
      | none => s) s
    (s.farSenders x []).foldl (fun s w => s.sendOff x.lnum { blankPacket 7 [] with
      dst := BitVec.ofNat 16 (w / 2 ^ 14), addr := BitVec.ofNat 56 (senderWord w), op := 8 }) s
  else s

end State

/-! ## The fate of a contribution (R315) -/

def satInc (n : Nat) : Nat := if n < 2 ^ 32 - 1 then n + 1 else n
def Meeting.lagLimit (x : Meeting) (i : Nat) : Nat := bits (x.members.getD i 0) 23 16

/-- A contribution of member i with tag t is held, counted or folded already. -/
def Meeting.known (x : Meeting) (i t : Nat) : Bool :=
  let has (ys : List (Nat × Nat × List Lane)) : Bool := ys.any (fun y => y.1 == i && y.2.1 == t)
  has x.onTime || has x.late || has x.back || has x.next || x.done.contains (i, t)

def Meeting.refuse (x : Meeting) : Meeting := { x with refused := satInc x.refused }
def Meeting.drop (x : Meeting) (i : Nat) : Meeting := { x with dropped := satInc x.dropped, lagDrop := x.lagDrop ++ [i] }
/-- A late contribution: held, held back, or dropped. -/
def Meeting.takeLate (x : Meeting) (c : Nat × Nat × List Lane) : Meeting :=
  if x.late.any (fun y => y.1 == c.1) then { x with back := x.back ++ [c] }
  else if x.open_ - c.2.1 ≤ x.lagLimit c.1 then { x with late := x.late ++ [c] }
  else x.drop c.1

/-- A late contribution that was held when a round opens: the last row of R315 is tried on it first. -/
def Meeting.again (x : Meeting) (c : Nat × Nat × List Lane) : Meeting :=
  if x.lagLimit c.1 < x.open_ - c.2.1 then x.drop c.1 else x.takeLate c

/-- The fate of an arriving contribution; `pkg` sent it, from meeting `sender`, or on the home side from none. -/
def Meeting.arrive (x : Meeting) (pkg i t : Nat) (v : List Lane) (sender : Option Nat) : Meeting :=
  let u := x.open_
  if 2 ^ 32 ≤ u ∨ x.n ≤ i ∨ bits (x.members.getD i 0) 10 0 ≠ pkg ∨ x.excluded.contains i then x.refuse
  else if x.known i t ∨ u + 1 < t then x.refuse
  else
    let y :=
      if t = u + 1 then { x with next := x.next ++ [(i, t, v)] }
      else if t = u then { x with onTime := x.onTime ++ [(i, t, v)] }
      else x.takeLate (i, t, v)
    if y.lagDrop ≠ x.lagDrop then y
    else match sender with
      | some w => { y with senders := ins y.senders i w }
      | none => { y with senders := del y.senders i }

/-! ## Closing a round (R316-R318) -/

/-- What a round counts: the on-time contributions and the late folds. -/
structure Round where
  onTime : List (Nat × Nat × List Lane)
  folds : List (Nat × Nat × List Lane)
  forced : Bool
  deriving DecidableEq, Repr

/-- The forced record of the open round. -/
def Meeting.forcedNow (x : Meeting) : Option QmRec := x.forced.find? (fun r => r.tag == x.open_)

/-- The open round, when it closes now. -/
def Meeting.closes (x : Meeting) : Option Round :=
  if 2 ^ 32 ≤ x.open_ then none
  else if !x.replay then
    (if x.quorum ≤ x.onTime.length then some ⟨x.onTime, x.late, false⟩ else none)
  else
    match x.forcedNow with
    | none => none
    | some r =>
      let held := x.late ++ x.back
      let lags := r.lag.filter (fun p => decide (1 ≤ p.2) && decide (p.2 ≤ 254))
      let fold (p : Nat × Nat) : Option (Nat × Nat × List Lane) := held.find? (fun c => c.1 == p.1 && c.2.1 + p.2 == x.open_)
      if r.mask.all (fun i => x.onTime.any (fun c => c.1 == i)) && lags.all (fun p => (fold p).isSome) then
        some ⟨x.onTime.filter (fun c => r.mask.contains c.1), lags.filterMap fold, true⟩
      else none

/-- LAMBDA to a power, one rounding. -/
def lambdaPow (lambda : Lane) (n : Nat) : Lane :=
  match val32 lambda with
  | .fin neg m => (rne32 (.fin neg ⟨m.num ^ n, m.den ^ n, m.e * n⟩)).1
  | v => (rne32 v).1

/-- Leaf i of element e (R316). -/
def Round.leaf (r : Round) (lambda : Lane) (u i e : Nat) : Option Lane :=
  let c := (r.onTime.find? (fun c => c.1 == i)).map (fun c => c.2.2.getD e 0)
  match r.folds.find? (fun c => c.1 == i) with
  | none => c
  | some f =>
    let s := (mul32 .rne false (lambdaPow lambda (u - f.2.1)) (f.2.2.getD e 0)).1
    match c with
    | none => some s
    | some v => some (add32 .rne false s v).1

/-- The result of a round. -/
def Round.result (r : Round) (x : Meeting) : List Lane :=
  (List.range x.len).map (fun e =>
    ((tree (fun a b (f : Unit) => ((add32 .rne false a b).1, f)) ((List.range x.n).map (fun i => r.leaf x.lambda x.open_ i e)) ()).1).getD 0)

/-- The record of a round. -/
def Round.record (r : Round) (x : Meeting) : QmRec :=
  { tag := x.open_, pres := r.onTime.length, late := r.folds.length, forced := r.forced, refused := x.refused, dropped := x.dropped,
    mask := r.onTime.map (·.1),
    lag := r.folds.foldl (fun t f => ins t f.1 (x.open_ - f.2.1)) (x.lagDrop.foldl (fun t i => ins t i 255) []) }

/-- The members that a forced round drops: their late contributions go (R318). -/
def Meeting.dropForced (x : Meeting) (r : Round) : Meeting :=
  if !r.forced then x
  else match x.forcedNow with
    | none => x
    | some f =>
      let gone := (f.lag.filter (fun p => p.2 == 255)).map (·.1)
      let mine := (x.late ++ x.back).filter (fun c => gone.contains c.1)
      mine.foldl (fun x c => x.drop c.1)
        { x with late := x.late.filter (fun c => !gone.contains c.1), back := x.back.filter (fun c => !gone.contains c.1) }

/-- The next round opens: what was not counted is examined again (R315, R317). -/
def Meeting.openNext (x : Meeting) (r : Round) : Meeting :=
  let used (c : Nat × Nat × List Lane) : Bool := r.onTime.contains c || r.folds.contains c
  let rest (cs : List (Nat × Nat × List Lane)) : List (Nat × Nat × List Lane) := cs.filter (fun c => !used c)
  let y : Meeting := { x with
    open_ := x.open_ + 1, onTime := x.next, next := [], late := [], back := [], lagDrop := [],
    done := x.done ++ (r.onTime ++ r.folds).map (fun c => (c.1, c.2.1)),
    records := (x.records ++ [r.record x]).drop (x.records.length + 1 - 16),
    forced := x.forced.filter (fun f => f.tag != x.open_) }
  (rest x.onTime).foldl Meeting.takeLate ((rest (x.late ++ x.back)).foldl Meeting.again y)

namespace State

/-- The party that a group's meeting engine is. -/
def qmParty (g m : Nat) : Nat := 2 ^ 42 + g * 16 + m

/-- Results written to RES in 32-byte beats. -/
def writeResult (s : State) (g m : Nat) (x : Meeting) (vs : List Lane) : State :=
  let bs := vs.flatMap (fun v => leBytes 4 v.toNat)
  (List.range ((bs.length + 31) / 32)).foldl (fun s i =>
    s.engineEarly x.lnum (qmParty g m) g .group (x.resKey + 32 * i) ((bs.drop (32 * i)).take 32) 0) s

/-- A member meeting takes a result (R317). -/
def takeResult (s : State) (g m : Nat) (y : Meeting) (tag : Nat) (vs : List Lane) : State :=
  (s.writeResult g m y vs).setMeet g m { y with open_ := tag + 1 }

/-- The result of a round goes to the recorded members (R317): here at once, elsewhere by packets. -/
def broadcast (s : State) (g : Nat) (x : Meeting) (vs : List Lane) : State :=
  if !x.bcast then s
  else
    let s := (s.localSenders x x.excluded).foldl (fun s p => match s.meetAt p.1 p.2 with
      | some y => if y.home ∨ x.open_ < y.open_ then s else s.takeResult p.1 p.2 y x.open_ vs
      | none => s) s
    let bs := vs.flatMap (fun v => leBytes 4 v.toNat)
    (s.farSenders x x.excluded).foldl (fun s w =>
      (State.payloads bs).foldl (fun s b =>
        s.sendOff x.lnum { blankPacket 7 b.2 with
          dst := BitVec.ofNat 16 (w / 2 ^ 14), ctx := BitVec.ofNat 16 (g / 128 * 4096), op := 9,
          addr := BitVec.ofNat 56 (senderWord w + b.1 * 2 ^ 25), rnd := BitVec.ofNat 16 x.open_ }) s) s

/-- Close rounds while the open one closes. -/
def closeRounds (g m : Nat) : Nat → State → State
  | 0, s => s
  | n + 1, s =>
    match s.meetAt g m with
    | none => s
    | some x =>
      match x.closes with
      | none => s
      | some r =>
        if x.badWork then (s.markUe (g / 128)).failMeeting g m x 0xF2
        else
          let x := x.dropForced r
          let vs := r.result x
          let s := (s.writeResult g m x vs).setMeet g m (x.openNext r)
          closeRounds g m n (s.broadcast g x vs)

/-- Rounds close as far as they can. -/
def settleMeeting (s : State) (g m : Nat) : State :=
  match s.meetAt g m with
  | some x => closeRounds g m (x.next.length + x.onTime.length + 18) s
  | none => s

/-- A home meeting decides a contribution. -/
def contributeTo (s : State) (g m : Nat) (x : Meeting) (pkg i t : Nat) (v : List Lane) (sender : Option Nat) : State :=
  (s.setMeet g m (x.arrive pkg i t v sender)).settleMeeting g m

end State

/-! ## Execution (R314, R318) -/

/-- A record's bytes (R318); what an unheld round leaves open is free. -/
def QmRec.bytes (r : QmRec) (state : Nat) : List Byte :=
  leBytes 4 r.tag ++ leBytes 2 r.pres ++ leBytes 2 r.late ++ leBytes 1 state ++ leBytes 1 (b2n r.forced) ++ List.replicate 6 0
  ++ leBytes 4 r.refused ++ leBytes 4 r.dropped ++ List.replicate 8 0
  ++ (List.range 256).map (fun j => BitVec.ofNat 8 (((List.range 8).map (fun b => if r.mask.contains (8 * j + b) then 2 ^ b else 0)).sum))
  ++ (List.range 2048).map (fun i => BitVec.ofNat 8 ((find? r.lag i).getD 0))

/-- The STATE of a round that is not held. -/
def Meeting.roundState (x : Meeting) (t : Nat) : Nat :=
  if x.failed.any (fun f => decide (f ≤ t)) then 2 else if x.open_ ≤ t then 3 else 1

namespace State

/-- The bytes that a read of a round's record writes. -/
def recordOf (s : State) (x : Meeting) (t : Nat) : List Byte × State :=
  match x.records.find? (fun r => r.tag == t) with
  | some r => (r.bytes 0, s)
  | none =>
    let free (n : Nat) (at_ : Nat) : List Byte := (List.range n).map (fun i => Config.freeByte (s.free + at_ + i))
    (leBytes 4 t ++ free 4 4 ++ leBytes 1 (x.roundState t) ++ List.replicate 7 0 ++ free 8 16 ++ List.replicate 8 0 ++ free 2304 32,
     { s with free := s.free + 2336 })

/-- The forced record that QMREC reads, for the n members of the meeting. -/
def readForced (view : Nat → Nat → List Byte) (key tag n : Nat) : QmRec :=
  let bs := view key 2336
  { tag := tag, pres := 0, late := 0, forced := true, refused := 0, dropped := 0,
    mask := (List.range n).filter (fun i => (bs.getD (32 + i / 8) 0).getLsbD (i % 8)),
    lag := ((List.range n).filter (fun i => bs.getD (288 + i) 0 != 0)).map (fun i => (i, (bs.getD (288 + i) 0).toNat)) }

/-- A command leaves its meeting's queue and ends. -/
def endQm (s : State) (g m : Nat) (c : QmCmd) (status : Nat) : State :=
  match s.meetAt g m with
  | none => s
  | some x => (s.setMeet g m { x with queue := x.queue.erase c }).endNumbered (g / 128) c.ctx c.num status

/-- The packets of a contribution to a home in another package (R314). -/
def sendContribution (s : State) (g m : Nat) (x : Meeting) (c : QmCmd) (tag : BitVec 32) (i : BitVec 11) (space : Nat) (bs : List Byte) : State :=
  let s := s.setMeet g m { x with queue := x.queue.map (fun y => if y = c then { c with sent := true } else y) }
  (List.range ((bs.length + 255) / 256)).foldl (fun s j =>
    s.sendPacket x.lnum (g / 128) none [g, m, c.num.toNat]
      { blankPacket 5 ((bs.drop (256 * j)).take 256) with
        dst := BitVec.ofNat 16 (bits x.link 10 0), ctx := BitVec.ofNat 16 (g / 128 * 4096 + c.ctx),
        addr := BitVec.ofNat 56 (bits x.link 24 0 + 256 * j * 2 ^ 25), spid := BitVec.ofNat 16 space,
        rnd := tag.truncate 16, cidx := i.zeroExtend 16 }) s

/-- QMJOIN at execution: its contribution is delivered (R314). -/
def runJoin (s : State) (g m : Nat) (x : Meeting) (c : QmCmd) (tag : BitVec 32) (i : BitVec 11) : Option State :=
  let key := tileKey c.tile c.addr.toNat
  let v := (List.range x.len).map (fun e => BitVec.ofNat 32 (leNat (s.partyPeek x.lnum c.party (key + 4 * e) 4)))
  if s.partyBad x.lnum c.party key (4 * x.len) then some (s.endQm g m c 8)
  else if x.home then some ((s.contributeTo g m x s.index i.toNat tag.toNat v none).endQm g m c 0)
  else if bits x.link 10 0 = s.index then
    let hg := linkGroupOf x.link
    let hm := linkMeeting x.link
    match s.meetAt hg hm with
    | some h =>
      if !h.home ∨ h.len ≠ x.len then some (s.endQm g m c 6)
      else
        let sender := s.index * 2 ^ 14 + g / 128 * 2 ^ 11 + g % 128 * 16 + m
        some ((s.contributeTo hg hm h s.index i.toNat tag.toNat v (some sender)).endQm g m c 0)
    | none => some (s.endQm g m c 6)
  else
    match s.remote x.lnum (bits x.link 10 0) with
    | .outside => some (s.endQm g m c 6)
    | .waits => none
    | .space n =>
      if s.keyRevoked x.lnum (bits x.link 10 0) then some (s.endQm g m c 4)
      -- the context's window toward the home has no room (25 R243)
      else if 4096 < s.unacked (g / 128) c.ctx (bits x.link 10 0) + (4 * x.len + 255) / 256 then none
      else some (s.sendContribution g m x c tag i n (s.partyPeek x.lnum c.party key (4 * x.len)))

end State

/-- A tile SRAM range is in a frozen landing zone of an exchange that a meeting's command is no part of (03 R32). -/
def State.qmFrozen (s : State) (l g : Nat) (off n : Nat) : Bool := (s.frozenAt l g 0 off n).isSome

/-- QM_COMMAND_EXECUTE: the first command that has not been sent. -/
def execQmCommandExecute (grp : BitVec 10) (meeting : BitVec 4) (s : State) : Res :=
  let g := grp.toNat
  let m := meeting.toNat
  match s.meetAt g m with
  | none => .fault .notEnabled
  | some x =>
    match x.queue.find? (fun c => !c.sent) with
    | none => .fault .notEnabled
    | some c =>
      let key := tileKey c.tile c.addr.toNat
      let n := match c.op with
        | .join _ _ => 4 * x.len
        | _ => 2336
      if s.qmFrozen x.lnum g c.addr.toNat n then .fault .notEnabled
      else match c.op with
      | .join tag i =>
        (match s.runJoin g m x c tag i with
          | some s' => .next s'
          | none => .fault .notEnabled)
      | .recRead tag =>
        if x.badWork then .next (s.endQm g m c 8)
        else
          let r := s.recordOf x tag.toNat
          .next ((r.2.engineEarly x.lnum (State.ctxParty (g / 128) c.ctx) g .group key r.1 c.addr).endQm g m c 0)
      | .recForce tag =>
        if s.partyBad x.lnum c.party key 2336 ∨ x.badWork then .next (s.endQm g m c 8)
        else
          let f := State.readForced (s.partyPeek x.lnum c.party) key tag.toNat x.n
          let x' := { x with forced := x.forced.filter (fun r => r.tag != f.tag) ++ [f] }
          .next (((s.setMeet g m x').settleMeeting g m).endQm g m c 0)

/-- The packets of a contribution from another package that have arrived for a meeting of this one and are undecided, in order: the header
carries RND, the tag modulo 2^16 (R314). -/
def State.pieces (s : State) (g m : Nat) (c : Contribution) : List Packet :=
  let held := (s.srcs.flatMap (fun x => x.2.flags.map (·.2))).filter (fun p =>
    p.kind == 5 && p.win == 0xFF && p.src.toNat == c.pkg.toNat && p.cidx.toNat == c.member.toNat && p.rnd == c.tag.truncate 16
    && packetMeeting p == s.meetingWord g m)
  (List.range ((4 * c.vals.length + 255) / 256)).filterMap (fun j =>
    held.find? (fun p => some p.ctx == held.head?.map (·.ctx) && p.addr.toNat / 2 ^ 25 == 256 * j))

/-- They leave the target's buffer, acknowledged with an outcome. -/
def State.decided (s : State) (ps : List Packet) (outcome : Nat) : State :=
  ps.foldl (fun s p =>
    let x := s.srcAt p
    ((s.setSrc p { x with flags := x.flags.filter (fun f => f.2 ≠ p) }).keepOutcome p outcome).acknowledge p outcome) s

/-- QM_CONTRIBUTION_ARRIVAL: a contribution from another package, all of whose packets have arrived, is decided (R314, R315), and only then
acknowledged; one that its home can no longer take ends with outcome 2. -/
def execQmContributionArrival (grp : BitVec 10) (meeting : BitVec 4) (c : Contribution) (s : State) : Res :=
  let ps := s.pieces grp.toNat meeting.toNat c
  if ps.isEmpty ∨ ps.flatMap (·.payload) ≠ c.vals.flatMap (fun v => leBytes 4 v.toNat) then .fault .notEnabled
  else match s.meetAt grp.toNat meeting.toNat with
    | none => .next (s.decided ps 2)
    | some x =>
      if !x.home ∨ x.len ≠ c.vals.length then .next (s.decided ps 2)
      else .next ((s.contributeTo grp.toNat meeting.toNat x c.pkg.toNat c.member.toNat c.tag.toNat c.vals
        (some (c.pkg.toNat * 2 ^ 14 + c.fromMeeting.toNat))).decided ps 0)

/-- QM_RESULT_ARRIVAL: results reach a member meeting in tag order (R317). -/
def execQmResultArrival (grp : BitVec 10) (meeting : BitVec 4) (tag : BitVec 32) (vals : List (BitVec 32)) (s : State) : Res :=
  match s.meetAt grp.toNat meeting.toNat with
  | none => .fault .notEnabled
  | some x =>
    if x.home ∨ tag.toNat < x.open_ then .fault .notEnabled
    else .next (s.takeResult grp.toNat meeting.toNat x tag.toNat (vals.take x.len))

/-! ## Exclusion and release (R319, R320) -/

namespace State

/-- Exclude a member from the open round on; too few possible members fail the meeting. -/
def excludeMember (s : State) (g m : Nat) (x : Meeting) (i : Nat) : State :=
  if x.excluded.contains i then s
  else
    let keep (ys : List (Nat × Nat × List Lane)) : List (Nat × Nat × List Lane) := ys.filter (fun c => c.1 != i)
    let y : Meeting := { x with excluded := x.excluded ++ [i], onTime := keep x.onTime, late := keep x.late, back := keep x.back, next := keep x.next }
    if y.n - y.excluded.length < y.quorum ∧ y.failed.isNone then s.failMeeting g m y 0xF0 else s.setMeet g m y

/-- Every QMWAIT on a meeting completes (R320): held ones retire, suspended ones become ready. -/
def releaseWaits (s : State) (g m l : Nat) : State :=
  let mine (d : Word) : Bool := bits d 63 60 == 8 && bits d 59 48 == m
  let held := (s.everySeq.filter (fun p => grpOf (tileOf p.1) == g && p.2.k.lnum == l && p.2.mode == .run && (match p.2.hold with
    | some (.wait d _) => mine d
    | _ => false))).map (·.1)
  let s := held.foldl (fun s sq => s.onSeq sq State.retire) s
  let s := s.mapSeqs (fun n q => match q.mode with
    | .writeBack d => if grpOf (tileOf n) == g && q.k.lnum == l && mine d then { q with mode := .writeBack 0 } else q
    | _ => q)
  (s.slotsOf g l).foldl (fun s i => if s.recState g i == 3 && mine (s.recDword g i 32) then s.makeReady g i else s) s

end State

def execQmexcl (m : BitVec 4) (b : BitVec 5) (s : State) : Res :=
  let w := s.x b
  match s.meetOf m.toNat with
  | none => trapR s { code := 0x15 }
  | some x =>
    if !x.home ∨ bits w 63 11 ≠ 0 ∨ x.n ≤ bits w 10 0 then trapR s { code := 0x15 }
    else doneR (s.excludeMember s.grp m.toNat x (bits w 10 0))

def execQmclose (m : BitVec 4) (s : State) : Res :=
  match s.meetOf m.toNat with
  | none => trapR s { code := 0x15 }
  | some x =>
    if !x.queue.isEmpty then heldR s
    else
      let s := s.releaseWaits s.grp m.toNat s.q.k.lnum
      let g := s.groupAt s.grp
      doneR (s.setGroup s.grp { g with meet := del g.meet m.toNat })

end Sys2Proof.Machine
end

