-- ==== Sys2Proof/Machine/Schedule.lean ====
section
/-! DEFINITION. The steps of the schedule (95): picks, readiness, holds, write-backs and pre-emption (03 R22 R23, 05 R56 R63,
35 R332 R341 R342), barriers and sweeps (03 R28-R48), messages (23 R227). -/

namespace Sys2Proof.Machine

/-! ## The pick (R56) -/

namespace State

/-- The pending error that comes first, when further ones were kept with their source (35 R332). -/
def nextPending (k : Cont) : Cont :=
  match k.pend, k.pendMore with
  | none, e :: r => { k with pend := some e, pendMore := r }
  | _, _ => k

/-- A free sequencer: idle, with nothing left in its vector queue. -/
def seqFree (s : State) (sq : Nat) : Bool := (s.seqAt sq).mode == .idle && (s.seqAt sq).vq.isEmpty

/-- No free sequencer of the same role on a lower tile of the group has a record to pick. -/
def pickTurn (s : State) (sq : Nat) : Bool :=
  (List.range (tileOf sq % 16)).all (fun i =>
    let o := 3 * (grpOf (tileOf sq) * 16 + i) + roleOf sq
    !(s.seqFree o && (s.pickSlot o).isSome))

/-- A sequencer takes a record, and a pending error before the first instruction (35 R332). -/
def pickNow (s : State) (sq slot : Nat) : State :=
  let s := s.pickInto sq slot
  let q := s.seqAt sq
  -- the pick is one step here, so no primary record becomes ready during it (05 R63)
  let s := s.setSeq sq { q with k := nextPending q.k, stop := false }
  s.onSeq sq (fun s => s.takePending)

end State

/-- PICK. -/
def execPick (sq : BitVec 16) (s : State) : Res :=
  let n := sq.toNat
  if !s.seqFree n || !s.pickTurn n then .fault .notEnabled
  else match s.pickSlot n with
    | some slot => .next (s.pickNow n slot)
    | none => .fault .notEnabled

/-! ## Waiting and held (R22, R23, R382) -/

namespace State

/-- The condition of a waiting record holds. -/
def recordDue (s : State) (g slot : Nat) : Bool :=
  s.recState g slot == 3
  && s.descHolds (s.recDword g slot 32) (s.recLnum g slot) (s.recSec g slot) (s.recHome g slot) g
      (((find? (s.groupAt g).side slot).map (·.tok)).getD [])

end State

/-- RECORD_READY. -/
def execRecordReady (grp : BitVec 10) (slot : BitVec 8) (s : State) : Res :=
  if s.recordDue grp.toNat slot.toNat then .next (s.makeReady grp.toNat slot.toNat) else .fault .notEnabled

/-- A held wait's condition for the focused continuation. -/
def State.waitHolds (s : State) (d : Word) : Bool := s.descHolds d s.q.k.lnum s.q.k.sec s.homeTile s.grp s.q.k.tok

/-- WAIT_HOLD_EXPIRY: the descriptor's condition is still false when WHOLD clk have passed. -/
def execWaitHoldExpiry (sq : BitVec 16) (s : State) : Res :=
  let t := s.focusOn sq.toNat
  match t.q.mode, t.q.hold with
  | .run, some (.wait d u) => if u ≤ t.clk ∧ !t.waitHolds d then .next ((t.retire.suspendWith d).settleBarw d) else .fault .notEnabled
  | _, _ => .fault .notEnabled

/-- What completes with a wait: a barrier wait observes its release (23 R232). -/
def State.endWait (s : State) (d : Word) : State :=
  (if bits d 63 60 = 3 then
      let s := s.settleBarw d
      s.setK (s.observeRelease s.q.k (Level.of (bits d 59 48 % 4 + 1)) s.grp)
    else s).retire

/-- HOLD_RELEASE: a wait or WFE completes; any other held instruction is tried again by its sequencer. -/
def execHoldRelease (sq : BitVec 16) (s : State) : Res :=
  let t := s.focusOn sq.toNat
  match t.q.mode, t.q.hold with
  | .run, some (.wait d _) => if t.waitHolds d then .next (t.endWait d) else .fault .notEnabled
  | .run, some (.wfe d woken) => if woken ∨ d ≤ t.clk then .next t.retire else .fault .notEnabled
  | .run, some .other => .next { t with q := { t.q with hold := none } }
  | .run, some (.spawn i false) => if (t.freeSlotOf t.grp).isSome then .next (t.holdFor (.spawn i true)) else .fault .notEnabled
  | .run, some (.fence n false) => .next (t.holdFor (.fence n true))
  | _, _ => .fault .notEnabled

/-! ## Stopping and writing back (R341, R342) -/

namespace State

/-- A held instruction of the focused sequencer is abandoned: its vector load leaves the queue, a spill area goes back to its pool. -/
def abandon (s : State) : State :=
  let s := match s.q.hold, s.launchAt? s.q.k.lnum with
    | some (.spawn i _), some x => s.setLaunch s.q.k.lnum { x with areas := x.areas.filter (· ≠ i) }
    | _, _ => s
  { s with q := { s.q with hold := none, vq := s.q.vq.filter (fun e => !e.isLoad) } }

/-- The focused sequencer stops at an instruction boundary (05 R63, 35 R341). -/
def stopNow (s : State) : State :=
  let s := (s.record 3 s.pc 0).abandon
  { s with q := { s.q with mode := .writeBack 0, stop := false } }

end State

/-- PREEMPT_STOP: the sequencer stops at an instruction boundary; a trap at the same boundary is entered first. -/
def execPreemptStop (sq : BitVec 16) (s : State) : Res :=
  let t := s.focusOn sq.toNat
  if t.q.mode = .run ∧ t.q.stop ∧ t.q.k.pend = none then .next t.stopNow else .fault .notEnabled

/-- Bytes that a write-back takes of the group's buffer (03 R20, 35 R344). -/
def Cont.saveSize (k : Cont) : Nat := 1024 + 144 * bits (look k.csr 0x030) 19 16 + (if k.vectorClear then 0 else 8256)

/-- RECORD_WRITE_BACK: the continuation's accesses being performed (21 R213), its record is written, ready or waiting, and the sequencer
is free. -/
def execRecordWriteBack (sq : BitVec 16) (s : State) : Res :=
  let n := sq.toNat
  let g := grpOf (tileOf n)
  let q := s.seqAt n
  match q.mode with
  | .writeBack desc =>
    if !q.vq.isEmpty || s.underWay q.k.lnum q.k.party || decide (0xC000 < (s.groupAt g).spilled + q.k.saveSize) then .fault .notEnabled
    else
      -- a fault that its station has found while the continuation does not run goes to its pending row (35 R332)
      let k := match q.k.fault with
        | some (c, a) => { q.k with fault := none }.addPending c a
        | none => q.k
      let ready := bits desc 63 60 = 0
      let s := s.saveCont g n k (if ready then 1 else 3) (s.pinned n k desc) desc
      let q := s.seqAt n
      let s := s.setSeq n { q with mode := .idle, hold := none, stop := false, k := { q.k with heldAcc := [], handled := 0, fault := none } }
      .next (if ready then s.readied g k.sec else s)
  | _ => .fault .notEnabled

/-- SPILL_WRITE_OUT: the oldest accepted spill goes to translated memory (13 R129). -/
def execSpillWriteOut (grp : BitVec 10) (s : State) : Res :=
  let g := grp.toNat
  match (s.groupAt g).spills with
  | [] => .fault .notEnabled
  | x :: r =>
    let s := s.xlatStore (g / 128) x.space x.addr x.data
    .next (s.setGroup g { s.groupAt g with spills := r })

/-! ## Asynchronous traps (R198, R332) -/

/-- STATION_FAULT: the station signals the fault that it holds, and it becomes pending. -/
def execStationFault (sq : BitVec 16) (s : State) : Res :=
  let q := s.seqAt sq.toNat
  match q.mode, q.k.fault with
  | .run, some (c, a) => .next (s.setSeq sq.toNat { q with k := { q.k with fault := none }.addPending c a })
  | _, _ => .fault .notEnabled

/-- ASYNC_TRAP_ENTRY: the pending cause is taken at the sequencer's next boundary. -/
def execAsyncTrapEntry (sq : BitVec 16) (s : State) : Res :=
  let t := s.focusOn sq.toNat
  if t.q.mode = .run ∧ t.q.k.pend.isSome then .next t.abandon.takePending else .fault .notEnabled

/-! ## Barriers (03 R28-R41) -/

/-- The level of a two-bit field at which a launch has a barrier of its own, and a unit of it. -/
def State.barUnit (s : State) (l : Nat) (lv : BitVec 2) (unit : Nat) : Option Level :=
  let v := fieldLevel lv
  if (s.launchAt? l).isSome && decide (v.num ≤ (s.launchAt l).outer.num) && !(s.groupsIn l v unit).isEmpty then some v else none

/-- This package's part of a pod's exchange has ended, its copies too, and its EXEND has not been sent (03 R28, 39 R355). -/
def State.exendDue (s : State) (l u : Nat) : Bool :=
  let b := s.barAt l .pod u
  b.exch && !b.farExend.contains s.index && s.exchCopiesDone l .pod u && (s.groupsIn l .pod u).all (fun g => (s.membersIn l g).all (s.exendDone l .pod g))

/-- This package's arrival at a pod barrier goes to the others on VC3 (25 R239). -/
def State.sayArrival (s : State) (l : Nat) : State :=
  let b := s.barAt l .pod 0
  match find? b.members s.index with
  | some p => s.announce l 3 (leBytes 8 b.count.toNat ++ leBytes 8 p.1.toNat ++ leBytes 1 p.2)
  | none => s

/-- BARRIER_ARRIVAL: a member's arrival is sent, with what hardware raises for it; `ext`: another package's EXEND or arrival, or, for this
package, its own EXEND. An arrival is no EXEND: the copies of the exchange may be open still, and the package says on its own when they have
ended (03 R28, 39 R355). What a package sends to the others of a pod goes on VC3 (25 R239). -/
def execBarrierArrival (lnum : BitVec 16) (lv : BitVec 2) (unit : BitVec 10) (member : BitVec 11) (ext : Option Arrival) (s : State) : Res :=
  let l := lnum.toNat
  let u := unit.toNat
  let m := member.toNat
  match s.barUnit l lv u with
  | none => .fault .notEnabled
  | some v =>
    let b := s.barAt l v u
    let own := v != .pod || m == s.index
    let came := (find? b.members m).isSome
    if !(s.unitMembers l v u).contains m then .fault .notEnabled
    else match ext with
      | some a =>
        if a.arrived then
          (if own || came then .fault .notEnabled else .next (s.setBar l v u { b with members := ins b.members m (a.value, a.code.toNat) }))
        else if v != .pod || b.farExend.contains m then .fault .notEnabled
        else if own then
          (if s.exendDue l u then .next ((s.setBar l v u { b with farExend := b.farExend ++ [m] }).announce l 2 (leBytes 8 b.count.toNat))
          else .fault .notEnabled)
        else .next (s.setBar l v u { b with farExend := b.farExend ++ [m] })
      | none =>
        if !own || came || !s.unitReady l v u m then .fault .notEnabled
        else
          let p := s.unitValue l v u m
          let code := max p.2 (s.hwCode l v u (some m))
          let s := (s.setBar l v u { b with members := ins b.members m (p.1, code) }).dropHwCode l v u (some m)
          .next (if v = .pod then s.sayArrival l else s)

/-- Dies that hold a launch's groups in a barrier unit. -/
def State.diesIn (s : State) (l : Nat) (lv : Level) (unit : Nat) : List Nat := ((s.groupsIn l lv unit).map (· / 128)).dedup

/-- The trees of a barrier: records commit at the barrier that stands for the die, and are discarded by an abort that the barrier takes
part in or contains (29 R286, R287). -/
def State.settleTrees (s : State) (l : Nat) (lv : Level) (unit code : Nat) : State :=
  let ds := s.diesIn l lv unit
  if lv = s.effLevel l .die then ds.foldl (fun s d => if code = 0 then s.commitTrees l d else s.discardTrees l d) s
  else if code ≠ 0 ∧ Level.die.num < lv.num ∧ (s.launchAt l).container lv = lv then ds.foldl (fun s d => s.discardTrees l d) s
  else s

/-- BARRIER_COMPLETE. An escalation that has taken this package's node to the pod makes its arrival there, which goes to the others too
(03 R38). -/
def execBarrierComplete (lnum : BitVec 16) (lv : BitVec 2) (unit : BitVec 10) (s : State) : Res :=
  let l := lnum.toNat
  let u := unit.toNat
  match s.barUnit l lv u with
  | none => .fault .notEnabled
  | some v =>
    if !s.completeReady l v u then .fault .notEnabled
    else
      let r := s.releaseValue l v u
      let t := ((s.completeBarrier l v u).dropHwCode l v u none).settleTrees l v u r.2
      let t := if v ≠ .pod ∧ (find? (s.barAt l .pod 0).members s.index).isNone then t.sayArrival l else t
      -- a pod's release leaves from its lowest package
      .next (if v = .pod ∧ (s.unitMembers l v u).min? = some s.index then t.announce l 4 (leBytes 8 r.1.toNat ++ leBytes 1 r.2) else t)

/-- COMPUTE_PHASE_BEGIN. -/
def execComputePhaseBegin (lnum : BitVec 16) (lv : BitVec 2) (unit : BitVec 10) (s : State) : Res :=
  let l := lnum.toNat
  match s.barUnit l lv unit.toNat with
  | none => .fault .notEnabled
  | some v =>
    -- messages leave that waited for early writes of their senders
    if s.computeReady l v unit.toNat then .next ((s.beginCompute l v unit.toNat).promote (fun _ => true)) else .fault .notEnabled

/-! ## The end of a launch (R48) -/

namespace State

/-- No record of a launch is ready or running, a waiting one whose condition holds counting as ready (R22), and nothing that it has
posted is outstanding. -/
def launchIdle (s : State) (l : Nat) : Bool :=
  !s.outstanding l
  && ((s.footOf l).map grpOf).dedup.all (fun g => (s.slotsOf g l).all (fun i => s.recState g i == 3 && !s.recordDue g i))

/-- The sent and received counts of a launch on this package. -/
def sentSum (s : State) (l : Nat) : Word := (s.everySeq.map (fun p => look p.2.sent l)).foldl (· + ·) 0
def receivedSum (s : State) (l : Nat) : Word := (s.everySeq.map (fun p => look p.2.received l)).foldl (· + ·) 0

/-- The units that a launch's staged stores commit at, at a level. -/
def stagedUnits (s : State) (l : Nat) (lv : Level) : List Nat :=
  ((s.staged.filter (fun e => e.lnum == l && e.lv == lv)).map (·.unit)).dedup

/-- Every store still staged commits, level by level from the group outward (R48). -/
def commitAll (s : State) (l : Nat) : State :=
  -- what a station holds is discarded (19 R198)
  let kept := s.staged.filter (fun e => !(e.lnum == l && stationKeeps e))
  let s := { s with staged := kept.map (fun (e : Staged) => if e.lnum = l then { e with deferred := none } else e)
                    -- nothing of the launch is outstanding, so no exchange of it holds a commit back
                    bars := s.bars.map (fun (b : Nat × Bar) => if b.1 / 2048 / 5 = l then (b.1, { b.2 with reads := [], before := [] }) else b) }
  [Level.tile, .group, .die, .package, .pod].foldl (fun s lv => (s.stagedUnits l lv).foldl (fun s u => s.commit l lv u) s)
    (s.dropStruck l (fun _ => true))

/-- The counts of a launch that has ended. -/
def dropCounts (s : State) (l : Nat) : State :=
  s.mapSeqs (fun _ q => { q with sent := put q.sent l 0, received := put q.received l 0 })

end State

/-- Clk between the sweeps of a launch (05 R65): values below 1,024 act as 1,024. -/
def State.sweepGap (s : State) : Nat := max 1024 (bits (devRead s 0x100000) 31 0)

/-- SWEEP, once its moment has come: two matching sweeps end the launch; a halted launch ends when nothing of it is outstanding (35 R333). -/
def execSweep (lnum : BitVec 16) (far : Option FarSweep) (s : State) : Res :=
  let l := lnum.toNat
  match s.launchAt? l with
  | none => .fault .notEnabled
  | some x =>
    match x.halted with
    | some (status, rest, w) => .next (if s.outstanding l then s else (s.dropCounts l).endLaunch l status rest w)
    | none =>
      if !x.placed || decide (s.clk < x.nextSweep) || (x.pods != far.isSome) then .fault .notEnabled
      else
        let f := far.getD { sent := 0, received := 0, idle := true }
        let sums := (s.sentSum l + f.sent, s.receivedSum l + f.received)
        let good := s.launchIdle l && f.idle && sums.1 == sums.2
        -- this package's part of a pod's sweep goes to the others on VC3 (25 R239)
        let s := if x.pods then
            s.announce l 5 (leBytes 8 (s.sentSum l).toNat ++ leBytes 8 (s.receivedSum l).toNat ++ leBytes 1 (b2n (s.launchIdle l)))
          else s
        if good && x.sweep == some sums then .next ((((s.commitAll l).dropCounts l)).endLaunch l 0 [] 0)
        else .next (s.setLaunch l { x with sweep := if good then some sums else none, nextSweep := s.clk + s.sweepGap })

/-! ## Messages (23 R227) -/

/-- MESSAGE_DELIVERY: the payload is performed at the receiver, then its counter counts it; its sender's next message may leave. -/
def execMessageDelivery (id : Nat) (s : State) : Res :=
  match s.msgs.find? (fun m => m.id == id) with
  | none => .fault .notEnabled
  | some m =>
    let key := tileKey m.toTile m.off
    let n := m.data.length
    let first := s.msgs.all (fun o => !(o.sender == m.sender && o.toTile == m.toTile && decide (o.id < m.id)))
    if !first || (s.frozenAt m.lnum (grpOf m.toTile) 0 m.off n).isSome || s.sourceHeld m.lnum key n then .fault .notEnabled
    else
      let s := { s with msgs := s.msgs.filter (fun o => o.id ≠ id) }
      let s := s.earlyWrite m.lnum m.sender (grpOf m.fromTile) key m.data 0 0
      let s := s.addCounter m.toTile m.sec m.mcn 1
      let q := s.seqAt (3 * m.toTile)
      .next ((s.setSeq (3 * m.toTile) { q with received := put q.received m.lnum (look q.received m.lnum + 1) }).promote
        (fun o => decide (m.id < o.id)))

end Sys2Proof.Machine
end

