-- ==== Sys2Proof/Machine/Launching.lean ====
section
/-! DEFINITION. From a launch command to ready records (05 R49-R54, 41 R364-R368): reading the queues, the checks of acceptance,
footprints, and placement. -/

namespace Sys2Proof.Machine

/-- The bytes of a 64-byte queue entry. -/
def entryBytes (e : BitVec 512) : List Byte := leBytes 64 e.toNat

namespace State

/-- What the command processor reads, or the state in which its read has failed: an uncorrectable error is noted there (43 R375). -/
abbrev Read (α : Type) := Except State (α × State)

/-- n bytes of translated memory as the command processor reads them, at die 0's stations. -/
def cpRead (s : State) (space : Nat) (a : Word) (n : Nat) : Read (List Byte) :=
  match s.virtKeys 0 space false a n with
  | .error e => .error (s.noteKeys 0 (.error e))
  | .ok (ks, s') => if ks.any (fun k => s'.isBad k 1) then .error (s'.markUe 0) else .ok (ks.map (look s'.mem), s')

/-! ## Footprints (05 R50, R51) -/

end State

/-- Members of a mask of n bits. -/
def maskBits (m n : Nat) : List Nat := (List.range n).filter (fun i => m / 2 ^ i % 2 == 1)

/-- The tiles of a package group that a tile mask chooses. -/
def maskTiles (grp mask : Nat) : List Nat := (maskBits mask 16).map (fun i => grp * 16 + i)

/-- The first n members of a list that satisfy a test. -/
def firstN (p : Nat → Bool) : Nat → List Nat → List Nat
  | _, [] => []
  | 0, _ => []
  | n + 1, x :: xs => if p x then x :: firstN p n xs else firstN p (n + 1) xs

/-- The selected groups of an explicit footprint record's first 129 bytes, ascending. -/
def footGroups (bs : List Byte) : List Nat :=
  (maskBits (fieldAt bs 0 1) 8).flatMap (fun d => (maskBits (fieldAt bs (1 + 16 * d) 16) 128).map (fun g => 128 * d + g))

namespace State

/-- An explicit footprint (41 R365): the tiles, ascending. -/
def readFoot (s : State) (space : Nat) (a : Word) : Read (List Nat) :=
  match s.cpRead space a 129 with
  | .error e => .error e
  | .ok (bs, s') =>
    let gs := footGroups bs
    match s'.cpRead space (a + 129) (2 * gs.length) with
    | .error e => .error e
    | .ok (ms, s'') => .ok ((gs.zip (List.range gs.length)).flatMap (fun p => maskTiles p.1 (fieldAt ms (2 * p.2) 2)), s'')

/-- Tiles of placed launches of a kind; those of a secondary whose primary has ended count for both. -/
def takenTiles (s : State) (secondary : Bool) : List Nat :=
  s.launches.flatMap (fun p => if p.2.placed && (p.2.secondary == secondary || p.2.orphan) then p.2.foot else [])

/-- A tile that a launch may be placed on: in a group that holds no other launch of its kind, since a group keeps one set of dispensers for its
primary and one for a bound secondary (05 R50, 23 R226, log 86), and, for a secondary, of its placed primary (05 R51). A secondary whose
primary has ended keeps its groups to itself (00 R6, log 177). -/
def tileOk (s : State) (x : Launch) (taken : List Nat) (t : Nat) : Bool :=
  taken.all (fun u => grpOf u != grpOf t) && (!x.secondary || (s.primary x).any (fun p => p.placed && p.foot.contains t))

/-- Free record slots of a group. -/
def slotsFree (s : State) (g : Nat) : Nat := ((List.range 256).filter (fun i => s.recState g i == 0)).length

/-- The footprint on which a launch can be placed now: shaped ones take the lowest dies and groups (05 R50). -/
def chooseFoot (s : State) (x : Launch) : Option (List Nat) :=
  let taken := s.takenTiles x.secondary
  let room (g n : Nat) : Bool := decide (3 * n ≤ s.slotsFree g)
  match x.shape with
  | none =>
    let gs := (x.foot.map grpOf).dedup
    if x.foot.all (s.tileOk x taken) && gs.all (fun g => room g (x.foot.filter (fun t => grpOf t == g)).length) then some x.foot else none
  | some (dies, groups, mask) =>
    let ok (g : Nat) : Bool :=
      (if x.secondary then maskTiles g mask else maskTiles g 0xFFFF).all (s.tileOk x taken) && room g (maskBits mask 16).length
    let free (d : Nat) : List Nat := firstN ok groups (range (128 * d) 128)
    let ds := firstN (fun d => (free d).length == groups) dies (List.range (dieCount s.form))
    if ds.length = dies then some ((ds.flatMap free).flatMap (fun g => maskTiles g mask)) else none

/-- Tiles in each package group of a list. -/
def groupsOf (ts : List Nat) : List (Nat × List Nat) := ((ts.map grpOf).dedup).map (fun g => (g, ts.filter (fun t => grpOf t == g)))

/-- Groups of a list in each of their dies. -/
def perDie (gs : List Nat) : List Nat := ((gs.map (· / 128)).dedup).map (fun d => (gs.filter (fun g => g / 128 == d)).length)

/-- A secondary's footprint that its primary's can never hold: the primary's tiles, once they are known, and else what its shape gives. -/
def outsidePrimary (s : State) (x : Launch) : Bool :=
  let p := s.launchAt x.prim
  match (if p.placed then none else p.shape), x.shape with
  | none, none => !x.foot.all (fun t => p.foot.contains t)
  | none, some (dies, groups, mask) =>
    let fit (g : Nat × List Nat) : Bool := (maskTiles g.1 mask).all (fun t => g.2.contains t)
    decide (((perDie (((groupsOf p.foot).filter fit).map (·.1))).filter (fun n => decide (groups ≤ n))).length < dies)
  | some (pd, pg, pm), none =>
    let gs := (x.foot.map grpOf).dedup
    x.foot.any (fun t => pm / 2 ^ (t % 16) % 2 == 0) || decide (pd < (perDie gs).length) || (perDie gs).any (fun n => decide (pg < n))
  | some (pd, pg, pm), some (dies, groups, mask) =>
    (maskBits mask 16).any (fun t => pm / 2 ^ t % 2 == 0) || decide (pd < dies) || decide (pg < groups)

/-- A footprint that can never fit the package (05 R49). -/
def neverFits (s : State) (x : Launch) : Bool :=
  (match x.shape with
    | none => x.foot.isEmpty || x.foot.any (fun t => decide (2048 * dieCount s.form ≤ t))
    | some (dies, groups, mask) => decide (dieCount s.form < dies) || decide (128 < groups) || mask == 0)
  || (x.secondary && s.outsidePrimary x)

end State

/-- The number of records that placement creates. -/
def Launch.recordCount (x : Launch) : Nat :=
  3 * (match x.shape with
    | none => x.foot.length
    | some (dies, groups, mask) => dies * groups * (maskBits mask 16).length)

/-! ## The checks of acceptance (05 R49, 41 R365, R366) -/

/-- A group share that R47 allows: multiples of 64, wholly in ordinary group memory or wholly in the signal area. -/
def shareOk (base size : Nat) : Bool :=
  base % 64 == 0 && size % 64 == 0
  && (size == 0 || decide (base + size ≤ ctxBase) || (decide (sigBase ≤ base) && decide (base + size ≤ 0x100000)))

/-- The contents of a dense part that lie outside a range are all zero. -/
def onlyWithin (bs : List Byte) (base size : Nat) : Bool :=
  (bs.take base).all (· == 0#8) && (bs.drop (base + size)).all (· == 0#8)

/-- A lens binding of a launch record; an impossible descriptor binds nothing (07 R67, 00 R8, log 179). -/
def declaredLens (d : Lane) : Lane := if dImpossible d then 0#32 else d

/-- The attributes that a launch record gives (41 R366), for a command's bytes `c`. The binding of a secondary is the command's, whatever the
record's bind index says (log 181), and the low two bits of an entry address are cleared (log 183). -/
def declaredLaunch (c hdr rec : List Byte) (space queue function clk : Nat) (foot : List Nat) (pods : Bool) : Launch :=
  let image : Word := BitVec.ofNat 64 (fieldAt c 8 8)
  let text : Word := image + BitVec.ofNat 64 (fieldAt hdr 16 8)
  let fl := fieldAt c 1 1
  let shape := fieldAt rec 32 4
  let attr := fieldAt rec 36 2
  let ops := fieldAt rec 38 2
  let sUnits := if fieldAt c 36 2 = 0 then fieldAt rec 60 2 else fieldAt c 36 2
  { State.Launch.empty with
    space := space, domain := fieldAt c 6 2, job := fieldAt c 56 4, secondary := fl / 2 % 2 == 1, prim := fieldAt c 38 2,
    foot := foot, pods := pods,
    shape := if fl % 2 = 1 then none else some (shape % 16 + 1, shape / 16 % 256 + 1, shape / 4096 % 65536),
    barOps := [ops % 16, ops / 16 % 16, ops / 256 % 16, ops / 4096], abcont := BitVec.ofNat 3 (attr / 2), det := attr % 2 == 1,
    stage := BitVec.ofNat 8 (attr / 256), shBase := fieldAt rec 40 4, shSize := fieldAt rec 44 4,
    gsBase := fieldAt rec 240 4, gsSize := fieldAt rec 244 4, rtent := BitVec.ofNat 64 (fieldAt hdr 40 8) &&& 0x00FFFFFFFFFFFFFC#64,
    entries := (List.range 3).map (fun r =>
      let o := 64 + 16 * r
      ((text + BitVec.ofNat 64 (fieldAt rec o 6)) &&& ~~~3#64, fieldAt rec (o + 6) 1, BitVec.ofNat 64 (fieldAt rec (o + 8) 8))),
    lens := (range 1 7).foldl (fun m n => put m n (declaredLens (BitVec.ofNat 32 (fieldAt rec (112 + 12 * (n - 1)) 4)))) [],
    lscl := (range 1 7).foldl (fun m n =>
      let o := 112 + 12 * (n - 1)
      put m n (BitVec.ofNat 64 (fieldAt rec (o + 8) 4 % 2 ^ 17 * 2 ^ 32 + fieldAt rec (o + 4) 4 % 2 ^ 17))) [],
    param := BitVec.ofNat 64 (fieldAt c 16 8) &&& 0x00FFFFFFFFFFFFC0#64,
    -- the landing part holds as many entries of 16 bytes as its count says
    parts := (List.range 5).map (fun i => (fieldAt rec (200 + 8 * i) 4, if i = 3 then 16 * fieldAt rec 58 2 else fieldAt rec (204 + 8 * i) 4)),
    paramSize := (fieldAt rec 220 4 + 7) / 8 * 8, textBase := text, textSize := fieldAt hdr 24 4, image := image,
    poolBase := BitVec.ofNat 64 (fieldAt c 24 8), poolSize := fieldAt c 32 4 * 65536, areaSize := sUnits * 4096,
    compl := BitVec.ofNat 64 (fieldAt c 40 8), queue := queue, function := function, placed := false, acceptedAt := clk }

namespace State

/-- Part i of a launch's image. -/
def readPart (s : State) (x : Launch) (i : Nat) : Read (List Byte) :=
  let p := x.parts.getD i (0, 0)
  s.cpRead x.space (x.image + BitVec.ofNat 64 p.1) p.2

/-- The header and the record of a launch command, when the image has them. -/
def readRecord (s : State) (space : Nat) (c : List Byte) : Read (List Byte × List Byte) :=
  let image : Word := BitVec.ofNat 64 (fieldAt c 8 8)
  match s.cpRead space image 64 with
  | .error e => .error e
  | .ok (hdr, s') =>
    if hdr.take 8 ≠ asciiBytes "VRM8IMG" ++ [0#8] ∨ fieldAt hdr 8 4 ≠ 1 ∨ fieldAt hdr 12 2 ≤ fieldAt c 4 2 then .error s'
    else
      match s'.cpRead space (image + BitVec.ofNat 64 (fieldAt hdr 32 8 + 256 * fieldAt c 4 2)) 256 with
      | .error e => .error e
      | .ok (rec, s'') => .ok ((hdr, rec), s'')

/-- A secondary keeps its primary's domain and R47; one whose PRIM names no live launch, or a secondary, is rejected too (log 153). -/
def secondaryOk (s : State) (x : Launch) : Bool :=
  !x.secondary || ((s.launchAt? x.prim).any (fun p => !p.secondary && p.domain == x.domain) && shareOk x.gsBase x.gsSize)

/-- The group part of a secondary's image leaves all but its share alone (R47). -/
def partWithin (s : State) (x : Launch) : Read Bool :=
  if !x.secondary then .ok (true, s)
  else match s.readPart x 1 with
    | .error e => .error e
    | .ok (p, _) => .ok (onlyWithin p x.gsBase x.gsSize, s)

/-- The checks of R49 on a command's bytes: the launch, or the state in which the command fails one. A tile SRAM share that runs past a tile's
SRAM is rejected with them (09 R98, 00 R6, log 180). -/
def checkCommand (s : State) (queue : Nat) (q : Queue) (c : List Byte) : Read Launch :=
  if (s.launchAt? (fieldAt c 2 2)).isSome then .error s
  else
    match s.readRecord q.space c with
    | .error e => .error e
    | .ok ((hdr, rec), s') =>
      match (if fieldAt c 1 1 % 2 = 1 then s'.readFoot q.space (BitVec.ofNat 64 (fieldAt c 48 8)) else .ok ([], s')) with
      | .error e => .error e
      | .ok (foot, s'') =>
        let pods := fieldAt c 56 4 != 0 && decide (1 < ((find? s.jobs (fieldAt c 56 4)).getD []).length)
        let x := declaredLaunch c hdr rec q.space queue q.function s.clk foot pods
        if x.barOps.any (fun o => decide (10 ≤ o)) || !s.secondaryOk x || s.neverFits x || x.areaSize = 0 || decide (2 ^ 20 < x.areaSize)
            || decide (tileSize < x.shBase + x.shSize) || decide (65536 < x.paramSize) || decide (x.poolSize < x.recordCount * x.spillStep) then .error s''
        else match s''.partWithin x with
          | .error e => .error e
          | .ok (good, _) => if good then .ok (x, s'') else .error s''
def checkLaunch (s : State) (queue : Nat) (q : Queue) (c : List Byte) : Option (Launch × State) := (s.checkCommand queue q c).toOption

/-! ## Reading a launch queue (05 R49, 41 R364) -/

/-- A queue that has entries to be read. -/
def queueWaits (s : State) (n : Nat) : Bool :=
  (find? s.queues n).any (fun q => !q.stopped && q.read % 2 ^ 32 != bits (look s.dev (0x1000 * n)) 31 0)

/-- Entries of the admin queue that have not been read. -/
def adminWaits (s : State) : Bool := s.adminRead % 2 ^ 32 != bits (look s.dev 0x40000) 31 0

/-- The queue that is served next: the admin queue comes first, then the highest class, round robin within it. -/
def nextQueue (s : State) : Option Nat :=
  if s.bootStep < 8 ∨ s.adminWaits then none
  else
    ([3, 2, 1, 0] : List Nat).findSome? (fun c =>
      let ns := (List.range 64).filter (fun n => s.queueWaits n && (find? s.queues n).any (fun q => q.cls == c))
      let last := (look s.turn c).toNat
      match ns.find? (fun n => decide (last ≤ n)) with
      | some n => some n
      | none => ns.head?)

/-- The head report of a queue (R364). -/
def headReport (s : State) (q : Queue) (code : Nat) : State :=
  { s with hostOut := s.hostOut ++ [(q.head, leBytes 4 (q.read % 2 ^ 32) ++ leBytes 1 code ++ [0, 0, 0])] }

/-- The entry at a queue's head: from host memory as the host has written it (none: unmapped, R368), or from HBM4 under the queue's space (R364). -/
def queueEntry (s : State) (q : Queue) (e : Option (BitVec 512)) : Read (List Byte) :=
  if q.hbm then s.cpRead q.space (q.base + BitVec.ofNat 64 (64 * (q.read % 2 ^ q.n))) 64
  else match e with
    | none => .error s
    | some e => .ok (entryBytes e, s)

/-- A command is rejected: its completion record has status 1 (R367). -/
def rejectCommand (s : State) (space : Nat) (compl : Word) : State := s.report space compl (completion 1 0 0 0 [])

end State

/-- LAUNCH_COMMAND: one entry is read, reported, checked, and accepted or completed with status 1. -/
def execLaunchCommand (q : BitVec 6) (e : Option (BitVec 512)) (s : State) : Res :=
  let n := q.toNat
  if s.nextQueue ≠ some n then .fault .notEnabled
  else
    match find? s.queues n with
    | none => .fault .notEnabled
    | some x =>
      let y := { x with read := x.read + 1 }
      let s1 := { s with queues := ins s.queues n y, turn := put s.turn x.cls (BitVec.ofNat 8 (n + 1)) }
      match s1.queueEntry x e with
      | .error s2 => .next (State.headReport { s2 with queues := ins s.queues n { y with stopped := true } } y 3)
      | .ok (c, s2) =>
        if fieldAt c 0 1 ≠ 1 then .next (s2.headReport y 2)
        else
          let s3 := s2.headReport y 0
          match s3.checkCommand n x c with
          | .error s4 => .next (s4.rejectCommand x.space (BitVec.ofNat 64 (fieldAt c 40 8)))
          | .ok (l, s4) => .next { s4.setLaunch (fieldAt c 2 2) l with accepted := s4.accepted ++ [fieldAt c 2 2] }

/-! ## Placement (05 R52-R54) -/

/-- Clk in a microsecond, at 1.05 GHz (43 R376). -/
def clkPerUs : Nat := 1050

/-- A handle that a TENSOR side of a given element size could name: the checks of step 4 that placement can make. -/
def standIn (esz : Nat) : Handle where
  desc := match esz with
    | 0 => 0x01000000
    | 1 => 0x02000000
    | 2 => 0x04000000
    | _ => 0
  first := 0
  count := 1
  rows := 1
  cols := 1
  base := 0
  lnum := 0
  tree := none

/-- Step 4 of R265 for a block of a static schedule (27 R267), whatever die and handles it meets. -/
def scheduleOk (lens : Store 32) (bs : List Byte) : Bool :=
  let b := parseBlock bs
  let h := some (standIn b.esz)
  b.ok bs b.kind (bits b.dst 30 28) (look lens b.lwin) h h

/-- The blocks of a stage list: n of them from an offset of the schedule part; none: they leave the part or fail step 4. -/
def stageBlocks (lens : Store 32) (part : List Byte) : Nat → Nat → Option (List (List Byte))
  | 0, _ => some []
  | n + 1, off =>
    let size := blockSize (fieldAt part off 4)
    let bs := (part.drop off).take size
    if bs.length ≠ size ∨ !scheduleOk lens bs then none
    else (stageBlocks lens part n (off + size)).map (fun r => bs :: r)

/-- The static schedule of a launch (27 R267, 41 R366). -/
def parseSchedule (lens : Store 32) (part : List Byte) : Option (Tab (List (List Byte))) :=
  if part.isEmpty then some []
  else if part.length < 2048 then none
  else
    (List.range 256).foldl (fun acc k =>
      match acc with
      | none => none
      | some t =>
        let n := fieldAt part (8 * k + 4) 4
        if n = 0 then some t
        else if 64 < n then none
        else (stageBlocks lens part n (fieldAt part (8 * k) 4)).map (fun bs => ins t k bs)) (some [])

/-- The landing zones of a launch; none: a level or memory code that placement rejects (41 R366). Any number of zones at a level is taken, in
any memory (log 182). -/
def parseZones (part : List Byte) : Option (List Zone) :=
  let zs := (List.range (part.length / 16)).map (fun i =>
    let o := 16 * i
    (fieldAt part o 1, fieldAt part (o + 1) 1, fieldAt part (o + 4) 8, fieldAt part (o + 12) 4))
  if zs.any (fun z => decide (3 < z.1) || decide (3 < z.2.1)) then none
  else some (zs.map (fun z => { lv := Level.of (z.1 + 1), memory := z.2.1, start := z.2.2.1, size := z.2.2.2 }))

namespace State

/-- The dependency slots that a secondary's records use on a tile of its group, in its own footprint or not (05 R54, R56, 17 R170). -/
def resetSecSlots (s : State) (t : Nat) : State := s.setTile t ((s.tileAt t).setSlots true 0xFF)

/-- A footprint tile is cleared and loaded (R54): a primary's whole SRAM, a secondary's share. -/
def placeTile (s : State) (x : Launch) (part : List Byte) (t : Nat) : State :=
  let s := if x.secondary then s.zero (tileKey t x.shBase) x.shSize else s.zero (tileKey t 0) tileSize
  let s := s.poke (tileKey t x.shBase) ((part.drop x.shBase).take x.shSize)
  let y := s.tileAt t
  let lo (n : Nat) : Bool := decide (n < 16)
  s.setTile t { (y.setSlots x.secondary 0xFF) with
    mc := y.mc.filter (fun p => lo p.1 == x.secondary), chan := y.chan.filter (fun p => decide (p.1 < 8) == x.secondary) }

/-- A footprint group is cleared and loaded. -/
def placeGroup (s : State) (x : Launch) (part : List Byte) (g : Nat) : State :=
  let s :=
    if x.secondary then
      (s.zero (groupKey g x.gsBase) x.gsSize).poke (groupKey g x.gsBase) ((part.drop x.gsBase).take x.gsSize)
    else
      (((s.zero (groupKey g 0) ctxBase).zero (groupKey g sigBase) 0x4000).poke (groupKey g 0) (part.take ctxBase)).poke
        (groupKey g sigBase) ((part.drop sigBase).take 0x4000)
  let y := s.groupAt g
  s.setGroup g { y with tick := y.tick.filter (fun p => decide (p.1 < 128) == x.secondary) }

/-- The contexts of a launch on a die start afresh (27 R252). -/
def placeContexts (s : State) (l die : Nat) : State :=
  let d := s.dieAt die
  let keep {α : Type} (m : List (Nat × α)) : List (Nat × α) := m.filter (fun p => !s.ownsCtx l die p.1)
  s.setDie die { d with posted := keep d.posted, timeline := keep d.timeline, status := keep d.status }

/-- The ready record of one tile and role (03 R24, R26). -/
def placeRecord (s : State) (l t role : Nat) : State :=
  let g := grpOf t
  match s.launchAt? l, s.freeSlotOf g with
  | some x, some slot =>
    match x.freeArea with
    | none => s
    | some i =>
      let e := x.entries.getD role (0, 0, 0)
      let spill := x.areaAddr i
      let k : Cont := { Cont.reset with
        pc := e.1, lnum := l, slot := slot, home := BitVec.ofNat 14 t, role := BitVec.ofNat 2 role, sec := x.secondary,
        ts := BitVec.ofNat 64 (t * 2 ^ 16), spill := spill, uword := e.2.2, stage := x.stage, party := s.nextParty,
        csr := placedCsrs x g x.secondary spill e.2.1, cycleBase := s.clk }
      let s := { s.setLaunch l { x with areas := x.areas ++ [i] } with nextParty := s.nextParty + 1 }
      s.saveCont g (3 * t + role) k 1 false 0
  | _, _ => s

/-- The package announces the launch's space to the job's other packages on VC3 (25 R245). -/
def announceJob (s : State) (l : Nat) (x : Launch) : State :=
  if x.job = 0 then s else s.announce l 0 (leBytes 4 x.job ++ leBytes 2 x.space)

/-- A byte of physical space, of a device register too (19 R194). -/
def physByte (s : State) (pa : Nat) : Byte :=
  if physKind s.form pa = some .dev then BitVec.ofNat 8 (bits (devRead s (devOff pa / 8 * 8)) (8 * (pa % 8) + 7) (8 * (pa % 8))) else look s.mem pa

/-- The text of a launch as placement finds it, in pieces that lie in one 64 KiB page each; a page that has no memory gives none (11 R107). -/
def readText (s : State) (x : Launch) : Tab (List Byte) :=
  let lo := x.textBase.toNat
  (List.range ((lo + x.textSize + 65535) / 65536 - lo / 65536)).filterMap (fun i =>
    let a := if i = 0 then lo else (lo / 65536 + i) * 65536
    let n := min ((lo / 65536 + i + 1) * 65536) (lo + x.textSize) - a
    match s.walk x.space a with
    | .error _ => none
    | .ok (leaf, b) => some (a - lo, (range (entryPa leaf + a % 2 ^ b) n).map s.physByte))

/-- Everything that placement reads before it writes: the parts, and for the parameter window the bytes at the command's PARAM, not those of
the image's own part (19 R190, log 83); on a failure the launch is rejected. -/
def loadParts (s : State) (x : Launch) : Except State ((List Byte × List Byte × List Byte) × List Zone × Tab (List (List Byte)) × State) :=
  match s.readPart x 0 with
  | .error e => .error e
  | .ok (tile, s1) =>
    match s1.readPart x 1 with
    | .error e => .error e
    | .ok (grp, s2) =>
      match s2.cpRead x.space x.param x.paramSize with
      | .error e => .error e
      | .ok (par, s3) =>
        match s3.readPart x 3 with
        | .error e => .error e
        | .ok (land, s4) =>
          match s4.readPart x 4 with
          | .error e => .error e
          | .ok (sch, s5) =>
            match parseZones land, parseSchedule x.lens sch with
            | some zs, some t => .ok ((tile, grp, par), zs, t, s5)
            | _, _ => .error s5
def readParts (s : State) (x : Launch) : Option ((List Byte × List Byte × List Byte) × List Zone × Tab (List (List Byte)) × State) :=
  (s.loadParts x).toOption

/-- A launch leaves the list of those that wait for placement. -/
def unwait (s : State) (l : Nat) : State :=
  { s with accepted := s.accepted.filter (· ≠ l), plHalt := if s.plHalt = some l then none else s.plHalt }

/-- R53 and R54: clear, load, and write the records, released together. -/
def place (s : State) (l : Nat) (x : Launch) (foot : List Nat) : State :=
  match s.loadParts x with
  | .error e => (e.unwait l).endLaunch l 1 [] 0
  | .ok ((tile, grp, par), zones, sched, s') =>
    let x := { x with foot := foot, zones := zones, sched := sched, placed := true, text := s'.readText x,
                      nextSweep := s'.clk + s'.sweepGap }
    let s := (s'.unwait l).setLaunch l x
    -- what a revocation left of an earlier launch of this number
    let s := { s with bars := s.bars.filter (fun p => decide (p.1 / 2048 / 5 ≠ l)) }
    let gs := (foot.map grpOf).dedup
    let s := foot.foldl (fun s t => s.placeTile x tile t) s
    let s := if x.secondary then ((s.footOf l).filter (fun t => gs.contains (grpOf t))).foldl State.resetSecSlots s else s
    let s := gs.foldl (fun s g => s.placeGroup x grp g) s
    let s := (s.zero (paramKey l 0) 65536).poke (paramKey l 0) par
    let s := (gs.map (· / 128)).dedup.foldl (fun s d => s.placeContexts l d) s
    let s := foot.foldl (fun s t => (List.range 3).foldl (fun s r => s.placeRecord l t r) s) s
    (gs.foldl (fun s g => s.readied g x.secondary) s).announceJob l x

/-- A launch has waited longer than PLWAIT to be placed; 0 disables the halt (05 R52, R65). -/
def overdue (s : State) (l : Nat) : Bool :=
  let w := bits (look s.dev 0x100008) 31 0
  w != 0 && decide ((s.launchAt l).acceptedAt + w * clkPerUs < s.clk)

/-- The launch that halts all other placement: the one whose wait has run out first. -/
def halter (s : State) : Option Nat := if bits (look s.dev 0x100008) 31 0 = 0 then none else s.plHalt.or (s.accepted.find? s.overdue)

/-- A launch's turn: the first accepted of its queue, and no other launch has waited longer than PLWAIT (05 R52). -/
def placeTurn (s : State) (l : Nat) (x : Launch) : Bool :=
  s.accepted.contains l && !x.placed && decide (8 ≤ s.bootStep)
  && s.accepted.find? (fun a => (s.launchAt a).queue == x.queue) == some l
  && s.halter.all (· == l)

end State

/-- PLACEMENT. -/
def execPlacement (lnum : BitVec 16) (s : State) : Res :=
  let l := lnum.toNat
  match s.launchAt? l with
  | none => .fault .notEnabled
  | some x =>
    if !s.placeTurn l x then .fault .notEnabled
    else match s.chooseFoot x with
      | none => .fault .notEnabled
      | some foot => .next (s.place l x foot)

/-- PLWAIT_EXPIRY: an accepted launch has waited longer than PLWAIT, the first of all to do so. -/
def execPlwaitExpiry (lnum : BitVec 16) (s : State) : Res :=
  let l := lnum.toNat
  if s.plHalt.isNone ∧ s.accepted.find? s.overdue = some l then .next { s with plHalt := some l } else .fault .notEnabled

/-! ## Host writes of the command processor's registers (41 R363, R364, R370, 05 R65) -/

/-- LAUNCH_DOORBELL: a virtual function's BAR0 maps the doorbells of its own queues alone (41 R362). -/
def execLaunchDoorbell (q : Doorbell) (v : BitVec 32) (s : State) : Res :=
  if q.fn ≠ 0 ∧ (find? s.queues q.queue.toNat).all (fun x => decide (x.function ≠ q.fn.toNat)) then .next s
  else .next (devWrite s (0x1000 * q.queue.toNat) ⟨true, false⟩ (v.zeroExtend 64))
def execAdminDoorbell (v : BitVec 32) (s : State) : Res := .next (devWrite s 0x40000 ⟨true, false⟩ (v.zeroExtend 64))
def execSwpintWrite (v : BitVec 32) (s : State) : Res := .next (devWrite s 0x100000 ⟨true, false⟩ (v.zeroExtend 64))
def execPlwaitWrite (v : BitVec 32) (s : State) : Res := .next (devWrite s 0x100008 ⟨true, false⟩ (v.zeroExtend 64))

/-- A written half in its place in the doubleword. -/
def halfPlaced (size : DevSize) (v : Word) : Word :=
  match size with
  | .wordHigh => v <<< 32
  | _ => v

/-- DEVICE_REGISTER_WRITE: naturally aligned words and doublewords (19 R194). -/
def execDeviceRegisterWrite (off : BitVec 32) (size : DevSize) (v : BitVec 64) (s : State) : Res :=
  .next (devWrite s (off.toNat / 8 * 8) (DevSize.halves size) (halfPlaced size v))

end Sys2Proof.Machine
end

