-- ==== Sys2Proof/Machine/Security.lean ====
section
/-! DEFINITION. The security controller and the enclaves (33 R322-R328, 25 R250): measurements, SPDM, rotations, the halt of a revoked
domain, IDE keys (41 R362). -/

namespace Sys2Proof.Machine

/-! ## Measurements (R322, R323) -/

/-- MEASn := SHA-384(MEASn ‖ digest). -/
def extendMeas (old digest : BitVec 384) : BitVec 384 := Config.sha384 (leBytes 48 old.toNat ++ leBytes 48 digest.toNat)

namespace State

def measAt (s : State) (n : Nat) : BitVec 384 := (find? s.meas n).getD 0
def extend (s : State) (n : Nat) (digest : BitVec 384) : State := { s with meas := ins s.meas n (extendMeas (s.measAt n) digest) }

/-- The eight measurement blocks: index, specification 1, sizes, value type, digest (log 33). -/
def measBlocks (s : State) : List Byte :=
  (List.range 8).flatMap (fun n =>
    [BitVec.ofNat 8 (n + 1), 1] ++ leBytes 2 51 ++ [0] ++ leBytes 2 48 ++ leBytes 48 (s.measAt n).toNat)

/-- A measurement report over a nonce, signed with die 0's identity key (R323). -/
def measReport (s : State) (nonce : List Byte) : List Byte :=
  let m := s.measBlocks ++ nonce
  m ++ Config.sign (Config.identityKey 0) m

/-! ## SPDM (R324) -/

/-- A message as a secured message of its session: AES-256-GCM under the session's key, the count of messages as nonce (log 33). -/
def secure (s : State) (session : Option (BitVec 32)) (bs : List Byte) : List Byte × State :=
  match session.bind (fun id => (find? s.sessionKeys id.toNat).map (fun x => (id, x))) with
  | none => ([], s)
  | some (id, k, n) =>
    let r := Config.gcmSeal k (BitVec.ofNat 96 n) [] bs
    (r.1 ++ leBytes 16 r.2.toNat, { s with sessionKeys := ins s.sessionKeys id.toNat (k, n + 1) })

/-- The number under which control packets that belong to no launch are numbered. -/
def noLaunch : Nat := 65536

/-- A message leaves the controller: to the host by DOE, to a peer on VC3. -/
def say (s : State) (name : String) (session : Option (BitVec 32)) (peer : Option (BitVec 11)) (body : List Byte) : State :=
  let r := s.secure session (asciiBytes name ++ body)
  let t := { r.2 with spdmOut := r.2.spdmOut ++ [{ name := name, session := session, peer := peer, body := body, secured := r.1 }] }
  match peer with
  | none => t
  | some d => t.control noLaunch d.toNat 10 (if r.1.isEmpty then asciiBytes name ++ body else r.1)

/-- A response leaves the controller, to where its request came from. -/
def respond (s : State) (r : SpdmRequest) (name : String) (session : Option (BitVec 32)) (body : List Byte) : State :=
  s.say name session r.peer body

/-- n bytes that the spec does not give. -/
def freeBytes (s : State) (n : Nat) : List Byte × State :=
  ((List.range n).map (fun i => Config.freeByte (s.free + i)), { s with free := s.free + n })

/-- A response whose body the spec leaves open. -/
def respondOpen (s : State) (r : SpdmRequest) (name : String) (n : Nat) : State :=
  let p := s.freeBytes n
  p.2.respond r name r.session p.1

/-- A request that the controller's state does not accept. -/
def spdmError (s : State) (r : SpdmRequest) (why : String) : State := s.respond r "ERROR" r.session (asciiBytes why)

/-- Algorithms are negotiated, and a named session is open. -/
def spdmReady (s : State) (r : SpdmRequest) : Bool := s.algorithms && r.session.all (fun x => s.sessions.contains x)

end State

/-- An answer to a request that needs negotiated algorithms. -/
def spdmWhen (s : State) (r : SpdmRequest) (t : State) : Res := .next (if s.spdmReady r then t else s.spdmError r "UnexpectedRequest")

def execGetVersion (r : SpdmRequest) (s : State) : Res :=
  .next (State.respond { s with algorithms := false } r "VERSION" r.session (leBytes 2 0x1300))
def execGetCapabilities (r : SpdmRequest) (s : State) : Res := .next (s.respondOpen r "CAPABILITIES" 16)
/-- The algorithms that are supported. -/
def spdmSuite : List SpdmAlgorithm := [.ecdsaP384, .sha384, .secp384r1, .aes256Gcm]
def algorithmName : SpdmAlgorithm → String
  | .ecdsaP384 => "P-384"
  | .sha384 => "SHA-384"
  | .secp384r1 => "secp384r1"
  | .aes256Gcm => "AES-256-GCM"
  | .other => ""
/-- NEGOTIATE_ALGORITHMS: of what is offered the supported ones are selected and nothing else; later requests need all four. -/
def execNegotiateAlgorithms (r : SpdmRequest) (s : State) : Res :=
  let chosen := spdmSuite.filter (fun a => r.offer.contains a)
  .next (State.respond { s with algorithms := chosen == spdmSuite } r "ALGORITHMS" r.session
    (chosen.flatMap (fun a => asciiBytes (algorithmName a) ++ [0x20])))
/-- The digest of slot 0's chain. -/
def execGetDigests (r : SpdmRequest) (s : State) : Res :=
  spdmWhen s r (s.respond r "DIGESTS" r.session (leBytes 48 (Config.sha384 Config.certChain).toNat))
def execGetCertificate (r : SpdmRequest) (s : State) : Res := spdmWhen s r (s.respond r "CERTIFICATE" r.session Config.certChain)
def execChallenge (r : SpdmRequest) (s : State) : Res :=
  spdmWhen s r (s.respond r "CHALLENGE_AUTH" r.session (Config.sign (Config.identityKey 0) (s.measBlocks ++ r.body)))
def execGetMeasurements (r : SpdmRequest) (s : State) : Res := spdmWhen s r (s.respond r "MEASUREMENTS" r.session (s.measReport r.body))
/-- A session key: the key exchange ends in a secret that the spec does not state. -/
def drawKey (s : State) : BitVec 256 × State :=
  (BitVec.ofNat 256 (leNat ((List.range 4).flatMap (fun i => leBytes 8 (Config.freeWord (s.free + i)).toNat))), { s with free := s.free + 4 })
/-- A session takes a fresh key. -/
def keySession (s : State) (id : BitVec 32) : State :=
  let r := drawKey s
  { r.2 with sessionKeys := ins r.2.sessionKeys id.toNat (r.1, 0) }
/-- KEY_EXCHANGE: a session identifier is drawn, and its handshake is open, with its key. -/
def execKeyExchange (r : SpdmRequest) (s : State) : Res :=
  let id : BitVec 32 := (Config.freeWord s.free).truncate 32
  spdmWhen s r (keySession (State.respond { s with free := s.free + 1, handshakes := s.handshakes ++ [id] } r "KEY_EXCHANGE_RSP" (some id)
    (Config.sign (Config.identityKey 0) r.body)) id)
/-- FINISH: the session of a handshake opens. -/
def execFinish (r : SpdmRequest) (s : State) : Res :=
  match r.session with
  | some id =>
    if s.handshakes.contains id then
      .next (State.respond { s with handshakes := s.handshakes.erase id, sessions := s.sessions ++ [id] } r "FINISH_RSP" r.session [])
    else .next (s.spdmError r "UnexpectedRequest")
  | none => .next (s.spdmError r "UnexpectedRequest")
/-- A request that only an open session may make. -/
def inSession (s : State) (r : SpdmRequest) (t : BitVec 32 → State) : Res :=
  match r.session with
  | some id => .next (if s.sessions.contains id then t id else s.spdmError r "UnexpectedRequest")
  | none => .next (s.spdmError r "UnexpectedRequest")
/-- KEY_UPDATE: the session's key changes after the answer. -/
def execKeyUpdate (r : SpdmRequest) (s : State) : Res := inSession s r (fun id => keySession (s.respond r "KEY_UPDATE_ACK" r.session []) id)
def execEndSession (r : SpdmRequest) (s : State) : Res :=
  inSession s r (fun id =>
    let t := State.respond { s with sessions := s.sessions.erase id } r "END_SESSION_ACK" r.session []
    { t with sessionKeys := del t.sessionKeys id.toNat })
def execUnsupportedRequest (r : SpdmRequest) (s : State) : Res := .next (s.spdmError r "UnsupportedRequest")

/-- IDE_KM (41 R362): keys of the link stream 0 or a selective stream 1-8, inside a session; any other message sets nothing. -/
def execIdeKm (stream : BitVec 4) (session : BitVec 32) (key : BitVec 256) (s : State) : Res :=
  if s.sessions.contains session ∧ stream.toNat ≤ 8 then .next { s with ide := ins s.ide stream.toNat key } else .next s

/-! ## The requester (R324, R325) -/

namespace State

/-- The session with another package's controller: the one that this controller has opened, or one opened now by KEY_EXCHANGE and FINISH. -/
def openSession (s : State) (peer : BitVec 11) : BitVec 32 × State :=
  match find? s.asked peer.toNat with
  | some id => (id, s)
  | none =>
    let id : BitVec 32 := (Config.freeWord s.free).truncate 32
    let ask (s : State) (name : String) : State := s.say name none (some peer) []
    let s := ["GET_VERSION", "GET_CAPABILITIES", "NEGOTIATE_ALGORITHMS", "KEY_EXCHANGE"].foldl ask { s with free := s.free + 1 }
    let s := (keySession s id).say "FINISH" (some id) (some peer) []
    (id, { s with asked := ins s.asked peer.toNat id })

/-- A member's measurements are asked for in its session, over a fresh nonce. -/
def askMeasurements (s : State) (peer : BitVec 11) : State :=
  let r := s.openSession peer
  let p := r.2.freeBytes 32
  p.2.say "GET_MEASUREMENTS" (some r.1) (some peer) p.1

/-- The secret of generation 1 goes to a member inside its session. -/
def sendSecret (s : State) (domain : Nat) (secret : BitVec 384) (peer : BitVec 11) : State :=
  let r := s.openSession peer
  r.2.say "GENERATION" (some r.1) (some peer) (leBytes 2 domain ++ leBytes 1 1 ++ leBytes 48 secret.toNat)

/-- A rotation is announced to a member on VC3, the new secret secured by its session (25 R250). -/
def sendRotation (s : State) (domain gen : Nat) (pkgs : List Nat) (secret : BitVec 384) (peer : Nat) : State :=
  let r := s.openSession (BitVec.ofNat 11 peer)
  let q := r.2.secure (some r.1) (leBytes 48 secret.toNat)
  q.2.control noLaunch peer 6 (leBytes 2 domain ++ leBytes 1 gen ++ leBytes 2 pkgs.length ++ pkgs.flatMap (leBytes 2) ++ q.1)

end State

/-! ## Rotation (R326, R327, 25 R250) -/

/-- KGEN runs from 1 to 255 and then returns to 1. -/
def nextGen (g : Nat) : Nat := if g = 255 then 1 else g + 1

namespace State

/-- A secret of 48 bytes drawn at random (R325). -/
def drawSecret (s : State) : BitVec 384 × State :=
  (BitVec.ofNat 384 (leNat ((List.range 6).flatMap (fun i => leBytes 8 (Config.freeWord (s.free + i)).toNat))), { s with free := s.free + 6 })

/-- A home meeting of a domain loses the members of excluded packages (R319). -/
def excludePackages (s : State) (domain : Nat) (pkgs : List Nat) : State :=
  s.groups.foldl (fun s g =>
    (List.range 16).foldl (fun s m =>
      match s.meetAt g.1 m with
      | none => s
      | some x =>
        if !x.home || (s.launchAt x.lnum).domain != domain then s
        else
          ((List.range x.n).filter (fun i => pkgs.contains (bits (x.members.getD i 0) 10 0))).foldl (fun s i =>
            match s.meetAt g.1 m with
            | some y => (s.excludeMember g.1 m y i).settleMeeting g.1 m
            | none => s) s) s) s

/-- Pod arrivals that excluded packages have sent count no more (R328). -/
def dropArrivals (s : State) (domain : Nat) (pkgs : List Nat) : State :=
  { s with bars := s.bars.map (fun p =>
      if p.1 / 2048 % 5 = 4 ∧ (s.launchAt (p.1 / 2048 / 5)).domain = domain then
        (p.1, { p.2 with members := p.2.members.filter (fun m => !pkgs.contains m.1) })
      else p) }

/-- A member switches to the next generation: the one before stays accepted until it retires, and what was on its way to or from an excluded
package ends with outcome 4. `acks`: members that have acknowledged with this. -/
def rotate (s : State) (domain : Nat) (e : Enclave) (pkgs acks : List Nat) (secret : BitVec 384) : State :=
  let g := nextGen e.gen
  let e' : Enclave := { e with
    members := e.members.filter (fun p => !pkgs.contains p), gen := g, secret := secret,
    oldGen := some (e.gen, e.secret, e.members), excluded := e.excluded ++ pkgs, waiting := [],
    -- acknowledgements that came before the announcement count
    acked := e.acked.filter (fun a => a / 2048 == g) ++ acks.map (2048 * g + ·), rotatedAt := s.clk,
    pkts := e.pkts.filter (fun c => c.1 / 2 ^ 32 == e.gen) }
  ((State.excludePackages { s with enclaves := ins s.enclaves domain e' } domain pkgs).dropArrivals domain pkgs).endRevoked

/-- The leader rotates: it draws the secret and sends it to the members that remain (R327). -/
def leadRotation (s : State) (domain : Nat) (e : Enclave) (pkgs : List Nat) : State :=
  let r := s.drawSecret
  let others := e.members.filter (fun p => !pkgs.contains p && p != s.index)
  others.foldl (fun t p => t.sendRotation domain (nextGen e.gen) pkgs r.1 p) (r.2.rotate domain e pkgs [s.index] r.1)

/-- A member acknowledges a rotation to the others that remain. -/
def ackRotation (s : State) (domain : Nat) : State :=
  match find? s.enclaves domain with
  | none => s
  | some e => (e.members.filter (· ≠ s.index)).foldl (fun t p => t.control noLaunch p 7 (leBytes 2 domain ++ leBytes 1 e.gen)) s

/-- Every member of an enclave has acknowledged its latest rotation, and 2 · FGAP have passed since (25 R250): since this package rotated, for
the rule does not say from which moment they count (log 203). -/
def rotationOver (s : State) (e : Enclave) : Bool :=
  e.members.all (fun p => e.acked.contains (2048 * e.gen + p)) && decide (e.rotatedAt + 2 * bits (look s.dev 0x200000) 31 0 ≤ s.clk)

/-- This package leads what remains of an enclave. -/
def leads (s : State) (e : Enclave) (pkgs : List Nat) : Bool :=
  (e.members.filter (fun p => !pkgs.contains p)).min? == some s.index

end State

/-- KEY_ROTATION: the announcement of the next generation reaches a member that remains. -/
def execKeyRotation (domain : BitVec 16) (gen : BitVec 8) (excluded : List (BitVec 11)) (secret : BitVec 384) (s : State) : Res :=
  match find? s.enclaves domain.toNat with
  | none => .fault .notEnabled
  | some e =>
    let pkgs := excluded.map (·.toNat)
    if gen.toNat ≠ nextGen e.gen ∨ pkgs.contains s.index ∨ e.excluded.contains s.index then .fault .notEnabled
    else
      let acks := s.index :: ((e.members.filter (fun p => !pkgs.contains p)).min?).toList
      .next ((s.rotate domain.toNat e pkgs acks secret).ackRotation domain.toNat)

/-- GENERATION_RETIRE (25 R250): the previous generation goes, and revocations that waited are applied at the next rotation (R327). -/
def execGenerationRetire (domain : BitVec 16) (s : State) : Res :=
  match find? s.enclaves domain.toNat with
  | none => .fault .notEnabled
  | some e =>
    if e.oldGen.isNone || !s.rotationOver e then .fault .notEnabled
    else
      let e' := { e with oldGen := none }
      let s' := { s with enclaves := ins s.enclaves domain.toNat e' }
      if e.waiting.isEmpty || !s.leads e e.waiting then .next s'
      else .next (s'.leadRotation domain.toNat e' e.waiting)

/-! ## The halt of a revoked domain (R328) -/

/-- The pages that a table maps, as (physical address, size in bits); only listed memory holds entries. -/
def State.pagesOf (s : State) : List (Nat × Nat × Option Nat × Option Nat) → Nat → List (Nat × Nat)
  | [], _ => []
  | (sh, wd, page, table) :: r, base =>
    let ix := ((s.mem.filter (fun c => decide (base ≤ c.1) && decide (c.1 < base + 8 * 2 ^ wd))).map (fun c => (c.1 - base) / 8)).dedup
    ix.flatMap (fun i =>
      let e : Word := BitVec.ofNat 64 (s.peekNat (base + 8 * i) 8)
      match checkEntry e page table with
      | .ok true => [(entryPa e, sh)]
      | .ok false => s.pagesOf r (entryPa e)
      | .error _ => [])

namespace State

/-- Every page of a space is written with zeros, device registers excepted. -/
def scrubPages (s : State) (space : Nat) : State :=
  match find? s.spaces space with
  | none => s
  | some sp => (s.pagesOf walkLevels sp.root).foldl (fun s p =>
      match physKind s.form p.1 with
      | some .hbm => s.zero p.1 (2 ^ p.2)
      | some .host => s.zero p.1 (2 ^ p.2)
      | _ => s) s

/-- What a launch has posted is discarded. -/
def dropWork (s : State) (l : Nat) : State :=
  let ids : List (Nat × Nat) := s.dies.flatMap (fun (d : Nat × Die) => (d.2.copies.filter (fun c => c.lnum == l)).map (fun c => (d.1, c.id)))
  let s := { s with
    dies := s.dies.map (fun (d : Nat × Die) => (d.1, { d.2 with copies := d.2.copies.filter (fun c => c.lnum ≠ l) })),
    out := s.out.filter (fun o => !(match o.copy with
      | some i => ids.contains (o.die, i)
      | none => false)),
    groups := s.groups.map (fun (g : Nat × Group) =>
      let gone := (g.2.side.filter (fun (p : Nat × Side) => s.recLnum g.1 p.1 == l)).map (fun (p : Nat × Side) => p.2.party)
      (g.1, { g.2 with spills := g.2.spills.filter (fun x => !gone.contains x.party) })) }
  s.mapSeqs (fun _ q => { q with mq := q.mq.filter (fun e => e.lnum ≠ l), vq := if q.k.lnum = l then [] else q.vq })

/-- The launch's open group, die and package barriers release with code 0xF1 (03 R36); what waits there observes it. -/
def releaseRevoked (s : State) (l : Nat) : State :=
  let lvs := [Level.group, .die, .package].filter (fun v => decide (v.num ≤ (s.launchAt l).outer.num))
  lvs.foldl (fun s v => ((((s.footOf l).map grpOf).map (unitOf v)).dedup).foldl (fun s u =>
    s.setBar l v u { openNext (s.barAt l v u) (barIdentity ((s.launchAt l).opOf v)) 0xF1 v.num false with exch := false }) s) s

/-- The sequencers of a launch stop with cause 0x16. -/
def markRevoked (s : State) (l : Nat) : State :=
  s.mapSeqs (fun _ q => if q.k.lnum = l ∧ q.mode ≠ .idle then { q with k := { q.k with csr := put q.k.csr 0x001 0x16 } } else q)

/-- The stops by revocation, as the periscope records them (35 R346). -/
def recordStops (s : State) (l : Nat) : State :=
  (((s.cur, s.q) :: s.seqs).filter (fun (p : Nat × Seq) => p.2.k.lnum = l ∧ p.2.mode = .run)).foldl (fun s p => s.recordAt p.1 l 3 p.2.k.pc 0) s

/-- A launch of the domain ends as revoked, its state scrubbed. -/
def revokeLaunch (s : State) (l : Nat) : State :=
  match s.launchAt? l with
  | none => s
  | some x =>
    let foot := if x.placed then s.footOf l else []
    let s := ((if x.placed then ((s.recordStops l).markRevoked l).releaseRevoked l else s).dropWork l).scrubPages x.space
    let s := foot.foldl (fun s t => s.zero (tileKey t x.shBase) x.shSize) s
    let s := (foot.map grpOf).dedup.foldl (fun s g =>
      if x.secondary then s.zero (groupKey g x.gsBase) x.gsSize
      else (s.zero (groupKey g 0) ctxBase).zero (groupKey g sigBase) 0x4000) s
    let bars := s.bars.filter (fun p => decide (p.1 / 2048 / 5 = l))
    let t := ((s.dropCounts l).unwait l).endLaunch l 3 [] 0
    -- the releases stay to be seen until the number is placed again
    { t with bars := bars.foldl (fun bs p => ins bs p.1 p.2) t.bars }

/-- The completion of an admin command that waited, once it is known. -/
def finishAdmin (s : State) (job : AdminJob) (status : Nat) (result : Word) : State :=
  { s with adminOut := s.adminOut.map (fun w => if w.job = job then { w with job := .none, done := some (status, result) } else w) }

/-- Completions are written in entry order (41 R369). -/
def flushAdmin (s : State) : State :=
  let ready := s.adminOut.takeWhile (fun w => w.done.isSome)
  let n := 2 ^ bits (look s.dev 0x40010) 4 0
  let base := look s.dev 0x40018
  let bytes (w : AdminWait) : Word × List Byte :=
    let d := w.done.getD (0, 0)
    (base + BitVec.ofNat 64 (16 * ((w.index - 1) % n)), leBytes 4 (w.index % 2 ^ 32) ++ leBytes 1 d.1 ++ [0, 0, 0] ++ leBytes 8 d.2.toNat)
  { s with hostOut := s.hostOut ++ ready.map bytes, adminOut := s.adminOut.drop ready.length }

end State

/-- REVOKE_HALT: the domain's launches stop with cause 0x16, no handler runs, their state is scrubbed, and only then is completion
reported. -/
def execRevokeHalt (domain : BitVec 16) (s : State) : Res :=
  let d := domain.toNat
  match find? s.enclaves d with
  | none => .fault .notEnabled
  | some e =>
    let s := { s with enclaves := ins s.enclaves d { e with excluded := if e.excluded.contains s.index then e.excluded else e.excluded ++ [s.index] } }
    let ls := (s.launches.filter (fun p => p.2.domain == d)).map (·.1)
    let s := ls.foldl (fun s l => s.revokeLaunch l) s
    .next (s.finishAdmin (.revoke d) 0 0x16).flushAdmin

end Sys2Proof.Machine
end

