-- ==== Sys2Proof/Machine/Admin.lean ====
section
/-! DEFINITION. The admin queue (41 R368-R371, 33 R325 R327, 25 R247, 35 R342 R346) and the TDIs of the virtual functions (41 R362). -/

namespace Sys2Proof.Machine

/-! ## Entries, answers and completions (R369, R370) -/

/-- What an admin command comes to: a status with no effect, done with a result, or a completion that waits. -/
inductive AdminAnswer where
  | bad (status : Nat)
  | done (s : State) (result : Word)
  | later (s : State) (job : AdminJob)
  deriving DecidableEq, Repr

/-- A byte from 1 to 63 that the operands (offset, length) do not name is not zero. -/
def strayByte (bs : List Byte) (named : List (Nat × Nat)) : Bool :=
  (range 1 63).any (fun i => bs.getD i 0 != 0#8 && !named.any (fun p => decide (p.1 ≤ i) && decide (i < p.1 + p.2)))

/-- An operand list that the schedule gives has n values of a width in bytes. -/
def Admin.fits (xs : Operand) (n width : Nat) : Bool :=
  match xs with
  | .fault => true
  | .list l => l.length == n && l.all (fun x => decide (x < 2 ^ (8 * width)))

namespace State

/-- Record an answer, and write the completions that are due. -/
def adminAnswer (s : State) (a : AdminAnswer) : State :=
  let add (t : State) (job : AdminJob) (d : Option (Nat × Word)) : State :=
    { t with adminOut := t.adminOut ++ [{ index := s.adminRead, job := job, done := d }] }
  (match a with
    | .bad st => add s .none (some (st, 0))
    | .done t r => add t .none (some (0, r))
    | .later t job => add t job none).flushAdmin

end State

/-- One entry of the admin queue is read and carried out: before step 8 of bring-up only some commands are (43 R378). -/
def adminCommand (s : State) (op : Nat) (e : BitVec 512) (named : List (Nat × Nat)) (early : Bool)
    (run : List Byte → State → AdminAnswer) : Res :=
  let bs := entryBytes e
  if !s.adminWaits || decide (s.bootStep < 6) || fieldAt bs 0 1 != op then .fault .notEnabled
  else
    let s := { s with adminRead := s.adminRead + 1 }
    .next (s.adminAnswer (if s.bootStep < 8 ∧ !early then .bad 2 else if strayByte bs named then .bad 1 else run bs s))

/-- An OP outside the table (R369). -/
def execAdminUnknownOp (e : BitVec 512) (s : State) : Res :=
  let op := fieldAt (entryBytes e) 0 1
  if 1 ≤ op ∧ op ≤ 0x11 then .fault .notEnabled
  else if !s.adminWaits || decide (s.bootStep < 6) then .fault .notEnabled
  else .next (State.adminAnswer { s with adminRead := s.adminRead + 1 } (.bad (if s.bootStep < 8 then 2 else 3)))

/-! ## Virtual functions (R362) -/

namespace State

def tdiOf (s : State) (fn : Nat) : Tdi := (find? s.tdi fn).getD .unlocked
/-- LOCK freezes a function's queues, space mappings and job declarations. -/
def fnFrozen (s : State) (fn : Nat) : Bool := s.tdiOf fn == .locked || s.tdiOf fn == .run
/-- A space that a queue of a frozen function uses. -/
def spaceFrozen (s : State) (space : Nat) : Bool := s.queues.any (fun q => q.2.space == space && s.fnFrozen q.2.function)
/-- A job of which a frozen function has a live launch. -/
def jobFrozen (s : State) (job : Nat) : Bool :=
  s.launches.any (fun p => p.2.job == job && (find? s.queues p.2.queue).any (fun q => s.fnFrozen q.function))

/-- A command that is half read when its queue is destroyed is dropped, and the head report carries code 1 (R368); whether one is, is open. -/
def halfRead (s : State) (n : Nat) (q : Queue) : State :=
  if s.queueWaits n && Config.halfRead s.free then
    let y := { q with read := q.read + 1 }
    State.headReport { s with queues := ins s.queues n y, free := s.free + 1 } y 1
  else { s with free := s.free + 1 }

/-- A queue is destroyed: launches accepted from it and not yet placed are cancelled (R368). -/
def dropQueue (s : State) (n : Nat) : State × Nat :=
  let ls := s.accepted.filter (fun l => (s.launchAt l).queue == n)
  (ls.foldl (fun s l => (s.unwait l).endLaunch l 4 [] 0) { s with queues := del s.queues n, dev := put s.dev (0x1000 * n) 0 }, ls.length)

end State

/-- TDISP_LOCK of a virtual function. -/
def execTdispLock (fn : BitVec 4) (s : State) : Res :=
  if fn = 0 ∨ s.tdiOf fn.toNat ≠ .unlocked then .fault .notEnabled else .next { s with tdi := ins s.tdi fn.toNat .locked }

/-- TDISP_RUN of a locked TDI. -/
def execTdispRun (fn : BitVec 4) (s : State) : Res :=
  if fn = 0 ∨ s.tdiOf fn.toNat ≠ .locked then .fault .notEnabled else .next { s with tdi := ins s.tdi fn.toNat .run }

/-- TDI_ERROR: every queue that the function owns is destroyed under R368. -/
def execTdiError (fn : BitVec 4) (s : State) : Res :=
  if fn = 0 then .fault .notEnabled
  else
    let ns := (s.queues.filter (fun q => q.2.function == fn.toNat)).map (·.1)
    .next (ns.foldl (fun s n => (((find? s.queues n).elim s (s.halfRead n)).dropQueue n).1) { s with tdi := ins s.tdi fn.toNat .error })

/-! ## Queues, spaces and jobs -/

def execCreateQueue (e : BitVec 512) (s : State) : Res :=
  adminCommand s 0x01 e [(8, 5), (14, 18)] true (fun bs s =>
    let n := fieldAt bs 8 1
    let fn := fieldAt bs 12 1
    let q : Queue := { cls := fieldAt bs 9 1, base := BitVec.ofNat 64 (fieldAt bs 16 8), n := fieldAt bs 10 1, hbm := fieldAt bs 11 1 == 1,
                       function := fn, space := fieldAt bs 14 2, head := BitVec.ofNat 64 (fieldAt bs 24 8), read := 0, stopped := false }
    if 63 < n ∨ 3 < q.cls ∨ q.n < 4 ∨ 16 < q.n ∨ 1 < fieldAt bs 11 1 ∨ 15 < fn ∨ (find? s.spaces q.space).isNone then .bad 1
    else if (find? s.queues n).isSome ∨ s.tdiOf fn ≠ .unlocked then .bad 2
    else .done { s with queues := ins s.queues n q, dev := put s.dev (0x1000 * n) 0 } 0)

def execDestroyQueue (e : BitVec 512) (s : State) : Res :=
  adminCommand s 0x02 e [(8, 1)] false (fun bs s =>
    let n := fieldAt bs 8 1
    match find? s.queues n with
    | none => .bad 1
    | some q =>
      if s.fnFrozen q.function then .bad 2
      else
        let r := (s.halfRead n q).dropQueue n
        .done r.1 (BitVec.ofNat 64 r.2))

def execMapSpace (e : BitVec 512) (s : State) : Res :=
  adminCommand s 0x03 e [(8, 2), (16, 20)] true (fun bs s =>
    let n := fieldAt bs 8 2
    let x : Space := { root := fieldAt bs 16 8, parts := BitVec.ofNat 64 (fieldAt bs 24 8), bytes := fieldAt bs 32 4 }
    if x.root % 2 ^ 20 ≠ 0 ∨ x.bytes % 512 ≠ 0 ∨ 0x1800000 < x.bytes then .bad 1
    else if s.spaceFrozen n then .bad 2
    else .done { s with spaces := ins s.spaces n x } 0)

def execUnmapSpace (e : BitVec 512) (s : State) : Res :=
  adminCommand s 0x04 e [(8, 2)] false (fun bs s =>
    let n := fieldAt bs 8 2
    if (find? s.spaces n).isNone then .bad 1
    else if s.launches.any (fun p => p.2.space == n) || s.spaceFrozen n then .bad 2
    else .done { s with spaces := del s.spaces n } 0)

/-- INVALIDATE: every station of the package discards the space's translations (19 R199); the result is QEPOCH (19 R200). -/
def execInvalidate (e : BitVec 512) (s : State) : Res :=
  adminCommand s 0x05 e [(8, 2)] false (fun bs s =>
    let n := fieldAt bs 8 2
    if (find? s.spaces n).isNone then .bad 1
    else
      let s' := s.dropTlb n (fun _ => true)
      .done s' s'.epoch)

def execJobDeclare (e : BitVec 512) (pkgs : Operand) (s : State) : Res :=
  if !Admin.fits pkgs (fieldAt (entryBytes e) 12 2) 2 then .fault .notEnabled
  else
    adminCommand s 0x06 e [(8, 6), (16, 8)] false (fun bs s =>
      let tag := fieldAt bs 8 4
      let n := fieldAt bs 12 2
      if tag = 0 ∨ n = 0 ∨ 2048 < n then .bad 1
      else match pkgs with
        | .fault => .bad 4
        | .list xs =>
          if xs.any (fun x => decide (2048 ≤ x)) then .bad 1
          else if s.jobFrozen tag then .bad 2
          else .done { s with jobs := ins s.jobs tag xs } 0)

/-! ## Launches (35 R342, R346) -/

/-- A stop request for every sequencer that runs a launch. -/
def State.askStop (s : State) (l : Nat) : State :=
  s.mapSeqs (fun _ q => if q.mode = .run ∧ q.k.lnum = l then { q with stop := true } else q)

def execSuspend (e : BitVec 512) (s : State) : Res :=
  adminCommand s 0x07 e [(8, 2)] false (fun bs s =>
    let l := fieldAt bs 8 2
    match s.launchAt? l with
    | none => .bad 1
    | some x => if x.suspended then .bad 2 else .done ((s.setLaunch l { x with suspended := true }).askStop l) 0)

def execResume (e : BitVec 512) (s : State) : Res :=
  adminCommand s 0x08 e [(8, 2)] false (fun bs s =>
    let l := fieldAt bs 8 2
    match s.launchAt? l with
    | none => .bad 1
    | some x => if x.suspended then .done (s.setLaunch l { x with suspended := false }) 0 else .bad 2)

def execPeriscope (e : BitVec 512) (s : State) : Res :=
  adminCommand s 0x11 e [(8, 2), (16, 12)] false (fun bs s =>
    let l := fieldAt bs 8 2
    match s.launchAt? l with
    | none => .bad 1
    | some x => .done (s.setLaunch l { x with scope := some (BitVec.ofNat 64 (fieldAt bs 16 8), fieldAt bs 24 4),
                                               scopeFrom := s.scopeLog.length }) 0)

/-! ## Partitions (R371) -/

namespace State

def partAt (s : State) (die part : Nat) : Part := (find? (s.dieAt die).parts part).getD .online
def setPart (s : State) (die part : Nat) (p : Part) : State :=
  s.setDie die { s.dieAt die with parts := ins (s.dieAt die).parts part p }

/-- A copy that has started accesses a partition on one of its sides. -/
def touches (part : Nat) (c : Copy) : Bool :=
  match c.st, c.op with
  | .started _ _, .block b =>
    let side (h : Option Handle) (a : Word) : Bool :=
      h.any (fun h => (List.range b.count).any (fun i =>
        let rc := b.tensorAt h a i
        h.inExtent rc.1 rc.2 && h.part (h.blockOf rc.1 rc.2) == part))
    (b.sk == 2 && b.rdir != 2 && side c.hsrc b.src) || (b.dk == 2 && b.rdir != 1 && side c.hdst b.dst)
  | _, _ => false

/-- DRAIN cancels a copy that accesses the partition, but for one whose flag or first signal has left: its access is over, and what has left
cannot be taken back (27 R263, log 204). -/
def cancelled (part : Nat) (c : Copy) : Bool :=
  touches part c && !counting c && !(c.block.any (fun b => b.of && b.rdir == 1) && c.unsent.isEmpty)

/-- A launch's hardware code, at its die's barrier (03 R36); that barrier contains it or escalates (03 R38), so that no other die of the package
sees a code that the die contains. -/
def drainCode (s : State) (l die grp : Nat) : State :=
  match s.launchAt? l with
  | none => s
  | some x =>
    let e : Level × Nat × Option Nat × Nat := match s.effLevel l .die with
      | .die => (.die, die, none, 0xF3)
      | _ => (.group, grp, none, 0xF3)
    s.setLaunch l { x with hwCodes := x.hwCodes ++ [e] }

/-- DRAIN is accepted: what has started on the partition ends with status 12. -/
def beginDrain (s : State) (die part : Nat) : State :=
  let s := s.setPart die part .draining
  let hit := (s.dieAt die).copies.filter (cancelled part)
  let s := s.setCopies die (fun cs => cs.map (fun c =>
    if cancelled part c then { c with status := if c.status = 0 then 12 else c.status, unsent := [] } else c))
  (hit.map (·.lnum)).dedup.foldl (fun s l => s.drainCode l die ((hit.find? (fun c => c.lnum == l)).elim 0 (fun c => grpOf c.tile))) s

end State

/-- Die and partition of an entry, where both exist. -/
def partOf (s : State) (bs : List Byte) : Option (Nat × Nat) :=
  if fieldAt bs 8 1 < dieCount s.form ∧ fieldAt bs 9 1 < 64 then some (fieldAt bs 8 1, fieldAt bs 9 1) else none

def execDrain (e : BitVec 512) (s : State) : Res :=
  adminCommand s 0x09 e [(8, 2)] false (fun bs s =>
    match partOf s bs with
    | none => .bad 1
    | some (d, p) => if s.partAt d p ≠ .online then .bad 2 else .later (s.beginDrain d p) (.drain d p))

/-- DRAIN_COMPLETE: no access to the partition remains. -/
def execDrainComplete (die : BitVec 3) (part : BitVec 6) (s : State) : Res :=
  let d := die.toNat
  let p := part.toNat
  if s.partAt d p ≠ .draining || (s.dieAt d).copies.any (State.touches p) then .fault .notEnabled
  else .next ((s.setPart d p .offline).finishAdmin (.drain d p) 0 0).flushAdmin

def execTestRepair (e : BitVec 512) (s : State) : Res :=
  adminCommand s 0x0A e [(8, 2), (16, 12)] false (fun bs s =>
    match partOf s bs with
    | none => .bad 1
    | some (d, p) =>
      if s.partAt d p ≠ .offline then .bad 2
      else .later (s.setPart d p .testing) (.test d p (BitVec.ofNat 64 (fieldAt bs 16 8)) (fieldAt bs 24 4)))

/-- An entry of a partition's repair log as R371 lays it out: kind, layer, partition, index, the rest zero. -/
def repairEntryOk (part : Nat) (x : BitVec 128) : Bool :=
  decide (1 ≤ bits x 7 0 ∧ bits x 7 0 ≤ 4 ∧ bits x 15 8 ≤ 1 ∧ bits x 23 16 = part ∧ bits x 31 24 = 0 ∧ bits x 127 64 = 0)
/-- A repair log within the spares: 16 rows and 16 columns a layer, one lane of 32 (R371, log 101). -/
def repairLogOk (part : Nat) (log : List (BitVec 128)) : Bool :=
  log.all (repairEntryOk part)
  && [1, 2].all (fun kind => [0, 1].all (fun layer => decide ((log.filter (fun x => bits x 7 0 == kind && bits x 15 8 == layer)).length ≤ 16)))
  && decide (((log.filter (fun x => bits x 7 0 == 3)).map (fun x => bits x 63 32 / 32)).Nodup)

/-- The repair log: its header, and the entries that its capacity holds. -/
def repairLog (log : List (BitVec 128)) (usable : Bool) (cap : Nat) : List Byte :=
  (leBytes 8 log.length ++ leBytes 8 (b2n !usable) ++ (log.take ((cap - 16) / 16)).flatMap (fun x => leBytes 16 x.toNat)).take cap

/-- A sum tree after a test of a partition that its handle has blocks in: the leaves that lay there are zero; which did, where the handle has
blocks elsewhere too, is open, a free value per leaf (29 R277, log 192). -/
def Tree.tested (t : Tree) (h : Handle) (part free : Nat) : Tree :=
  let parts := (List.range h.blocks).map h.part
  let keep (i : Nat) : Bool := !parts.contains part || (!parts.all (· == part) && Config.keepsOld (free + i))
  { t with prio := t.prio.filter (fun (p : Nat × Lane) => keep p.1), gen := t.gen.filter (fun (p : Nat × BitVec 16) => keep p.1) }

/-- The trees of a die after a test of one of its partitions. -/
def State.testTrees (s : State) (die part : Nat) : State :=
  let d := s.dieAt die
  let tree (p : Nat × Tree) : Nat × Tree := (p.1, (p.2.hdl.map (fun h => p.2.tested h part s.free)).getD p.2)
  { s.setDie die { d with trees := d.trees.map tree, leaving := d.leaving.map tree } with
    free := s.free + (d.everyTree.map (fun (p : Nat × Tree) => p.2.nleaf)).sum }

/-- TEST_REPAIR_COMPLETE: the partition is zeroed, and offline or failed; entry kind 4 says that no spare was left. The log is what the test
found. -/
def execTestRepairComplete (die : BitVec 3) (part : BitVec 6) (usable : Bool) (log : List (BitVec 128)) (s : State) : Res :=
  let d := die.toNat
  let p := part.toNat
  if s.partAt d p ≠ .testing || !repairLogOk p log || usable == log.any (fun x => bits x 7 0 == 4) then .fault .notEnabled
  else
    match s.adminOut.find? (fun w => match w.job with
      | .test d' p' _ _ => d' == d && p' == p
      | _ => false) with
    | some w =>
      match w.job with
      | .test _ _ addr cap =>
        let s := ((s.setPart d p (if usable then .offline else .failed)).zero (tsKey d p 0) 0x1800000).testTrees d p
        let s := { s with hostOut := s.hostOut ++ [(addr, repairLog log usable cap)] }
        .next (s.finishAdmin w.job 0 (BitVec.ofNat 64 log.length)).flushAdmin
      | _ => .fault .notEnabled
    | none => .fault .notEnabled

def execResumePart (e : BitVec 512) (s : State) : Res :=
  adminCommand s 0x0B e [(8, 2)] false (fun bs s =>
    match partOf s bs with
    | none => .bad 1
    | some (d, p) => if s.partAt d p ≠ .offline then .bad 2 else .done (s.setPart d p .online) 0)

/-! ## Attestation and enclaves (33 R323, R325, R327) -/

def execAttest (e : BitVec 512) (s : State) : Res :=
  adminCommand s 0x0C e [(16, 12), (32, 32)] true (fun bs s =>
    let r := s.measReport ((bs.drop 32).take 32)
    .done { s with hostOut := s.hostOut ++ [(BitVec.ofNat 64 (fieldAt bs 16 8), r.take (fieldAt bs 24 4))] } (BitVec.ofNat 64 r.length))

/-- A member's eight measurements are all in the list of accepted values; a register that no stage extends holds zero (R322, R325). -/
def measAccepted (vs ms : List (BitVec 384)) : Bool := ms.length == 8 && ms.all (fun m => m == 0 || vs.contains m)

/-- The answer that a member has brought is good: its measurements pass, and it accepts this package's. -/
def answerGood (f : Formation) (vs : List (BitVec 384)) (p : Nat) : Bool :=
  f.answers.any (fun a => a.pkg.toNat == p && measAccepted vs a.meas && a.accepts)

/-- The sessions and checks of an enclave's formation on this package, and G_1: drawn by the leader, the member with the lowest index, and sent
to every member inside its session; on another member as the leader has sent it. None: a check fails (R325). -/
def formSecret (s : State) (domain : Nat) (ms : List Nat) (vs : List (BitVec 384)) (f : Formation) : Option (BitVec 384 × State) :=
  let others := ms.filter (· ≠ s.index)
  if ms.min? = some s.index then
    if others.all (answerGood f vs) then
      let s := others.foldl (fun t p => t.askMeasurements (BitVec.ofNat 11 p)) s
      let r := s.drawSecret
      some (r.1, others.foldl (fun t p => t.sendSecret domain r.1 (BitVec.ofNat 11 p)) r.2)
    else none
  else
    let lead := ms.min?.getD 0
    if answerGood f vs lead then
      f.secret.map (fun g => (g, s.say "GET_MEASUREMENTS" none (some (BitVec.ofNat 11 lead)) []))
    else none

/-- FORM_ENCLAVE. -/
def execFormEnclave (e : BitVec 512) (members values : Operand) (f : Formation) (s : State) : Res :=
  let c := entryBytes e
  if !Admin.fits members (fieldAt c 10 2) 2 || !Admin.fits values (fieldAt c 32 2) 48 then .fault .notEnabled
  else
    adminCommand s 0x0D e [(8, 4), (16, 18)] false (fun bs s =>
      let d := fieldAt bs 8 2
      if d = 0 ∨ fieldAt bs 10 2 = 0 then .bad 1
      else match members, values with
        | .list ms, .list vs =>
          if !ms.contains s.index || ms.any (fun m => decide (2048 ≤ m)) then .bad 1
          else if (find? s.enclaves d).isSome then .bad 2
          else match formSecret s d ms (vs.map (BitVec.ofNat 384)) f with
            | none => .bad 2
            | some (g, s') =>
              let x : Enclave := { members := ms, gen := 1, secret := g, oldGen := none, excluded := [], waiting := [], acked := [],
                                   rotatedAt := s.clk, pkts := [] }
              .done { s' with enclaves := ins s'.enclaves d x } 1
        | _, _ => .bad 4)

/-- REVOKE: on the revoked package its launches halt before it completes (R328); the leader of what remains rotates, now or next. -/
def execRevoke (e : BitVec 512) (s : State) : Res :=
  adminCommand s 0x0E e [(8, 4)] false (fun bs s =>
    let d := fieldAt bs 8 2
    let p := fieldAt bs 10 2
    match find? s.enclaves d with
    | none => .bad 1
    | some x =>
      if !x.members.contains p then .bad 1
      else if x.excluded.contains p ∨ x.waiting.contains p then .bad 2
      else if p = s.index then .later { s with enclaves := ins s.enclaves d { x with excluded := x.excluded ++ [p] } } (.revoke d)
      else
        let gen : Word := BitVec.ofNat 64 (nextGen x.gen)
        if x.oldGen.isSome then .done { s with enclaves := ins s.enclaves d { x with waiting := x.waiting ++ [p] } } gen
        else if s.leads x [p] then .done (s.leadRotation d x [p]) gen
        else .done s gen)

/-! ## Windows (25 R247) -/

def execWindow (e : BitVec 512) (members : Operand) (s : State) : Res :=
  if !Admin.fits members (fieldAt (entryBytes e) 12 2) 2 then .fault .notEnabled
  else
    adminCommand s 0x0F e [(8, 20), (28, 12)] false (fun bs s =>
      let n := fieldAt bs 12 2
      let x : Window := { op := fieldAt bs 9 1, homePkg := fieldAt bs 10 2, n := n, space := fieldAt bs 14 2,
                          base := BitVec.ofNat 64 (fieldAt bs 16 8), size := fieldAt bs 24 8, members := [], round := 0,
                          contribs := [], delivered := [], done := [], route := s.choosePath (fieldAt bs 10 2) none }
      if 15 < fieldAt bs 8 1 ∨ 5 < x.op ∨ 2048 ≤ x.homePkg ∨ n = 0 ∨ 2048 < n ∨ x.base.toNat % 256 ≠ 0 ∨ x.size % 256 ≠ 0
          ∨ 2 ^ 30 < x.size ∨ (x.homePkg = s.index ∧ (find? s.spaces x.space).isNone) then .bad 1
      else match members with
        | .fault => .bad 4
        | .list ms =>
          if ms.any (fun m => decide (2048 ≤ m)) then .bad 1
          else if (find? s.windows (fieldAt bs 8 1)).isSome then .bad 2
          else .done { s with windows := ins s.windows (fieldAt bs 8 1) { x with members := ms }, free := s.free + 1 } 0)

/-- UNWINDOW: contributions that still wait for their round end with outcome 3, performed in no element (log 188). -/
def execUnwindow (e : BitVec 512) (s : State) : Res :=
  adminCommand s 0x10 e [(8, 1)] false (fun bs s =>
    let n := fieldAt bs 8 1
    match find? s.windows n with
    | none => .bad 1
    | some w => .done (w.contribs.foldl (fun s c => (s.keepOutcome c.2 3).acknowledge c.2 3) { s with windows := del s.windows n }) 0)

end Sys2Proof.Machine
end

