-- ==== Sys2Proof/Machine/Power.lean ====
section
/-! DEFINITION. Reliability, power and bring-up (43 R372-R378, 33 R322). -/

namespace Sys2Proof.Machine

/-! ## Register writes by the host (R375, R376) -/

def execCeConfigWrite (die : BitVec 3) (v : BitVec 64) (s : State) : Res :=
  .next (devWrite s (0x300000 + 0x1000 * die.toNat) ⟨true, true⟩ v)
def execReliabilityStickyClear (die : BitVec 3) (v : BitVec 64) (s : State) : Res :=
  .next (devWrite s (0x300010 + 0x1000 * die.toNat) ⟨true, true⟩ v)
def execPlimitWrite (v : BitVec 64) (s : State) : Res := .next (devWrite s 0x308000 ⟨true, true⟩ v)

/-! ## Bring-up (R378) -/

namespace State

/-- Memory of the host, which bring-up leaves alone (19 R194). -/
def hostKey (k : Nat) : Bool := decide (2 ^ 51 ≤ k) && decide (k < 2 ^ 52)

/-- Steps 1 to 6: measurements, the registers' reset values with the form's PLIMIT, memory of zeros but for the host's, and the host link: no
write of the host before it comes up has an effect. -/
def bootFirst (s : State) (digests : List (BitVec 384)) : State :=
  let s := { s with meas := [], mem := s.mem.filter (fun c => hostKey c.1), bad := [],
                    dev := if s.form = .v8d then put devReset 0x308000 500 else devReset,
                    dies := s.dies.map (fun d => (d.1, { d.2 with prQlim := Die.reset.prQlim, sgQlim := Die.reset.sgQlim })), bootStep := 6 }
  (([0, 1, 2, 4, 5, 6, 7] : List Nat).zip digests).foldl (fun s p => s.extend p.1 p.2) s

/-- The ports that a package has: local ones to the others of its group, and global links (25 R236); a V8D has those to nine packages, and
no global link (01 R19). -/
def hasPort (f : Form) (pkg port : Nat) : Bool :=
  if port < 32 then port != pkg && (match f with
    | .v8d => decide (port < 9)
    | _ => true)
  else match f with
    | .v8d => false
    | _ => decide (port < 96)

/-- The fabric map of a dragonfly group: the package at the end of global link f of package j, under 64 * j + f. -/
def wiring (f : Form) (group : Nat) : Tab Nat :=
  if f = .v8d then [] else (List.range 2048).map (fun i => (i, Config.linkPeer (32 * group + i / 64) (i % 64)))

/-- Steps 7 and 8: links are trained, FSKEW and the fabric map measured, COORD's position loaded; launch queues are read. -/
def bootLast (s : State) (b : Boot) (map : BitVec 384) : State :=
  let skew := b.fskew.toNat
  let gap := bits (look s.dev 0x200000) 31 0
  let dev := put s.dev 0x200008 (BitVec.ofNat 64 skew)
  let up := (b.linksUp.map (·.toNat)).filter (hasPort s.form b.pkg.toNat)
  let s := { s with dgrp := b.dgrp, pkg := b.pkg, dev := if gap ≤ skew then put dev 0x200000 (gapAbove skew) else dev,
                    links := up.foldl (fun (t : Tab Link) p => ins t p (Link.trained s.clk)) s.links,
                    fabricMap := wiring s.form b.dgrp.toNat, bootStep := 8 }
  s.extend 3 map

/-- The position that the wiring of a form allows: a V8D is one of at most nine packages of group 0 (01 R19). -/
def positionOk (f : Form) (b : Boot) : Bool :=
  match f with
  | .v8d => b.dgrp == 0 && decide (b.pkg.toNat ≤ 8)
  | _ => true

end State

/-- POWER_ON: first the steps to 6, where a failed signature stops the package (33 R322); then the steps to 8. -/
def execPowerOn (b : Boot) (s : State) : Res :=
  if s.bootStep = 0 then
    if !b.signed then .next { s with powered := false }
    else if b.digests.length < 3 ∨ 7 < b.digests.length then .fault .notEnabled
    else .next (s.bootFirst b.digests)
  else if s.bootStep = 6 then
    match b.digests with
    | [d] => if State.positionOk s.form b then .next (s.bootLast b d) else .fault .notEnabled
    | _ => .fault .notEnabled
  else .fault .notEnabled

/-- EPOCH_TICK: the epoch advances every 1,024 clk (19 R200). -/
def execEpochTick (s : State) : Res :=
  if s.epoch.toNat < s.clk / 1024 then .next { s with epoch := s.epoch + 1 } else .fault .notEnabled

/-! ## Power and temperature (R376, R377) -/

/-- The limit in force, in watts: values above the reset value act as the reset value. -/
def powerLimit (s : State) : Nat :=
  min (bits (look s.dev 0x308000) 12 0) (match s.form with
    | .v8d => 500
    | _ => 4000)

/-- POWER_MEASURE: the issue duty, in sixteenths. -/
def execPowerMeasure (milliwatts : BitVec 32) (s : State) : Res :=
  let p := milliwatts.toNat
  let lim := 1000 * powerLimit s
  .next { s with duty := if lim < p then max 4 (s.duty - 1) else if 100 * p < 95 * lim then min 16 (s.duty + 1) else s.duty }

/-- Clk in 100 ms and in a second, at 1.05 GHz (R376). -/
def coolClk : Nat := 105000000
def secondClk : Nat := 1050000000

/-- JUNCTION_OVERTEMP: every live launch is suspended as SUSPEND does; the 100 ms run from the first moment at the limit. -/
def execJunctionOvertemp (s : State) : Res :=
  .next (s.launches.foldl (fun s p =>
    if p.2.suspended then s else (s.setLaunch p.1 { p.2 with suspended := true }).askStop p.1) { s with hot := s.hot.or (some s.clk) })

/-- THERMAL_POWER_OFF: the junction has fallen below 95 °C, or it has not within 100 ms, and the module powers off. -/
def execThermalPowerOff (belowLimit : Bool) (s : State) : Res :=
  match s.hot with
  | none => .fault .notEnabled
  | some since =>
    if belowLimit then (if s.clk < since + coolClk then .next { s with hot := none } else .fault .notEnabled)
    else if s.clk < since + coolClk then .fault .notEnabled
    else .next { s with powered := false }

/-! ## Errors (R372-R375) -/

/-- The last n members of a list. -/
def lastN {α : Type} (n : Nat) (xs : List α) : List α := xs.drop (xs.length - n)

namespace State

/-- Set sticky reliability bits of a die. -/
def stick (s : State) (die : Nat) (v : Word) : State :=
  { s with dev := put s.dev (0x300010 + 0x1000 * die) (look s.dev (0x300010 + 0x1000 * die) ||| v) }

/-- RETIRED and CECNT of a die grow, CECNT saturating. -/
def countErrors (s : State) (die errors retired : Nat) : State :=
  let off := 0x300008 + 0x1000 * die
  let w := look s.dev off
  { s with dev := put s.dev off (BitVec.ofNat 64 ((bits w 63 32 + retired) % 2 ^ 32 * 2 ^ 32 + min (bits w 31 0 + errors) (2 ^ 32 - 1))) }

/-- The tracking entries of a die: index and entry. -/
def tracksOf (s : State) (die : Nat) : List (Nat × Track) :=
  (List.range 64).filterMap (fun i => (find? s.tracks (64 * die + i)).map (fun t => (i, t)))

/-- The entry that a new location takes: a free one, else the one whose latest error is oldest; and whether it is taken over. -/
def trackSlot (s : State) (die : Nat) : Nat × Bool :=
  match (List.range 64).find? (fun i => (find? s.tracks (64 * die + i)).isNone) with
  | some i => (i, false)
  | none =>
    let latest (t : Track) : Nat := t.stamps.getLastD 0
    let best := (s.tracksOf die).foldl (fun (b : Option (Nat × Nat)) p =>
      if b.all (fun x => decide (latest p.2 < x.2)) then some (p.1, latest p.2) else b) none
    ((best.map (·.1)).getD 0, true)

end State

/-- CORRECTED_ERROR: counted; a location is lasting once CETHR errors fall within CEWIN seconds, and goes to a spare row, where one is left.
Its timestamp is its clk (log 193); `second`: the second of the clock that it falls in; `spare`: a spare row is left (log 194). -/
def execCorrectedError (die : BitVec 3) (loc : BitVec 64) (second : BitVec 32) (spare : Bool) (s : State) : Res :=
  let d := die.toNat
  if dieCount s.form ≤ d ∨ second.toNat ≠ s.clk / secondClk then .fault .notEnabled
  else
    let cfg := look s.dev (0x300000 + 0x1000 * d)
    let thr := bits cfg 3 0
    let win := secondClk * bits cfg 63 32
    let t := s.clk
    let s := s.countErrors d 1 0
    match (s.tracksOf d).find? (fun p => p.2.loc == loc.toNat) with
    | some (i, e) =>
      let recent := lastN thr (e.stamps ++ [t])
      let lasting := recent.length = thr ∧ t ≤ recent.headD 0 + win
      if lasting ∧ spare then .next { s.countErrors d 0 1 with tracks := del s.tracks (64 * d + i) }
      else
        let s := if lasting then s.stick d 4 else s
        .next { s with tracks := ins s.tracks (64 * d + i) { e with stamps := lastN (thr - 1) (e.stamps ++ [t]) } }
    | none =>
      let p := s.trackSlot d
      let s := if p.2 then s.stick d 1 else s
      .next { s with tracks := ins s.tracks (64 * d + p.1) { loc := loc.toNat, stamps := [t] } }

/-- The die whose scrubber reads a memory key: tile and group SRAM, the tensor store, HBM4 in slices of 64 GiB. -/
def patrolDie (f : Form) (key : Nat) : Option Nat :=
  match keyTile key, keyGroup key, keyPart key with
  | some t, _, _ => some (dieOf t)
  | _, some g, _ => some (g / 128)
  | _, _, some p => some p.1
  | _, _, _ => if physKind f key = some .hbm then some (key / 2 ^ 36) else none

/-- PATROL_READ: no value changes, and an uncorrectable error is only logged (R373). -/
def execPatrolRead (unit : Nat) (s : State) : Res :=
  match patrolDie s.form (8 * unit) with
  | none => .fault .notEnabled
  | some d => .next (if s.isBad (8 * unit) 8 then s.markUe d else s)

end Sys2Proof.Machine
end

