-- ==== Sys2Proof/Machine/Scalar.lean ====
section
/-! DEFINITION. The scalar instructions (13 R132-R145). -/

namespace Sys2Proof.Machine

/-- A register instruction of two sources. -/
def aluR (f : Word → Word → Word) (d a b : BitVec 5) (s : State) : Res := writeR s d (f (s.x a) (s.x b))
/-- A register instruction of one source. -/
def aluU (f : Word → Word) (d a : BitVec 5) (s : State) : Res := writeR s d (f (s.x a))

def sh6 (b : Word) : Nat := bits b 5 0
def sh5 (b : Word) : Nat := bits b 4 0
/-- sext64 of a 32-bit result. -/
def sxw (v : Lane) : Word := v.signExtend 64
def low32 (v : Word) : Lane := v.truncate 32
/-- Leading zeros, from bit n - 1 down. -/
def clzGo (v : Word) : Nat → Nat
  | 0 => 64
  | n + 1 => if v.getLsbD n then 63 - n else clzGo v n
def ctzGo (v : Word) : Nat → Nat → Nat
  | 0, k => k
  | n + 1, k => if v.getLsbD k then k else ctzGo v n (k + 1)
def popGo (v : Word) : Nat → Nat
  | 0 => 0
  | n + 1 => b2n (v.getLsbD n) + popGo v n
def bswap (v : Word) : Word := BitVec.ofNat 64 (leNat (leBytes 8 v.toNat).reverse)
def brevGo (v : Word) : Nat → Nat
  | 0 => 0
  | n + 1 => b2n (v.getLsbD n) * 2 ^ (63 - n) + brevGo v n

/-- DIV of R133. -/
def divS (a b : Word) : Word := if b = 0#64 then -1#64 else a.sdiv b
def remS (a b : Word) : Word := if b = 0#64 then a else a.srem b
def divU (a b : Word) : Word := if b = 0#64 then -1#64 else a / b
def remU (a b : Word) : Word := if b = 0#64 then a else a % b

def mulHS (a b : Word) : Word := BitVec.ofInt 64 (a.toInt * b.toInt / 2 ^ 64)
def mulHU (a b : Word) : Word := BitVec.ofNat 64 (a.toNat * b.toNat / 2 ^ 64)

def execAdd (d a b : BitVec 5) (s : State) : Res := aluR (· + ·) d a b s
def execSub (d a b : BitVec 5) (s : State) : Res := aluR (· - ·) d a b s
def execAnd (d a b : BitVec 5) (s : State) : Res := aluR (· &&& ·) d a b s
def execOr (d a b : BitVec 5) (s : State) : Res := aluR (· ||| ·) d a b s
def execXor (d a b : BitVec 5) (s : State) : Res := aluR (· ^^^ ·) d a b s
def execAndn (d a b : BitVec 5) (s : State) : Res := aluR (fun x y => x &&& ~~~y) d a b s
def execOrn (d a b : BitVec 5) (s : State) : Res := aluR (fun x y => x ||| ~~~y) d a b s
def execXnor (d a b : BitVec 5) (s : State) : Res := aluR (fun x y => ~~~(x ^^^ y)) d a b s
def execSll (d a b : BitVec 5) (s : State) : Res := aluR (fun x y => x <<< sh6 y) d a b s
def execSrl (d a b : BitVec 5) (s : State) : Res := aluR (fun x y => x >>> sh6 y) d a b s
def execSra (d a b : BitVec 5) (s : State) : Res := aluR (fun x y => x.sshiftRight (sh6 y)) d a b s
def execRol (d a b : BitVec 5) (s : State) : Res := aluR (fun x y => x.rotateLeft (sh6 y)) d a b s
def execRor (d a b : BitVec 5) (s : State) : Res := aluR (fun x y => x.rotateRight (sh6 y)) d a b s
def execMin (d a b : BitVec 5) (s : State) : Res := aluR (fun x y => if x.slt y then x else y) d a b s
def execMax (d a b : BitVec 5) (s : State) : Res := aluR (fun x y => if x.slt y then y else x) d a b s
def execMinn (d a b : BitVec 5) (s : State) : Res := aluR (fun x y => if x.ult y then x else y) d a b s
def execMaxn (d a b : BitVec 5) (s : State) : Res := aluR (fun x y => if x.ult y then y else x) d a b s
def execSlt (d a b : BitVec 5) (s : State) : Res := aluR (fun x y => b2w (x.slt y)) d a b s
def execSltn (d a b : BitVec 5) (s : State) : Res := aluR (fun x y => b2w (x.ult y)) d a b s
def execSeq (d a b : BitVec 5) (s : State) : Res := aluR (fun x y => b2w (x == y)) d a b s
def execSne (d a b : BitVec 5) (s : State) : Res := aluR (fun x y => b2w (x != y)) d a b s
def execMul (d a b : BitVec 5) (s : State) : Res := aluR (· * ·) d a b s
def execMulh (d a b : BitVec 5) (s : State) : Res := aluR mulHS d a b s
def execMulhn (d a b : BitVec 5) (s : State) : Res := aluR mulHU d a b s
def execDiv (d a b : BitVec 5) (s : State) : Res := aluR divS d a b s
def execDivn (d a b : BitVec 5) (s : State) : Res := aluR divU d a b s
def execRem (d a b : BitVec 5) (s : State) : Res := aluR remS d a b s
def execRemn (d a b : BitVec 5) (s : State) : Res := aluR remU d a b s
def execClz (d a : BitVec 5) (s : State) : Res := aluU (fun x => BitVec.ofNat 64 (clzGo x 64)) d a s
def execCtz (d a : BitVec 5) (s : State) : Res := aluU (fun x => BitVec.ofNat 64 (ctzGo x 64 0)) d a s
def execPopc (d a : BitVec 5) (s : State) : Res := aluU (fun x => BitVec.ofNat 64 (popGo x 64)) d a s
def execBrev (d a : BitVec 5) (s : State) : Res := aluU (fun x => BitVec.ofNat 64 (brevGo x 64)) d a s
def execBswap (d a : BitVec 5) (s : State) : Res := aluU bswap d a s
def execAddw (d a b : BitVec 5) (s : State) : Res := aluR (fun x y => sxw (low32 x + low32 y)) d a b s
def execSubw (d a b : BitVec 5) (s : State) : Res := aluR (fun x y => sxw (low32 x - low32 y)) d a b s
def execMulw (d a b : BitVec 5) (s : State) : Res := aluR (fun x y => sxw (low32 x * low32 y)) d a b s
def execSllw (d a b : BitVec 5) (s : State) : Res := aluR (fun x y => sxw (low32 x <<< sh5 y)) d a b s
def execSrlw (d a b : BitVec 5) (s : State) : Res := aluR (fun x y => sxw (low32 x >>> sh5 y)) d a b s
def execSraw (d a b : BitVec 5) (s : State) : Res := aluR (fun x y => sxw ((low32 x).sshiftRight (sh5 y))) d a b s

def execAddi (d a : BitVec 5) (i : BitVec 16) (s : State) : Res := writeR s d (s.x a + immS i)
def execAndi (d a : BitVec 5) (i : BitVec 16) (s : State) : Res := writeR s d (s.x a &&& immZ i)
def execOri (d a : BitVec 5) (i : BitVec 16) (s : State) : Res := writeR s d (s.x a ||| immZ i)
def execXori (d a : BitVec 5) (i : BitVec 16) (s : State) : Res := writeR s d (s.x a ^^^ immZ i)
def execSlti (d a : BitVec 5) (i : BitVec 16) (s : State) : Res := writeR s d (b2w ((s.x a).slt (immS i)))
def execSltin (d a : BitVec 5) (i : BitVec 16) (s : State) : Res := writeR s d (b2w ((s.x a).ult (immS i)))
def execSlli (d a : BitVec 5) (n : BitVec 6) (s : State) : Res := writeR s d (s.x a <<< n.toNat)
def execSrli (d a : BitVec 5) (n : BitVec 6) (s : State) : Res := writeR s d (s.x a >>> n.toNat)
def execSrai (d a : BitVec 5) (n : BitVec 6) (s : State) : Res := writeR s d ((s.x a).sshiftRight n.toNat)
def execRori (d a : BitVec 5) (n : BitVec 6) (s : State) : Res := writeR s d ((s.x a).rotateRight n.toNat)
def execSlliW (d a : BitVec 5) (n : BitVec 5) (s : State) : Res := writeR s d (sxw (low32 (s.x a) <<< n.toNat))
def execSrliW (d a : BitVec 5) (n : BitVec 5) (s : State) : Res := writeR s d (sxw (low32 (s.x a) >>> n.toNat))
def execSraiW (d a : BitVec 5) (n : BitVec 5) (s : State) : Res := writeR s d (sxw ((low32 (s.x a)).sshiftRight n.toNat))
def execRoriW (d a : BitVec 5) (n : BitVec 5) (s : State) : Res := writeR s d (sxw ((low32 (s.x a)).rotateRight n.toNat))
def execLih (d : BitVec 5) (i : BitVec 21) (s : State) : Res := writeR s d (immHi i)
def execAdpc (d : BitVec 5) (i : BitVec 21) (s : State) : Res := writeR s d (s.pc + immHi i)
/-- `l` is len - 1 (R138). -/
def execExts (d a : BitVec 5) (l p : BitVec 6) (s : State) : Res :=
  writeR s d (sext64 (bits (s.x a) (p.toNat + l.toNat) p.toNat) (l.toNat + 1))
def execExtz (d a : BitVec 5) (l p : BitVec 6) (s : State) : Res :=
  writeR s d (BitVec.ofNat 64 (bits (s.x a) (p.toNat + l.toNat) p.toNat))
def execDep (d a : BitVec 5) (l p : BitVec 6) (s : State) : Res :=
  writeR s d (setBits (s.x d) (p.toNat + l.toNat) p.toNat (bits (s.x a) l.toNat 0))
def execDepz (d a : BitVec 5) (l p : BitVec 6) (s : State) : Res :=
  writeR s d (BitVec.ofNat 64 (bits (s.x a) l.toNat 0) <<< p.toNat)
def execLis (d : BitVec 5) (i : BitVec 16) (s : State) : Res := writeR s d ((s.x d <<< 16) ||| immZ i)

/-- A conditional branch (R139). -/
def branch (s : State) (taken : Bool) (o : BitVec 13) : Res := .next (s.goto (if taken then targetB s o else s.pc + 4))

def execBeq (a b : BitVec 5) (o : BitVec 13) (s : State) : Res := branch s (s.x a == s.x b) o
def execBne (a b : BitVec 5) (o : BitVec 13) (s : State) : Res := branch s (s.x a != s.x b) o
def execBlt (a b : BitVec 5) (o : BitVec 13) (s : State) : Res := branch s ((s.x a).slt (s.x b)) o
def execBge (a b : BitVec 5) (o : BitVec 13) (s : State) : Res := branch s (!(s.x a).slt (s.x b)) o
def execBltn (a b : BitVec 5) (o : BitVec 13) (s : State) : Res := branch s ((s.x a).ult (s.x b)) o
def execBgen (a b : BitVec 5) (o : BitVec 13) (s : State) : Res := branch s (!(s.x a).ult (s.x b)) o
def execBeqz (a : BitVec 5) (o : BitVec 13) (s : State) : Res := branch s (s.x a == 0#64) o
def execBnez (a : BitVec 5) (o : BitVec 13) (s : State) : Res := branch s (s.x a != 0#64) o
def execBltz (a : BitVec 5) (o : BitVec 13) (s : State) : Res := branch s ((s.x a).slt 0#64) o
def execBgez (a : BitVec 5) (o : BitVec 13) (s : State) : Res := branch s (!(s.x a).slt 0#64) o
def execBgtz (a : BitVec 5) (o : BitVec 13) (s : State) : Res := branch s ((0#64).slt (s.x a)) o
def execBlez (a : BitVec 5) (o : BitVec 13) (s : State) : Res := branch s (!(0#64).slt (s.x a)) o
def execJ (o : BitVec 26) (s : State) : Res := .next (s.goto (targetJ s o))
def execCall (o : BitVec 26) (s : State) : Res := callTo s (targetJ s o)
def execJr (a : BitVec 5) (s : State) : Res :=
  let t := s.x a
  if misaligned4 t then trapR s (.at 0x04 t) else .next (s.goto t)
def execCallr (a : BitVec 5) (s : State) : Res :=
  let t := s.x a
  if misaligned4 t then trapR s (.at 0x04 t) else callTo s t
def execRet (s : State) : Res := returnTo s
def execJlr (d a : BitVec 5) (s : State) : Res :=
  let t := s.x a
  if misaligned4 t then trapR s (.at 0x04 t) else .next ((s.setX d (s.pc + 4)).goto t)

end Sys2Proof.Machine
end

