-- ==== Sys2Proof/Machine/Dispatch.lean ====
section
/-! DEFINITION. The dispatch of an instruction to its meaning. -/

namespace Sys2Proof.Machine

def exec (i : Instr) (s : State) : Host.Outcome State Fault Refusal :=
  match i with
  | .add d a b => Sys2Proof.Machine.execAdd d a b s
  | .sub d a b => Sys2Proof.Machine.execSub d a b s
  | .and d a b => Sys2Proof.Machine.execAnd d a b s
  | .or d a b => Sys2Proof.Machine.execOr d a b s
  | .xor d a b => Sys2Proof.Machine.execXor d a b s
  | .andn d a b => Sys2Proof.Machine.execAndn d a b s
  | .orn d a b => Sys2Proof.Machine.execOrn d a b s
  | .xnor d a b => Sys2Proof.Machine.execXnor d a b s
  | .sll d a b => Sys2Proof.Machine.execSll d a b s
  | .srl d a b => Sys2Proof.Machine.execSrl d a b s
  | .sra d a b => Sys2Proof.Machine.execSra d a b s
  | .rol d a b => Sys2Proof.Machine.execRol d a b s
  | .ror d a b => Sys2Proof.Machine.execRor d a b s
  | .min d a b => Sys2Proof.Machine.execMin d a b s
  | .max d a b => Sys2Proof.Machine.execMax d a b s
  | .minn d a b => Sys2Proof.Machine.execMinn d a b s
  | .maxn d a b => Sys2Proof.Machine.execMaxn d a b s
  | .slt d a b => Sys2Proof.Machine.execSlt d a b s
  | .sltn d a b => Sys2Proof.Machine.execSltn d a b s
  | .seq d a b => Sys2Proof.Machine.execSeq d a b s
  | .sne d a b => Sys2Proof.Machine.execSne d a b s
  | .mul d a b => Sys2Proof.Machine.execMul d a b s
  | .mulh d a b => Sys2Proof.Machine.execMulh d a b s
  | .mulhn d a b => Sys2Proof.Machine.execMulhn d a b s
  | .div d a b => Sys2Proof.Machine.execDiv d a b s
  | .divn d a b => Sys2Proof.Machine.execDivn d a b s
  | .rem d a b => Sys2Proof.Machine.execRem d a b s
  | .remn d a b => Sys2Proof.Machine.execRemn d a b s
  | .clz d a => Sys2Proof.Machine.execClz d a s
  | .ctz d a => Sys2Proof.Machine.execCtz d a s
  | .popc d a => Sys2Proof.Machine.execPopc d a s
  | .brev d a => Sys2Proof.Machine.execBrev d a s
  | .bswap d a => Sys2Proof.Machine.execBswap d a s
  | .addw d a b => Sys2Proof.Machine.execAddw d a b s
  | .subw d a b => Sys2Proof.Machine.execSubw d a b s
  | .mulw d a b => Sys2Proof.Machine.execMulw d a b s
  | .sllw d a b => Sys2Proof.Machine.execSllw d a b s
  | .srlw d a b => Sys2Proof.Machine.execSrlw d a b s
  | .sraw d a b => Sys2Proof.Machine.execSraw d a b s
  | .addi d a imm => Sys2Proof.Machine.execAddi d a imm s
  | .andi d a imm => Sys2Proof.Machine.execAndi d a imm s
  | .ori d a imm => Sys2Proof.Machine.execOri d a imm s
  | .xori d a imm => Sys2Proof.Machine.execXori d a imm s
  | .slti d a imm => Sys2Proof.Machine.execSlti d a imm s
  | .sltin d a imm => Sys2Proof.Machine.execSltin d a imm s
  | .slli d a n => Sys2Proof.Machine.execSlli d a n s
  | .srli d a n => Sys2Proof.Machine.execSrli d a n s
  | .srai d a n => Sys2Proof.Machine.execSrai d a n s
  | .rori d a n => Sys2Proof.Machine.execRori d a n s
  | .slliW d a n => Sys2Proof.Machine.execSlliW d a n s
  | .srliW d a n => Sys2Proof.Machine.execSrliW d a n s
  | .sraiW d a n => Sys2Proof.Machine.execSraiW d a n s
  | .roriW d a n => Sys2Proof.Machine.execRoriW d a n s
  | .lih d imm => Sys2Proof.Machine.execLih d imm s
  | .adpc d imm => Sys2Proof.Machine.execAdpc d imm s
  | .exts d a l p => Sys2Proof.Machine.execExts d a l p s
  | .extz d a l p => Sys2Proof.Machine.execExtz d a l p s
  | .dep d a l p => Sys2Proof.Machine.execDep d a l p s
  | .depz d a l p => Sys2Proof.Machine.execDepz d a l p s
  | .lis d imm => Sys2Proof.Machine.execLis d imm s
  | .ldb d a o => Sys2Proof.Machine.execLdb d a o s
  | .ldh d a o => Sys2Proof.Machine.execLdh d a o s
  | .ldw d a o => Sys2Proof.Machine.execLdw d a o s
  | .ldbz d a o => Sys2Proof.Machine.execLdbz d a o s
  | .ldhz d a o => Sys2Proof.Machine.execLdhz d a o s
  | .ldwz d a o => Sys2Proof.Machine.execLdwz d a o s
  | .ldd d a o => Sys2Proof.Machine.execLdd d a o s
  | .stb d a o => Sys2Proof.Machine.execStb d a o s
  | .sth d a o => Sys2Proof.Machine.execSth d a o s
  | .stw d a o => Sys2Proof.Machine.execStw d a o s
  | .std d a o => Sys2Proof.Machine.execStd d a o s
  | .ldsg d a o a3 z => Sys2Proof.Machine.execLdsg d a o a3 z s
  | .stsg d a o a3 z => Sys2Proof.Machine.execStsg d a o a3 z s
  | .amoadd d a b o a4 z => Sys2Proof.Machine.execAmoadd d a b o a4 z s
  | .amoand d a b o a4 z => Sys2Proof.Machine.execAmoand d a b o a4 z s
  | .amoor d a b o a4 z => Sys2Proof.Machine.execAmoor d a b o a4 z s
  | .amoxor d a b o a4 z => Sys2Proof.Machine.execAmoxor d a b o a4 z s
  | .amosmin d a b o a4 z => Sys2Proof.Machine.execAmosmin d a b o a4 z s
  | .amosmax d a b o a4 z => Sys2Proof.Machine.execAmosmax d a b o a4 z s
  | .amonmin d a b o a4 z => Sys2Proof.Machine.execAmonmin d a b o a4 z s
  | .amonmax d a b o a4 z => Sys2Proof.Machine.execAmonmax d a b o a4 z s
  | .amoswap d a b o a4 z => Sys2Proof.Machine.execAmoswap d a b o a4 z s
  | .amocas d a b o a4 z => Sys2Proof.Machine.execAmocas d a b o a4 z s
  | .amofadd d a b o a4 z => Sys2Proof.Machine.execAmofadd d a b o a4 z s
  | .fence a0 => Sys2Proof.Machine.execFence a0 s
  | .fencea a0 => Sys2Proof.Machine.execFencea a0 s
  | .fencer a0 => Sys2Proof.Machine.execFencer a0 s
  | .tfence a0 => Sys2Proof.Machine.execTfence a0 s
  | .msgs a b n => Sys2Proof.Machine.execMsgs a b n s
  | .waitc a n => Sys2Proof.Machine.execWaitc a n s
  | .ctradd a n => Sys2Proof.Machine.execCtradd a n s
  | .ctrrd d n => Sys2Proof.Machine.execCtrrd d n s
  | .tkget d a => Sys2Proof.Machine.execTkget d a s
  | .tkwait a b => Sys2Proof.Machine.execTkwait a b s
  | .tknext a => Sys2Proof.Machine.execTknext a s
  | .chwf a c => Sys2Proof.Machine.execChwf a c s
  | .chwe a c => Sys2Proof.Machine.execChwe a c s
  | .chap a c => Sys2Proof.Machine.execChap a c s
  | .chac a c => Sys2Proof.Machine.execChac a c s
  | .chrd d c => Sys2Proof.Machine.execChrd d c s
  | .chset a b c => Sys2Proof.Machine.execChset a b c s
  | .bara a b l => Sys2Proof.Machine.execBara a b l s
  | .barw l => Sys2Proof.Machine.execBarw l s
  | .spawn a b p r => Sys2Proof.Machine.execSpawn a b p r s
  | .susp => Sys2Proof.Machine.execSusp s
  | .yield => Sys2Proof.Machine.execYield s
  | .done => Sys2Proof.Machine.execDone s
  | .exend l => Sys2Proof.Machine.execExend l s
  | .xwt l => Sys2Proof.Machine.execXwt l s
  | .beq a b o => Sys2Proof.Machine.execBeq a b o s
  | .bne a b o => Sys2Proof.Machine.execBne a b o s
  | .blt a b o => Sys2Proof.Machine.execBlt a b o s
  | .bge a b o => Sys2Proof.Machine.execBge a b o s
  | .bltn a b o => Sys2Proof.Machine.execBltn a b o s
  | .bgen a b o => Sys2Proof.Machine.execBgen a b o s
  | .beqz a o => Sys2Proof.Machine.execBeqz a o s
  | .bnez a o => Sys2Proof.Machine.execBnez a o s
  | .bltz a o => Sys2Proof.Machine.execBltz a o s
  | .bgez a o => Sys2Proof.Machine.execBgez a o s
  | .bgtz a o => Sys2Proof.Machine.execBgtz a o s
  | .blez a o => Sys2Proof.Machine.execBlez a o s
  | .j o => Sys2Proof.Machine.execJ o s
  | .call o => Sys2Proof.Machine.execCall o s
  | .jr a => Sys2Proof.Machine.execJr a s
  | .callr a => Sys2Proof.Machine.execCallr a s
  | .ret => Sys2Proof.Machine.execRet s
  | .jlr d a => Sys2Proof.Machine.execJlr d a s
  | .vaddF d a b k => Sys2Proof.Machine.execVaddF d a b k s
  | .vsubF d a b k => Sys2Proof.Machine.execVsubF d a b k s
  | .vmulF d a b k => Sys2Proof.Machine.execVmulF d a b k s
  | .vdivF d a b k => Sys2Proof.Machine.execVdivF d a b k s
  | .vsqrtF d a k => Sys2Proof.Machine.execVsqrtF d a k s
  | .vfmaF d a b k => Sys2Proof.Machine.execVfmaF d a b k s
  | .vfmsF d a b k => Sys2Proof.Machine.execVfmsF d a b k s
  | .vminF d a b k => Sys2Proof.Machine.execVminF d a b k s
  | .vmaxF d a b k => Sys2Proof.Machine.execVmaxF d a b k s
  | .vabsF d a k => Sys2Proof.Machine.execVabsF d a k s
  | .vnegF d a k => Sys2Proof.Machine.execVnegF d a k s
  | .vaddI d a b k => Sys2Proof.Machine.execVaddI d a b k s
  | .vsubI d a b k => Sys2Proof.Machine.execVsubI d a b k s
  | .vmulI d a b k => Sys2Proof.Machine.execVmulI d a b k s
  | .vmulhI d a b k => Sys2Proof.Machine.execVmulhI d a b k s
  | .vmulhN d a b k => Sys2Proof.Machine.execVmulhN d a b k s
  | .vminI d a b k => Sys2Proof.Machine.execVminI d a b k s
  | .vmaxI d a b k => Sys2Proof.Machine.execVmaxI d a b k s
  | .vminN d a b k => Sys2Proof.Machine.execVminN d a b k s
  | .vmaxN d a b k => Sys2Proof.Machine.execVmaxN d a b k s
  | .vand d a b k => Sys2Proof.Machine.execVand d a b k s
  | .vor d a b k => Sys2Proof.Machine.execVor d a b k s
  | .vxor d a b k => Sys2Proof.Machine.execVxor d a b k s
  | .vsll d a b k => Sys2Proof.Machine.execVsll d a b k s
  | .vsrl d a b k => Sys2Proof.Machine.execVsrl d a b k s
  | .vsra d a b k => Sys2Proof.Machine.execVsra d a b k s
  | .vsel d a b k => Sys2Proof.Machine.execVsel d a b k s
  | .vmov d a k => Sys2Proof.Machine.execVmov d a k s
  | .vceqF d a b k => Sys2Proof.Machine.execVceqF d a b k s
  | .vcltF d a b k => Sys2Proof.Machine.execVcltF d a b k s
  | .vcleF d a b k => Sys2Proof.Machine.execVcleF d a b k s
  | .vcunF d a b k => Sys2Proof.Machine.execVcunF d a b k s
  | .vceqI d a b k => Sys2Proof.Machine.execVceqI d a b k s
  | .vcltI d a b k => Sys2Proof.Machine.execVcltI d a b k s
  | .vcltN d a b k => Sys2Proof.Machine.execVcltN d a b k s
  | .vclassF d a k => Sys2Proof.Machine.execVclassF d a k s
  | .vaddsF d a b k => Sys2Proof.Machine.execVaddsF d a b k s
  | .vsubsF d a b k => Sys2Proof.Machine.execVsubsF d a b k s
  | .vmulsF d a b k => Sys2Proof.Machine.execVmulsF d a b k s
  | .vfmasF d a b k => Sys2Proof.Machine.execVfmasF d a b k s
  | .vminsF d a b k => Sys2Proof.Machine.execVminsF d a b k s
  | .vmaxsF d a b k => Sys2Proof.Machine.execVmaxsF d a b k s
  | .vaddsI d a b k => Sys2Proof.Machine.execVaddsI d a b k s
  | .vmulsI d a b k => Sys2Proof.Machine.execVmulsI d a b k s
  | .vslls d a b k => Sys2Proof.Machine.execVslls d a b k s
  | .vsrls d a b k => Sys2Proof.Machine.execVsrls d a b k s
  | .vsras d a b k => Sys2Proof.Machine.execVsras d a b k s
  | .vceqsI d a b k => Sys2Proof.Machine.execVceqsI d a b k s
  | .vcltsI d a b k => Sys2Proof.Machine.execVcltsI d a b k s
  | .vsplat d b k => Sys2Proof.Machine.execVsplat d b k s
  | .vinsl d a b => Sys2Proof.Machine.execVinsl d a b s
  | .vextl d a b => Sys2Proof.Machine.execVextl d a b s
  | .vld d a k => Sys2Proof.Machine.execVld d a k s
  | .vlds d a b k => Sys2Proof.Machine.execVlds d a b k s
  | .vldg d a b k => Sys2Proof.Machine.execVldg d a b k s
  | .vldb d a k => Sys2Proof.Machine.execVldb d a k s
  | .vst d a k => Sys2Proof.Machine.execVst d a k s
  | .vsts d a b k => Sys2Proof.Machine.execVsts d a b k s
  | .vstsc d a b k => Sys2Proof.Machine.execVstsc d a b k s
  | .vraddF d a k => Sys2Proof.Machine.execVraddF d a k s
  | .vraddI d a k => Sys2Proof.Machine.execVraddI d a k s
  | .vrminF d a k => Sys2Proof.Machine.execVrminF d a k s
  | .vrmaxF d a k => Sys2Proof.Machine.execVrmaxF d a k s
  | .vrminI d a k => Sys2Proof.Machine.execVrminI d a k s
  | .vrmaxI d a k => Sys2Proof.Machine.execVrmaxI d a k s
  | .vrminN d a k => Sys2Proof.Machine.execVrminN d a k s
  | .vrmaxN d a k => Sys2Proof.Machine.execVrmaxN d a k s
  | .vrand d a k => Sys2Proof.Machine.execVrand d a k s
  | .vrior d a k => Sys2Proof.Machine.execVrior d a k s
  | .vrxor d a k => Sys2Proof.Machine.execVrxor d a k s
  | .vscanF d a k => Sys2Proof.Machine.execVscanF d a k s
  | .vperm d a b k => Sys2Proof.Machine.execVperm d a b k s
  | .vsldu d a b k => Sys2Proof.Machine.execVsldu d a b k s
  | .vsldd d a b k => Sys2Proof.Machine.execVsldd d a b k s
  | .vrev d a k => Sys2Proof.Machine.execVrev d a k s
  | .vzip d a b k => Sys2Proof.Machine.execVzip d a b k s
  | .vuzp d a b k => Sys2Proof.Machine.execVuzp d a b k s
  | .vbcast d a b k => Sys2Proof.Machine.execVbcast d a b k s
  | .vcomp d a k => Sys2Proof.Machine.execVcomp d a k s
  | .vmand d a b => Sys2Proof.Machine.execVmand d a b s
  | .vmor d a b => Sys2Proof.Machine.execVmor d a b s
  | .vmxor d a b => Sys2Proof.Machine.execVmxor d a b s
  | .vmnot d a => Sys2Proof.Machine.execVmnot d a s
  | .vmpopc d a => Sys2Proof.Machine.execVmpopc d a s
  | .vmffs d a => Sys2Proof.Machine.execVmffs d a s
  | .vmfromx d a => Sys2Proof.Machine.execVmfromx d a s
  | .vmtox d a => Sys2Proof.Machine.execVmtox d a s
  | .vsetvl d a => Sys2Proof.Machine.execVsetvl d a s
  | .vcvtfi d a k => Sys2Proof.Machine.execVcvtfi d a k s
  | .vcvtfn d a k => Sys2Proof.Machine.execVcvtfn d a k s
  | .vcvtif d a k => Sys2Proof.Machine.execVcvtif d a k s
  | .vcvtnf d a k => Sys2Proof.Machine.execVcvtnf d a k s
  | .venc d a b k => Sys2Proof.Machine.execVenc d a b k s
  | .vdec d a b k => Sys2Proof.Machine.execVdec d a b k s
  | .rgkey a => Sys2Proof.Machine.execRgkey a s
  | .rgctr a b => Sys2Proof.Machine.execRgctr a b s
  | .rggen d k => Sys2Proof.Machine.execRggen d k s
  | .rgskip a b => Sys2Proof.Machine.execRgskip a b s
  | .rgst a => Sys2Proof.Machine.execRgst a s
  | .rgld a => Sys2Proof.Machine.execRgld a s
  | .mclm u => Sys2Proof.Machine.execMclm u s
  | .mrel w e z u => Sys2Proof.Machine.execMrel w e z u s
  | .mfil w e z a3 b => Sys2Proof.Machine.execMfil w e z a3 b s
  | .mfts w e z a3 b => Sys2Proof.Machine.execMfts w e z a3 b s
  | .mma w e z c x y => Sys2Proof.Machine.execMma w e z c x y s
  | .mmat w e z c x y => Sys2Proof.Machine.execMmat w e z c x y s
  | .mopr w e z c x y => Sys2Proof.Machine.execMopr w e z c x y s
  | .mza w e z c => Sys2Proof.Machine.execMza w e z c s
  | .mdrn w e z c b => Sys2Proof.Machine.execMdrn w e z c b s
  | .msetWrite a b => Sys2Proof.Machine.execMsetWrite a b s
  | .msetRead a b => Sys2Proof.Machine.execMsetRead a b s
  | .msetReadClear a b => Sys2Proof.Machine.execMsetReadClear a b s
  | .mwait w => Sys2Proof.Machine.execMwait w s
  | .xcp e t a => Sys2Proof.Machine.execXcp e t a s
  | .xadv e t a => Sys2Proof.Machine.execXadv e t a s
  | .xtlw t a => Sys2Proof.Machine.execXtlw t a s
  | .xtlwTk b => Sys2Proof.Machine.execXtlwTk b s
  | .xfen t a => Sys2Proof.Machine.execXfen t a s
  | .pbinv e a => Sys2Proof.Machine.execPbinv e a s
  | .xmc e t a => Sys2Proof.Machine.execXmc e t a s
  | .xred e t a => Sys2Proof.Machine.execXred e t a s
  | .xat e t a => Sys2Proof.Machine.execXat e t a s
  | .tsz e t a => Sys2Proof.Machine.execTsz e t a s
  | .tsc e t a b => Sys2Proof.Machine.execTsc e t a b s
  | .tscmp e t a b => Sys2Proof.Machine.execTscmp e t a b s
  | .tsf => Sys2Proof.Machine.execTsf s
  | .thb a b => Sys2Proof.Machine.execThb a b s
  | .thu b => Sys2Proof.Machine.execThu b s
  | .prcfg p a => Sys2Proof.Machine.execPrcfg p a s
  | .prput p t a b => Sys2Proof.Machine.execPrput p t a b s
  | .prupd p t a b => Sys2Proof.Machine.execPrupd p t a b s
  | .prdraw p t a b => Sys2Proof.Machine.execPrdraw p t a b s
  | .prwt p t a b => Sys2Proof.Machine.execPrwt p t a b s
  | .prsum p t a => Sys2Proof.Machine.execPrsum p t a s
  | .prclr p => Sys2Proof.Machine.execPrclr p s
  | .sgcfg a => Sys2Proof.Machine.execSgcfg a s
  | .sgcfgRelease a => Sys2Proof.Machine.execSgcfgRelease a s
  | .sginc t a b => Sys2Proof.Machine.execSginc t a b s
  | .sgjoin t a b => Sys2Proof.Machine.execSgjoin t a b s
  | .sglog t a => Sys2Proof.Machine.execSglog t a s
  | .sgrd t a => Sys2Proof.Machine.execSgrd t a s
  | .sgclr t => Sys2Proof.Machine.execSgclr t s
  | .qmopen m a => Sys2Proof.Machine.execQmopen m a s
  | .qmjoin m t a b => Sys2Proof.Machine.execQmjoin m t a b s
  | .qmwait m a => Sys2Proof.Machine.execQmwait m a s
  | .qmrecRead m t a b => Sys2Proof.Machine.execQmrecRead m t a b s
  | .qmrecForce m t a b => Sys2Proof.Machine.execQmrecForce m t a b s
  | .qmexcl m b => Sys2Proof.Machine.execQmexcl m b s
  | .qmclose m => Sys2Proof.Machine.execQmclose m s
  | .csrr d c => Sys2Proof.Machine.execCsrr d c s
  | .csrw d a c => Sys2Proof.Machine.execCsrw d a c s
  | .csrs d a c => Sys2Proof.Machine.execCsrs d a c s
  | .csrc d a c => Sys2Proof.Machine.execCsrc d a c s
  | .trap imm => Sys2Proof.Machine.execTrap imm s
  | .rfe => Sys2Proof.Machine.execRfe s
  | .brk imm => Sys2Proof.Machine.execBrk imm s
  | .pbinva => Sys2Proof.Machine.execPbinva s
  | .wfe imm => Sys2Proof.Machine.execWfe imm s
  | .diag a imm => Sys2Proof.Machine.execDiag a imm s
  | .statWrite f d a => Sys2Proof.Machine.execStatWrite f d a s
  | .abortWrite f d a => Sys2Proof.Machine.execAbortWrite f d a s
  | .abcontWrite f d a => Sys2Proof.Machine.execAbcontWrite f d a s
  | .lensWrite n f d a => Sys2Proof.Machine.execLensWrite n f d a s
  | .frmWrite f d a => Sys2Proof.Machine.execFrmWrite f d a s
  | .fflagsAccess f d a => Sys2Proof.Machine.execFflagsAccess f d a s
  | .vlWrite f d a => Sys2Proof.Machine.execVlWrite f d a s
  | .lwgtWrite f d a => Sys2Proof.Machine.execLwgtWrite f d a s
  | .wspillWrite f d a => Sys2Proof.Machine.execWspillWrite f d a s
  | .wdepthWrite f d a => Sys2Proof.Machine.execWdepthWrite f d a s
  | .xtlWrite n f d a => Sys2Proof.Machine.execXtlWrite n f d a s
  | .pwsizeWrite f d a => Sys2Proof.Machine.execPwsizeWrite f d a s
  | .detstatWrite f d a => Sys2Proof.Machine.execDetstatWrite f d a s
  | .stageWrite f d a => Sys2Proof.Machine.execStageWrite f d a s
  | .launchDoorbell q v => Sys2Proof.Machine.execLaunchDoorbell q v s
  | .adminDoorbell v => Sys2Proof.Machine.execAdminDoorbell v s
  | .swpintWrite v => Sys2Proof.Machine.execSwpintWrite v s
  | .plwaitWrite v => Sys2Proof.Machine.execPlwaitWrite v s
  | .fgapWrite v => Sys2Proof.Machine.execFgapWrite v s
  | .fstatClear v => Sys2Proof.Machine.execFstatClear v s
  | .prQlimWrite die v => Sys2Proof.Machine.execPrQlimWrite die v s
  | .sgQlimWrite die v => Sys2Proof.Machine.execSgQlimWrite die v s
  | .ceConfigWrite die v => Sys2Proof.Machine.execCeConfigWrite die v s
  | .reliabilityStickyClear die v => Sys2Proof.Machine.execReliabilityStickyClear die v s
  | .plimitWrite v => Sys2Proof.Machine.execPlimitWrite v s
  | .deviceRegisterWrite off size v => Sys2Proof.Machine.execDeviceRegisterWrite off size v s
  | .launchCommand q e => Sys2Proof.Machine.execLaunchCommand q e s
  | .placement lnum => Sys2Proof.Machine.execPlacement lnum s
  | .plwaitExpiry lnum => Sys2Proof.Machine.execPlwaitExpiry lnum s
  | .createQueue e => Sys2Proof.Machine.execCreateQueue e s
  | .destroyQueue e => Sys2Proof.Machine.execDestroyQueue e s
  | .mapSpace e => Sys2Proof.Machine.execMapSpace e s
  | .unmapSpace e => Sys2Proof.Machine.execUnmapSpace e s
  | .invalidate e => Sys2Proof.Machine.execInvalidate e s
  | .jobDeclare e pkgs => Sys2Proof.Machine.execJobDeclare e pkgs s
  | .suspend e => Sys2Proof.Machine.execSuspend e s
  | .resume e => Sys2Proof.Machine.execResume e s
  | .drain e => Sys2Proof.Machine.execDrain e s
  | .drainComplete die part => Sys2Proof.Machine.execDrainComplete die part s
  | .testRepair e => Sys2Proof.Machine.execTestRepair e s
  | .testRepairComplete die part usable log => Sys2Proof.Machine.execTestRepairComplete die part usable log s
  | .resumePart e => Sys2Proof.Machine.execResumePart e s
  | .attest e => Sys2Proof.Machine.execAttest e s
  | .formEnclave e members values f => Sys2Proof.Machine.execFormEnclave e members values f s
  | .revoke e => Sys2Proof.Machine.execRevoke e s
  | .window e members => Sys2Proof.Machine.execWindow e members s
  | .unwindow e => Sys2Proof.Machine.execUnwindow e s
  | .periscope e => Sys2Proof.Machine.execPeriscope e s
  | .pick sq => Sys2Proof.Machine.execPick sq s
  | .recordReady grp slot => Sys2Proof.Machine.execRecordReady grp slot s
  | .waitHoldExpiry sq => Sys2Proof.Machine.execWaitHoldExpiry sq s
  | .holdRelease sq => Sys2Proof.Machine.execHoldRelease sq s
  | .spillWriteOut grp => Sys2Proof.Machine.execSpillWriteOut grp s
  | .recordWriteBack sq => Sys2Proof.Machine.execRecordWriteBack sq s
  | .barrierArrival lnum lv unit member ext => Sys2Proof.Machine.execBarrierArrival lnum lv unit member ext s
  | .barrierComplete lnum lv unit => Sys2Proof.Machine.execBarrierComplete lnum lv unit s
  | .computePhaseBegin lnum lv unit => Sys2Proof.Machine.execComputePhaseBegin lnum lv unit s
  | .sweep lnum far => Sys2Proof.Machine.execSweep lnum far s
  | .preemptStop sq => Sys2Proof.Machine.execPreemptStop sq s
  | .asyncTrapEntry sq => Sys2Proof.Machine.execAsyncTrapEntry sq s
  | .stationFault sq => Sys2Proof.Machine.execStationFault sq s
  | .vectorBind tile => Sys2Proof.Machine.execVectorBind tile s
  | .matrixDispatch tile => Sys2Proof.Machine.execMatrixDispatch tile s
  | .matrixRetire sq => Sys2Proof.Machine.execMatrixRetire sq s
  | .copyStart die id => Sys2Proof.Machine.execCopyStart die id s
  | .tokenComplete die id => Sys2Proof.Machine.execTokenComplete die id s
  | .copyPerformed die id => Sys2Proof.Machine.execCopyPerformed die id s
  | .tsOpComplete die id => Sys2Proof.Machine.execTsOpComplete die id s
  | .messageDelivery id => Sys2Proof.Machine.execMessageDelivery id s
  | .prCommandExecute die tree => Sys2Proof.Machine.execPrCommandExecute die tree s
  | .sgCommandExecute grp => Sys2Proof.Machine.execSgCommandExecute grp s
  | .qmContributionArrival grp meeting c => Sys2Proof.Machine.execQmContributionArrival grp meeting c s
  | .qmResultArrival grp meeting tag vals => Sys2Proof.Machine.execQmResultArrival grp meeting tag vals s
  | .packetWrite p => Sys2Proof.Machine.execPacketWrite p s
  | .packetReadRequest p => Sys2Proof.Machine.execPacketReadRequest p s
  | .packetReadData p => Sys2Proof.Machine.execPacketReadData p s
  | .packetAtomic p => Sys2Proof.Machine.execPacketAtomic p s
  | .packetAtomicReturn p => Sys2Proof.Machine.execPacketAtomicReturn p s
  | .packetReductionContribution p => Sys2Proof.Machine.execPacketReductionContribution p s
  | .packetAcknowledgement p busy outcome => Sys2Proof.Machine.execPacketAcknowledgement p busy outcome s
  | .packetControl p => Sys2Proof.Machine.execPacketControl p s
  | .orderedFlagPerform src ctx => Sys2Proof.Machine.execOrderedFlagPerform src ctx s
  | .ackTimeout die ctx dst oseq => Sys2Proof.Machine.execAckTimeout die ctx dst oseq s
  | .windowDelivery win round closed => Sys2Proof.Machine.execWindowDelivery win round closed s
  | .jobAnnounce pkg job space => Sys2Proof.Machine.execJobAnnounce pkg job space s
  | .flitCrcError f => Sys2Proof.Machine.execFlitCrcError f s
  | .linkDown port => Sys2Proof.Machine.execLinkDown port s
  | .keepAlive b => Sys2Proof.Machine.execKeepAlive b s
  | .creditReturn port vc hop total => Sys2Proof.Machine.execCreditReturn port vc hop total s
  | .keyRotation domain gen excluded secret => Sys2Proof.Machine.execKeyRotation domain gen excluded secret s
  | .generationRetire domain => Sys2Proof.Machine.execGenerationRetire domain s
  | .revokeHalt domain => Sys2Proof.Machine.execRevokeHalt domain s
  | .getVersion r => Sys2Proof.Machine.execGetVersion r s
  | .getCapabilities r => Sys2Proof.Machine.execGetCapabilities r s
  | .negotiateAlgorithms r => Sys2Proof.Machine.execNegotiateAlgorithms r s
  | .getDigests r => Sys2Proof.Machine.execGetDigests r s
  | .getCertificate r => Sys2Proof.Machine.execGetCertificate r s
  | .challenge r => Sys2Proof.Machine.execChallenge r s
  | .getMeasurements r => Sys2Proof.Machine.execGetMeasurements r s
  | .keyExchange r => Sys2Proof.Machine.execKeyExchange r s
  | .finish r => Sys2Proof.Machine.execFinish r s
  | .keyUpdate r => Sys2Proof.Machine.execKeyUpdate r s
  | .endSession r => Sys2Proof.Machine.execEndSession r s
  | .unsupportedRequest r => Sys2Proof.Machine.execUnsupportedRequest r s
  | .tdiError fn => Sys2Proof.Machine.execTdiError fn s
  | .powerOn b => Sys2Proof.Machine.execPowerOn b s
  | .epochTick => Sys2Proof.Machine.execEpochTick s
  | .powerMeasure milliwatts => Sys2Proof.Machine.execPowerMeasure milliwatts s
  | .junctionOvertemp => Sys2Proof.Machine.execJunctionOvertemp s
  | .thermalPowerOff belowLimit => Sys2Proof.Machine.execThermalPowerOff belowLimit s
  | .correctedError die loc second spare => Sys2Proof.Machine.execCorrectedError die loc second spare s
  | .patrolRead unit => Sys2Proof.Machine.execPatrolRead unit s
  | .wfeTimeout sq => Sys2Proof.Machine.execWfeTimeout sq s
  | .illegalInstruction w => Sys2Proof.Machine.execIllegalInstruction w s
  | .qmCommandExecute grp meeting => Sys2Proof.Machine.execQmCommandExecute grp meeting s
  | .tdispLock fn => Sys2Proof.Machine.execTdispLock fn s
  | .tdispRun fn => Sys2Proof.Machine.execTdispRun fn s
  | .ideKm stream session key => Sys2Proof.Machine.execIdeKm stream session key s
  | .adminUnknownOp e => Sys2Proof.Machine.execAdminUnknownOp e s

end Sys2Proof.Machine
end

