-- ==== Sys2Proof/Machine/Fetch.lean ====
section
/-! DEFINITION. Fetching an instruction (11 R106), breakpoints (35 R345), and the passing of clk. -/

namespace Sys2Proof.Machine

/-- A fetch fault: EPC and BADADDR are the PC, BADINST is 0 (R106). -/
def fetchTrap (s : State) (code : Nat) : Trap := { code := code, addr := some s.pc, inst := some 0#32 }

/-- A word of a launch's text as it was in place at placement (11 R107). -/
def Launch.textWord (x : Launch) (a : Word) : Option (BitVec 32) :=
  let o := a.toNat - x.textBase.toNat
  if a.toNat < x.textBase.toNat then none
  else (x.text.find? (fun p => decide (p.1 ≤ o) && decide (o + 4 ≤ p.1 + p.2.length))).map (fun p =>
    BitVec.ofNat 32 (leNat ((p.2.drop (o - p.1)).take 4)))

/-- The word at the PC, from the translated range under the launch's space: the one that placement found, and where the host has rewritten
some byte of it, that or the one in memory, by a free choice of each fetch (11 R107, log 164). -/
def fetchWord (s : State) : Except Trap (BitVec 32 × State) :=
  match regionOf s.pc.toNat with
  | .xlat =>
    match s.translate s.die s.launch.space s.pc.toNat with
    | .error e => .error (fetchTrap s (e.cause .fetch))
    | .ok (leaf, pa, s') =>
      if !s.allows s.launch.space s.pc.toNat leaf .fetch then .error (fetchTrap s 0x0B)
      else if physKind s.form pa ≠ some .dev ∧ s.isBad pa 4 then .error (fetchTrap s 0x14)
      else
        let now := BitVec.ofNat 32 (if physKind s.form pa = some .dev then devReadN s pa 4 else s.peekNat pa 4)
        match s.launch.textWord s.pc with
        | none => .ok (now, s')
        | some w =>
          if !(range pa 4).any s.rewritten.contains then .ok (w, s')
          else .ok (if Config.fetchesNew s'.free then now else w, { s' with free := s'.free + 1 })
  | _ => .error (fetchTrap s 0x05)

/-- The lowest enabled breakpoint that matches the PC in user mode (R345). -/
def breakpoint (s : State) : Option Nat :=
  if s.runtime || s.q.k.noBreak then none
  else (List.range 4).find? (fun i =>
    let b := s.csr (0x220 + i)
    bit b 0 && bits b 55 2 == bits s.pc 55 2 && bits s.pc 63 56 == 0)

/-- A clk passes, and as many more as the schedule lets pass (05 R382, log 3). -/
def tick (s : State) : State := { s with clk := s.clk + 1 + Config.clkGap s.clk }

end Sys2Proof.Machine
end

