-- ==== Sys2Proof/Machine/Auto.lean ====
section
/-! DEFINITION. What happens when the agenda names nothing (log 1): the focused sequencer goes on while it can; when it is held or idle,
and at every 64th clk, a step of the machine that is enabled is taken, and then the focus moves on. -/

namespace Sys2Proof.Machine

/-- The first of some steps that is enabled. -/
def firstNext (s : State) (xs : List (State → Res)) : Option Res :=
  xs.findSome? (fun f => match f s with
    | .next t => some (.next t)
    | _ => none)

namespace State

/-- What the focused sequencer does before its next instruction: a pending fault, a pre-emption, its tile's vector queues. -/
def focusedSteps (s : State) : List (State → Res) :=
  let sq := BitVec.ofNat 16 s.cur
  [execStationFault sq, execAsyncTrapEntry sq, execPreemptStop sq]
  ++ (if (List.range 3).any (fun r => !(s.seqAt (3 * s.tile + r)).vq.isEmpty) then [execVectorBind (BitVec.ofNat 14 s.tile)] else [])

def dieSteps (s : State) : List (State → Res) :=
  s.dies.flatMap (fun (d : Nat × Die) =>
    let n := BitVec.ofNat 3 d.1
    d.2.copies.flatMap (fun c => [execCopyStart n c.id, execTokenComplete n c.id, execCopyPerformed n c.id, execTsOpComplete n c.id])
    ++ d.2.everyTree.map (fun (t : Nat × Tree) => execPrCommandExecute n (BitVec.ofNat 2 t.1)))

def seqSteps (s : State) : List (State → Res) :=
  s.everySeq.flatMap (fun (p : Nat × Seq) =>
    let sq := BitVec.ofNat 16 p.1
    let t := BitVec.ofNat 14 (tileOf p.1)
    (if p.2.mq.isEmpty then [] else [execMatrixRetire sq, execMatrixDispatch t])
    ++ (if p.2.vq.isEmpty then [] else [execVectorBind t])
    ++ (match p.2.mode with
      | .writeBack _ => [execRecordWriteBack sq]
      | _ => []))

def groupSteps (s : State) : List (State → Res) :=
  s.groups.flatMap (fun (g : Nat × Group) =>
    let n := BitVec.ofNat 10 g.1
    [execSpillWriteOut n, execSgCommandExecute n]
    ++ g.2.meet.map (fun (m : Nat × Meeting) => execQmCommandExecute n (BitVec.ofNat 4 m.1))
    ++ g.2.side.map (fun (x : Nat × Side) => execRecordReady n (BitVec.ofNat 8 x.1)))

def pickSteps (s : State) : List (State → Res) :=
  s.groups.flatMap (fun (g : Nat × Group) =>
    let roles := (g.2.side.filter (fun (x : Nat × Side) => s.recState g.1 x.1 == 1)).map (fun (x : Nat × Side) => s.recRole g.1 x.1)
    if roles.isEmpty then []
    else ((range (48 * g.1) 48).filter (fun sq => roles.contains (roleOf sq) && s.seqFree sq)).map (fun sq => execPick (BitVec.ofNat 16 sq)))

/-- Barrier steps of units that still hold a continuation. -/
def barrierSteps (s : State) : List (State → Res) :=
  s.launches.flatMap (fun (p : Nat × Launch) =>
    let l := BitVec.ofNat 16 p.1
    let gs := ((p.2.foot.map grpOf).dedup).filter (fun g => (s.groupAt g).side.any (fun (x : Nat × Side) => s.recState g x.1 != 0 && s.recLnum g x.1 == p.1))
    (List.range 4).flatMap (fun i =>
      let lv := BitVec.ofNat 2 i
      ((gs.map (unitOf (fieldLevel lv))).dedup).flatMap (fun u =>
        let un := BitVec.ofNat 10 u
        (s.unitMembers p.1 (fieldLevel lv) u).map (fun m => execBarrierArrival l lv un (BitVec.ofNat 11 m) none)
        ++ (if fieldLevel lv = .pod then
            [execBarrierArrival l lv un (BitVec.ofNat 11 s.index) (some { arrived := false, value := 0, code := 0 })] else [])
        ++ [execBarrierComplete l lv un, execComputePhaseBegin l lv un])))

/-- The steps of the machine that may be taken when the focused sequencer cannot go on. -/
def machineSteps (s : State) : List (State → Res) :=
  s.seqSteps ++ s.dieSteps ++ s.msgs.map (fun m => execMessageDelivery m.id) ++ s.groupSteps ++ s.barrierSteps
  ++ s.srcs.map (fun (x : Nat × SrcCtx) => execOrderedFlagPerform (BitVec.ofNat 16 (x.1 / 65536)) (BitVec.ofNat 16 x.1))
  ++ s.pickSteps ++ s.accepted.map (fun l => execPlacement (BitVec.ofNat 16 l)) ++ [execEpochTick]

/-- The sequencers after the focused one, in rotation, go on or have their hold tried again. -/
def turnSteps (s : State) : List (State → Res) :=
  let after := s.seqs.filter (fun p => decide (s.cur < p.1))
  let before := s.seqs.filter (fun p => decide (p.1 < s.cur))
  (after ++ before ++ [(s.cur, s.q)]).filterMap (fun (p : Nat × Seq) =>
    if p.2.mode ≠ .run then none
    else if Hold.goesOn p.2.hold then some (fun s => .next (s.focusOn p.1))
    else some (execHoldRelease (BitVec.ofNat 16 p.1)))
  ++ s.everySeq.map (fun (p : Nat × Seq) => execWaitHoldExpiry (BitVec.ofNat 16 p.1))

/-- Launches that may have ended are swept last. -/
def sweepSteps (s : State) : List (State → Res) :=
  (s.launches.filter (fun (p : Nat × Launch) => !p.2.pods && s.launchIdle p.1)).map (fun (p : Nat × Launch) => execSweep (BitVec.ofNat 16 p.1) none)

end State

/-- The machine's own next step, if one is due. -/
def autoStep (s : State) : Option Res :=
  match firstNext s s.focusedSteps with
  | some r => some r
  | none =>
    if s.q.mode = .run ∧ Hold.goesOn s.q.hold then
      (if s.clk % 64 = 0 then
        firstNext s (s.machineSteps ++ s.everySeq.map (fun (p : Nat × Seq) => execWaitHoldExpiry (BitVec.ofNat 16 p.1)) ++ s.turnSteps)
      else none)
    else firstNext s (s.machineSteps ++ s.turnSteps ++ s.sweepSteps)

end Sys2Proof.Machine
end

