-- ==== Sys2Proof/Machine/Step.lean ====
section
/-! DEFINITION. One step of the machine, and the placing of an instruction where the next step fetches it. -/

namespace Sys2Proof.Machine

/-- The focused sequencer takes the asynchronous cause that is pending at this boundary (35 R332), or stops there when it has been asked to
(05 R63, 35 R341), or executes one instruction: fetch, breakpoints, decode, effect (11 R120). -/
noncomputable def runStep (s : State) : Host.Outcome State Fault Refusal :=
  if s.q.mode = .run then
    if s.q.k.pend.isSome then .next s.abandon.takePending
    else if s.q.stop then .next s.stopNow
    else match fetchWord s with
    | .error t => trapR s t
    | .ok (w, s') =>
      match breakpoint s' with
      | some n => trapR s' { code := 0x12, info := n, hwbp := true }
      | none =>
        match decode w with
        | .error _ => exec (.illegalInstruction w) s'
        | .ok i => exec i s'
  else .next s

/-- One step: the next event of the agenda, else what is due by itself, else the focused sequencer's next instruction. -/
noncomputable def step (s : State) : Host.Outcome State Fault Refusal :=
  if !s.powered then .fault .powerOff
  else
    match s.agenda with
    | .ev i :: r => exec i (tick { s with agenda := r })
    | .focus sq :: r => .next ((tick { s with agenda := r }).focusOn sq)
    | .run :: r => runStep (tick { s with agenda := r })
    | [] =>
      match autoStep (tick s) with
      | some r => r
      | none => runStep (tick s)

/-- Where a placed program of the model stands: its first instruction, and its page tables in HBM4. -/
def fetchPc : Word := 0x0000010000000000#64

/-- The launch that stands for a load (log 5). -/
def fetchLaunch : Launch := { State.Launch.empty with space := 1, foot := [0], textBase := fetchPc, textSize := 65536 }

/-- Page tables of space 1 at HBM4 0x100000, one 64 KiB page at 0x200000 with read, write and execute, and the instruction there. -/
def fetchPages (s : State) (w : Nat) : State :=
  ((((s.poke 0x100010 (leBytes 8 0x220001)).poke 0x220000 (leBytes 8 0x230001)).poke 0x230000 (leBytes 8 0x240001)).poke
    0x240000 (leBytes 8 0x20001F)).poke 0x200000 (leBytes 8 w)

/-- The continuation that runs it: a placed record's start (13 R123, 35 R343), its launch 1. -/
def fetchCont : Cont :=
  { Cont.reset with pc := fetchPc, lnum := 1, csr := put (put Cont.reset.csr 0x005 fetchPc) 0x031 0x0000010000001000#64 }

/-- The state with an instruction stored where the next step fetches it, and a launch whose text holds it running (log 5). -/
def State.withFetchWord (s : State) (nbits w : Nat) : State :=
  let s := fetchPages s (w % 2 ^ nbits)
  { s with
    q := { s.q with mode := .run, k := fetchCont, hold := none, stop := false },
    dies := s.dies.map (fun d => (d.1, { d.2 with tlb := d.2.tlb.filter (fun e => e.space != 1) })),
    launches := ins s.launches 1 fetchLaunch,
    spaces := ins s.spaces 1 { root := 0x100000, parts := 0, bytes := 0 },
    bootStep := 8, powered := true, agenda := [.run] }

end Sys2Proof.Machine
end

