-- ==== Sys2Proof/Safety.lean ====
section
/-! DEFINITION. What counts as a run that goes on, and the invariant of a package that statements use. -/

namespace Sys2Proof.Machine

/-- A step that goes on: it answers a next state. -/
def Goes (r : Res) : Prop := ∃ t, r = .next t

/-- Every step of a run from a state goes on. -/
def Safe (n : Nat) (s : State) : Prop := ∀ k, k ≤ n → Goes (Sys2Proof.core.run k s)

end Sys2Proof.Machine
end

