-- ==== Sys2Proof/Certificates/Slice0/Obligations.lean ====
section
/-! DEFINITION. The statements for the provers, and the predicates that they use. -/

namespace Sys2Proof.Spec
open Sys2Proof.Machine

/-! ## What an instruction leaves alone -/

/-- The state after an instruction that writes `v` to scalar register `d` (a write to x0 is discarded, 11 R109) and goes on at `pc`.
INSTRET counts it (35 R337). Every other register, flag, special register, accumulator, exception register and byte of memory, and every
other sequencer, is as it was. -/
structure WritesOnly (s t : State) (d : BitVec 5) (v pc : Word) : Prop where
  value : d ≠ 0#5 → t.x d = v
  zero : t.x 0#5 = 0#64
  others : ∀ r, r ≠ d → t.x r = s.x r
  next : t.pc = pc
  counted : t.csr 0x015 = s.csr 0x015 + 1
  csrs : ∀ n, n ≠ 0x015 → t.csr n = s.csr n
  memory : ∀ a, look t.mem a = look s.mem a
  rest : t = { s with q := { s.q with hold := none, k := { s.q.k with
    pc := pc, gpr := t.q.k.gpr, csr := t.q.k.csr, noBreak := false } } }

/-- The instruction completes from every state: it writes `v` to `d`, and the next PC is PC + 4 (11 R106). -/
def Computes (i : Instr) (d : BitVec 5) (v : State → Word) : Prop :=
  ∀ s, ∃ t, exec i s = .next t ∧ WritesOnly s t d (v s) (s.pc + 4)

/-- The instruction completes from every state: it writes no register, and goes on at `pc`. -/
def GoesTo (i : Instr) (pc : State → Word) : Prop := ∀ s, ∃ t, exec i s = .next t ∧ WritesOnly s t 0#5 0#64 (pc s)

/-- The low 32 bits of a word, and a 32-bit result extended by its sign. -/
def low (v : Word) : BitVec 32 := v.setWidth 32
def wide (v : BitVec 32) : Word := v.signExtend 64
/-- Bits [hi:lo] of a word, as a number. -/
def field (v : Word) (hi lo : Nat) : Nat := (v.extractLsb hi lo).toNat
/-- 1 where a condition holds, else 0. -/
def flag (p : Prop) [Decidable p] : Word := if p then 1#64 else 0#64

/-- The state after a trap whose entry is not fatal (35 R331): STAT, CAUSE, EPC, BADADDR, BADINST and ESTAT as given, MODE and INTRAP set,
and the PC at the handler, TVEC.BASE times 4. `n`: whether the instruction counts as retired. Nothing else changes but a periscope record
that the host asked for. -/
structure TrapTaken (s t : State) (cause epc bad inst n : Word) : Prop where
  stat : t.csr 0x000 = s.csr 0x000 ||| 9#64
  saved : t.csr 0x201 = s.csr 0x000
  cause : t.csr 0x001 = cause
  epc : t.csr 0x002 = epc
  bad : t.csr 0x004 = bad
  inst : t.csr 0x003 = inst
  handler : t.pc = 4 * BitVec.ofNat 64 (field (s.csr 0x005) 55 2)
  counted : t.csr 0x015 = s.csr 0x015 + n
  registers : ∀ r, t.x r = s.x r
  csrs : ∀ m, m ∉ [0x000, 0x001, 0x002, 0x003, 0x004, 0x015, 0x201] → t.csr m = s.csr m
  memory : ∀ a, look t.mem a = look s.mem a
  rest : t = { s with scopeLog := t.scopeLog, q := { s.q with hold := none, k := { s.q.k with
    pc := t.q.k.pc, csr := t.q.k.csr, noBreak := false } } }

/-- A trap is not fatal: the launch has a handler, and none runs (35 R333). -/
def HasHandler (s : State) : Prop := field (s.csr 0x005) 55 2 ≠ 0 ∧ (s.csr 0x000).getLsbD 3 = false

/-- The instruction takes a precise trap with a failing address and has no other effect. -/
def TrapsAt (i : Instr) (s : State) (code bad : Word) : Prop :=
  ∃ t, exec i s = .next t ∧ TrapTaken s t code s.pc bad (s.csr 0x003) 0#64

/-- The instruction takes a precise trap that reports its word, and has no other effect (35 R332: causes 0x01, 0x03, 0x0D). -/
def TrapsWord (i : Instr) (s : State) (code : Word) (w : BitVec 32) : Prop :=
  ∃ t, exec i s = .next t ∧ TrapTaken s t code s.pc (s.csr 0x004) (w.setWidth 64) 0#64

/-- The instruction takes a precise trap that reports neither address nor word. -/
def TrapsPlain (i : Instr) (s : State) (code : Word) : Prop := TrapsAt i s code (s.csr 0x004)

/-- All but the PC, the general registers, the resident windows, WP and INSTRET are as they were. -/
structure WindowMove (s t : State) : Prop where
  globals : ∀ r : BitVec 5, r.toNat < 8 → t.x r = s.x r
  counted : t.csr 0x015 = s.csr 0x015 + 1
  csrs : ∀ n, n ≠ 0x015 → n ≠ 0x030 → t.csr n = s.csr n
  memory : ∀ a, look t.mem a = look s.mem a
  rest : t = { s with q := { s.q with hold := none, k := { s.q.k with
    pc := t.q.k.pc, gpr := t.q.k.gpr, wins := t.q.k.wins, csr := t.q.k.csr, noBreak := false } } }

/-- The window that a CALL at call depth D opens (13 R141), from a state with a resident window to spare: the caller's i0-i5 and l0-l11
stay resident at depth D. -/
structure Opened (s t : State) (target : Word) extends WindowMove s t where
  pc : t.pc = target
  depth : field (t.csr 0x030) 15 0 = field (s.csr 0x030) 15 0 + 1
  resident : field (t.csr 0x030) 19 16 = field (s.csr 0x030) 19 16 + 1
  ins : ∀ n, n < 5 → t.x (BitVec.ofNat 5 (8 + n)) = s.x (BitVec.ofNat 5 (26 + n))
  link : t.x 13#5 = s.pc + 4
  locals : ∀ n, n < 12 → t.x (BitVec.ofNat 5 (14 + n)) = 0#64
  outs : ∀ n, n < 6 → t.x (BitVec.ofNat 5 (26 + n)) = 0#64
  caller : ∀ n, n < 18 → look t.q.k.wins (32 * field (s.csr 0x030) 15 0 + (8 + n)) = s.x (BitVec.ofNat 5 (8 + n))

/-- The window that a RET closes (13 R142), the caller being resident: its i0-i5 and l0-l11 return, and the callee's i0-i5 become q0-q5. -/
structure Closed (s t : State) extends WindowMove s t where
  pc : t.pc = s.x 13#5
  depth : field (t.csr 0x030) 15 0 + 1 = field (s.csr 0x030) 15 0
  resident : field (t.csr 0x030) 19 16 + 1 = field (s.csr 0x030) 19 16
  results : ∀ n, n < 6 → t.x (BitVec.ofNat 5 (26 + n)) = s.x (BitVec.ofNat 5 (8 + n))
  caller : ∀ n, n < 18 →
    t.x (BitVec.ofNat 5 (8 + n)) = look s.q.k.wins (32 * (field (s.csr 0x030) 15 0 - 1) + (8 + n))

/-- The instructions and rows of the table that access a control and status register: how, rd, ra and the register's number. -/
inductive Access : Instr → CsrFn → BitVec 5 → BitVec 5 → Nat → Prop
  | csrr (d c) : Access (.csrr d c) .read d 0#5 c.toNat
  | csrw (d a c) : Access (.csrw d a c) .write d a c.toNat
  | csrs (d a c) : Access (.csrs d a c) .set d a c.toNat
  | csrc (d a c) : Access (.csrc d a c) .clear d a c.toNat
  | stat (f d a) : Access (.statWrite f d a) f d a 0x000
  | abort (f d a) : Access (.abortWrite f d a) f d a 0x060
  | abcont (f d a) : Access (.abcontWrite f d a) f d a 0x062
  | lens (n : BitVec 3) (f d a) : Access (.lensWrite n f d a) f d a (0x08F + n.toNat)
  | frm (f d a) : Access (.frmWrite f d a) f d a 0x008
  | fflags (f d a) : Access (.fflagsAccess f d a) f d a 0x007
  | vl (f d a) : Access (.vlWrite f d a) f d a 0x020
  | lwgt (f d a) : Access (.lwgtWrite f d a) f d a 0x021
  | wspill (f d a) : Access (.wspillWrite f d a) f d a 0x031
  | wdepth (f d a) : Access (.wdepthWrite f d a) f d a 0x032
  | xtl (n : BitVec 3) (f d a) : Access (.xtlWrite n f d a) f d a (0x0B0 + n.toNat)
  | pwsize (f d a) : Access (.pwsizeWrite f d a) f d a 0x081
  | detstat (f d a) : Access (.detstatWrite f d a) f d a 0x040
  | stage (f d a) : Access (.stageWrite f d a) f d a 0x011

/-- The value that an access leaves, before the rules of the register (35 R339). -/
def newValue (f : CsrFn) (old x : Word) : Word :=
  match f with
  | .read => old
  | .write => x
  | .set => old ||| x
  | .clear => old &&& ~~~x

/-- The word of a CSR instruction (35 R338). -/
def csrWord (f : CsrFn) (d a : BitVec 5) (n : Nat) : BitVec 32 :=
  let fn : Nat := match f with
    | .read => 0
    | .write => 1
    | .set => 2
    | .clear => 3
  BitVec.ofNat 32 (0x30 * 2 ^ 26 + d.toNat * 2 ^ 21 + a.toNat * 2 ^ 16 + fn * 2 ^ 10 + n)

/-- A CSR write that completes: rd takes the old value, the register reads `new` from then on, and no other register, flag or byte of memory
changes. -/
structure WritesCsr (s t : State) (d : BitVec 5) (n : Nat) (old new : Word) : Prop where
  value : d ≠ 0#5 → t.x d = old
  others : ∀ r, r ≠ d → t.x r = s.x r
  next : t.pc = s.pc + 4
  reads : t.readCsr n = new
  counted : n ≠ 0x015 → t.csr 0x015 = s.csr 0x015 + 1
  csrs : ∀ m, m ≠ n → m ≠ 0x015 → t.csr m = s.csr m
  memory : ∀ a, look t.mem a = look s.mem a

/-- Registers that either mode writes, with the bits they have, where no further rule limits the value (35 R336). -/
def freelyWritten : List (Nat × Word) :=
  (List.range 6).map (fun i => (0x050 + i, 0xFFFFFFFF#64)) ++ (List.range 7).map (fun i => (0x098 + i, 0x0001FFFF0001FFFF#64))

/-- Registers that runtime mode writes, with the bits they have, where no further rule limits the value (35 R330, R336, R345). -/
def runtimeWritten : List (Nat × Word) :=
  [(0x001, 0x3FF03FF#64), (0x002, ~~~3#64), (0x003, 0xFFFFFFFF#64), (0x004, ~~~0#64), (0x005, 0x00FFFFFFFFFFFFFC#64), (0x006, ~~~0#64)] ++ (List.range 4).map (fun i => (0x220 + i, 0x00FFFFFFFFFFFFFD#64))

/-- Registers that no instruction writes (35 R336). -/
def readOnlyCsrs : List Nat := [0x010, 0x012, 0x013, 0x030, 0x061, 0x070, 0x071, 0x072, 0x073, 0x080, 0x0C0, 0x210, 0x211]
/-- Registers that user mode may read and not write (35 R336). -/
def guardedCsrs : List Nat :=
  [0x001, 0x002, 0x003, 0x004, 0x011, 0x014, 0x015, 0x031, 0x032, 0x041, 0x062] ++ (List.range 16).map (0x100 + ·)
/-- Registers that user mode may not access (35 R336). -/
def hiddenCsrs : List Nat := [0x005, 0x006, 0x200, 0x201, 0x210, 0x211, 0x220, 0x221, 0x222, 0x223]

/-- No drain of the continuation stands in a matrix buffer, on any sequencer (17 R181). -/
def NoDrains (s : State) : Prop := ∀ p ∈ s.everySeq, p.2.drains s.q.k.party = false

/-- The sequencer is in runtime mode (35 R329). -/
def Runtime (s : State) : Prop := (s.csr 0x000).getLsbD 0 = true

/-- An instruction that completes: `v` goes to register d; PC + 4 follows; no other register, no flag, no special register, no byte of memory and
no staged store changes. -/
structure Steps (s t : State) (d : BitVec 5) (v : Word) : Prop where
  value : d ≠ 0#5 → t.x d = v
  zero : t.x 0#5 = 0#64
  others : ∀ r, r ≠ d → t.x r = s.x r
  next : t.pc = s.pc + 4
  counted : t.csr 0x015 = s.csr 0x015 + 1
  csrs : ∀ n, n ≠ 0x015 → t.csr n = s.csr n
  memory : ∀ a, look t.mem a = look s.mem a
  staged : t.staged = s.staged

/-- An access that completes and stores `n` bytes of `v` from key `key` at once; `v'` goes to register d. Every byte of memory outside the
stored bytes reads as before. -/
structure Stores (s t : State) (key n v : Nat) (d : BitVec 5) (v' : Word) : Prop where
  stored : leNat ((List.range n).map (fun i => look t.mem (key + i))) = v % 2 ^ (8 * n)
  elsewhere : ∀ a, a < key ∨ key + n ≤ a → look t.mem a = look s.mem a
  value : d ≠ 0#5 → t.x d = v'
  others : ∀ r, r ≠ d → t.x r = s.x r
  next : t.pc = s.pc + 4
  counted : t.csr 0x015 = s.csr 0x015 + 1
  csrs : ∀ m, m ≠ 0x015 → t.csr m = s.csr m
  staged : t.staged = s.staged

/-- The address of a load or store of n bytes: X(ra) + offset14 times n (23 R215). -/
def address (s : State) (a : BitVec 5) (o : BitVec 14) (n : Nat) : Word := s.x a + o.signExtend 64 * BitVec.ofNat 64 n

/-- A byte under staged stores, the youngest first: that of the youngest which holds it, or a half of it over the older ones (21 R203, 07 R78). -/
def newest : List Staged → Nat → Byte → Byte
  | [], _, old => old
  | e :: older, key, old =>
    match e.bytes[key - e.key]? with
    | some b =>
      if e.key ≤ key then
        match e.nib with
        | none => b
        | some true => (b &&& 0xF0#8) ||| (newest older key old &&& 0x0F#8)
        | some false => (newest older key old &&& 0xF0#8) ||| (b &&& 0x0F#8)
      else newest older key old
    | none => newest older key old
/-- A byte as the running continuation's plain loads find it. -/
def seen (s : State) (key : Nat) : Byte := newest (s.staged.filter (fun e => e.party == s.q.k.party)).reverse key (look s.mem key)

/-- The part of a device register's doubleword that an access of n bytes at an offset covers: its low or its high word, or all of it, and its number
in the host's write (19 R194). -/
def part (w : Word) (off n : Nat) : Nat := if n = 8 then w.toNat else if off % 8 = 4 then field w 63 32 else field w 31 0
def partSize (off n : Nat) : DevSize := if n = 8 then .dword else if off % 8 = 4 then .wordHigh else .wordLow

/-- An access of n bytes at a device register's offset completes and writes v there: the registers become what the host's write of the same part leaves
(19 R194). Nothing is staged, and no byte of memory changes; `v'` goes to register d. -/
structure WritesRegister (s u t : State) (off n v : Nat) (d : BitVec 5) (v' : Word) : Prop where
  host : ∃ h, exec (.deviceRegisterWrite (BitVec.ofNat 32 (off / 8 * 8)) (partSize off n) (BitVec.ofNat 64 (v % 2 ^ (8 * n)))) u = .next h ∧ t.dev = h.dev ∧ t.dies = h.dies
  memory : ∀ a, look t.mem a = look s.mem a
  staged : t.staged = s.staged
  value : d ≠ 0#5 → t.x d = v'
  others : ∀ r, r ≠ d → t.x r = s.x r
  next : t.pc = s.pc + 4
  counted : t.csr 0x015 = s.csr 0x015 + 1
  csrs : ∀ m, m ≠ 0x015 → t.csr m = s.csr m

/-- The loads, with their size and how they extend (23 R215). -/
inductive LoadForm : (BitVec 5 → BitVec 5 → BitVec 14 → Instr) → Nat → (Nat → Word) → Prop
  | ldb : LoadForm .ldb 1 (fun v => (BitVec.ofNat 8 v).signExtend 64)
  | ldh : LoadForm .ldh 2 (fun v => (BitVec.ofNat 16 v).signExtend 64)
  | ldw : LoadForm .ldw 4 (fun v => (BitVec.ofNat 32 v).signExtend 64)
  | ldbz : LoadForm .ldbz 1 (fun v => (BitVec.ofNat 8 v).setWidth 64)
  | ldhz : LoadForm .ldhz 2 (fun v => (BitVec.ofNat 16 v).setWidth 64)
  | ldwz : LoadForm .ldwz 4 (fun v => (BitVec.ofNat 32 v).setWidth 64)
  | ldd : LoadForm .ldd 8 (fun v => BitVec.ofNat 64 v)

/-- The stores, with their size (23 R215). -/
inductive StoreForm : (BitVec 5 → BitVec 5 → BitVec 14 → Instr) → Nat → Prop
  | stb : StoreForm .stb 1
  | sth : StoreForm .sth 2
  | stw : StoreForm .stw 4
  | std : StoreForm .std 8

/-- The atomics, with what they store of n bytes: the old value and X(rb) (23 R220). AMOCAS stands apart. -/
inductive AtomicForm : (BitVec 5 → BitVec 5 → BitVec 5 → BitVec 2 → BitVec 3 → BitVec 1 → Instr) → (Nat → Nat → Nat → Nat) → Prop
  | add : AtomicForm .amoadd (fun _ o b => o + b)
  | and : AtomicForm .amoand (fun _ o b => Nat.land o b)
  | or : AtomicForm .amoor (fun _ o b => Nat.lor o b)
  | xor : AtomicForm .amoxor (fun _ o b => Nat.xor o b)
  | smin : AtomicForm .amosmin (fun n o b => if (BitVec.ofNat (8 * n) o).toInt ≤ (BitVec.ofNat (8 * n) b).toInt then o else b)
  | smax : AtomicForm .amosmax (fun n o b => if (BitVec.ofNat (8 * n) o).toInt ≤ (BitVec.ofNat (8 * n) b).toInt then b else o)
  | nmin : AtomicForm .amonmin (fun _ o b => min o b)
  | nmax : AtomicForm .amonmax (fun _ o b => max o b)
  | swap : AtomicForm .amoswap (fun _ _ b => b)
  | fadd : AtomicForm .amofadd (fun n o b =>
      if n = 4 then (add32 .rne false (BitVec.ofNat 32 o) (BitVec.ofNat 32 b)).1.toNat
      else (add64 (BitVec.ofNat 64 o) (BitVec.ofNat 64 b)).toNat)

/-- Bytes of a signal access or atomic, and its result: 4 sign-extended, or 8 (23 R217, R219). -/
def signalSize (z : BitVec 1) : Nat := if z = 0#1 then 4 else 8
def signalResult (z : BitVec 1) (v : Nat) : Word := if z = 0#1 then (BitVec.ofNat 32 v).signExtend 64 else BitVec.ofNat 64 v

/-- No access of the continuation waits before this one: no vector store is queued, and no station holds one. -/
def NothingAhead (s : State) : Prop := s.vectorStores = false ∧ s.stationHeld = false

/-- The channel of the continuation's set on its home tile, with its filled and free counts and its slot count (03 R43). -/
def channel (s : State) (c : BitVec 3) : Chan := s.chan c
/-- A dispenser of the continuation's set in its group: the store keys of next-ticket and now-serving (23 R229). -/
def nextTicket (s : State) (a : BitVec 5) : BitVec 48 := look (s.groupAt s.grp).tick (2 * field (s.x a) 5 0 + if s.q.k.sec then 128 else 0)
def nowServing (s : State) (a : BitVec 5) : BitVec 48 := look (s.groupAt s.grp).tick (2 * field (s.x a) 5 0 + 1 + if s.q.k.sec then 128 else 0)
/-- A message counter of the continuation's set on its home tile (03 R42). -/
def counter (s : State) (n : BitVec 4) : BitVec 48 := look s.home.mc (n.toNat + if s.q.k.sec then 16 else 0)
/-- A wait descriptor (03 R22). -/
def waitWord (kind object threshold : Nat) : Word := BitVec.ofNat 64 (kind * 2 ^ 60 + object * 2 ^ 48 + threshold)
/-- The waits, each with KIND, OBJECT and THRESHOLD, on a state in which its condition does not hold (23 R225, 27 R267). -/
inductive NotYet (s : State) : Instr → Nat → Nat → Nat → Prop
  | waitc (a n) : (counter s n).toNat < field (s.x a) 47 0 → NotYet s (.waitc a n) 1 n.toNat (field (s.x a) 47 0)
  | tkwait (a b) : (nowServing s a).toNat < field (s.x b) 47 0 → NotYet s (.tkwait a b) 2 (field (s.x a) 5 0) (field (s.x b) 47 0)
  | chwf (a c) : (s.x a).toNat ≤ (channel s c).count → (s.x a).toNat < 2 ^ 48 → (channel s c).filled < (s.x a).toNat →
      NotYet s (.chwf a c) 5 c.toNat (s.x a).toNat
  | chwe (a c) : (s.x a).toNat ≤ (channel s c).count → (s.x a).toNat < 2 ^ 48 → (channel s c).free < (s.x a).toNat →
      NotYet s (.chwe a c) 6 c.toNat (s.x a).toNat
  | barw (l) : s.owes = none → s.arrivedAt (s.lvOf l) = true → field (s.barOf s.q.k.lnum (s.lvOf l) s.grp).count 47 0 + 1 < 2 ^ 48 →
      NotYet s (.barw l) 3 ((s.lvOf l).num - 1) (field (s.barOf s.q.k.lnum (s.lvOf l) s.grp).count 47 0 + 1)
  | xwt (l) : (s.barOf s.q.k.lnum (s.lvOf l) s.grp).exch = true →
      NotYet s (.xwt l) 10 ((s.lvOf l).num - 1) (field (s.barOf s.q.k.lnum (s.lvOf l) s.grp).count 47 0)
  | xtlw (t a) : (look (s.dieAt s.die).timeline (field (s.csr (0x0B0 + t.toNat)) 11 0)).toNat % 2 ^ 48 < field (s.x a) 47 0 →
      NotYet s (.xtlw t a) 4 (field (s.csr (0x0B0 + t.toNat)) 11 0) (field (s.x a) 47 0)
  | xtlwTk (b) (t : Nat) : t < 8 → (s.x b).getLsbD t = true → look s.q.k.tok t ≠ 0#8 → NotYet s (.xtlwTk b) 7 (field (s.x b) 7 0) 0

/-- The instruction completes and changes nothing but PC and INSTRET. -/
def CompletesPlainly (i : Instr) (s : State) : Prop := ∃ t, exec i s = .next t ∧ WritesOnly s t 0#5 0#64 (s.pc + 4)

/-- The scalar operand of a VOPS instruction, read at push (15 R155): its low 32 bits. -/
def scalar (s : State) (b : BitVec 5) : VSrc := .sca (((s.x b).setWidth 32).setWidth 64)
/-- Instructions that draw random blocks: never, always, or under FRM.RM 4 (15 R167). -/
def never : State → Bool := fun _ => false
def always : State → Bool := fun _ => true
def stochastic : State → Bool := fun s => field (s.csr 0x008) 2 0 == 4

/-- The instructions that are pushed to the vector queue, with the operation that each takes and whether it draws random blocks (15 R147 to
R163, R165). -/
inductive Pushes : Instr → (State → VOp) → (State → Bool) → Prop
  | vaddF (d a b k) : Pushes (.vaddF d a b k) (fun _ => .lane .addF d a (.vec b) k) stochastic
  | vsubF (d a b k) : Pushes (.vsubF d a b k) (fun _ => .lane .subF d a (.vec b) k) stochastic
  | vmulF (d a b k) : Pushes (.vmulF d a b k) (fun _ => .lane .mulF d a (.vec b) k) stochastic
  | vdivF (d a b k) : Pushes (.vdivF d a b k) (fun _ => .lane .divF d a (.vec b) k) stochastic
  | vsqrtF (d a k) : Pushes (.vsqrtF d a k) (fun _ => .lane .sqrtF d a (.vec 0) k) stochastic
  | vfmaF (d a b k) : Pushes (.vfmaF d a b k) (fun _ => .lane .fmaF d a (.vec b) k) stochastic
  | vfmsF (d a b k) : Pushes (.vfmsF d a b k) (fun _ => .lane .fmsF d a (.vec b) k) stochastic
  | vminF (d a b k) : Pushes (.vminF d a b k) (fun _ => .lane .minF d a (.vec b) k) never
  | vmaxF (d a b k) : Pushes (.vmaxF d a b k) (fun _ => .lane .maxF d a (.vec b) k) never
  | vabsF (d a k) : Pushes (.vabsF d a k) (fun _ => .lane .absF d a (.vec 0) k) never
  | vnegF (d a k) : Pushes (.vnegF d a k) (fun _ => .lane .negF d a (.vec 0) k) never
  | vaddI (d a b k) : Pushes (.vaddI d a b k) (fun _ => .lane .addI d a (.vec b) k) never
  | vsubI (d a b k) : Pushes (.vsubI d a b k) (fun _ => .lane .subI d a (.vec b) k) never
  | vmulI (d a b k) : Pushes (.vmulI d a b k) (fun _ => .lane .mulI d a (.vec b) k) never
  | vmulhI (d a b k) : Pushes (.vmulhI d a b k) (fun _ => .lane .mulhI d a (.vec b) k) never
  | vmulhN (d a b k) : Pushes (.vmulhN d a b k) (fun _ => .lane .mulhN d a (.vec b) k) never
  | vminI (d a b k) : Pushes (.vminI d a b k) (fun _ => .lane .minI d a (.vec b) k) never
  | vmaxI (d a b k) : Pushes (.vmaxI d a b k) (fun _ => .lane .maxI d a (.vec b) k) never
  | vminN (d a b k) : Pushes (.vminN d a b k) (fun _ => .lane .minN d a (.vec b) k) never
  | vmaxN (d a b k) : Pushes (.vmaxN d a b k) (fun _ => .lane .maxN d a (.vec b) k) never
  | vand (d a b k) : Pushes (.vand d a b k) (fun _ => .lane .and d a (.vec b) k) never
  | vor (d a b k) : Pushes (.vor d a b k) (fun _ => .lane .or d a (.vec b) k) never
  | vxor (d a b k) : Pushes (.vxor d a b k) (fun _ => .lane .xor d a (.vec b) k) never
  | vsll (d a b k) : Pushes (.vsll d a b k) (fun _ => .lane .sll d a (.vec b) k) never
  | vsrl (d a b k) : Pushes (.vsrl d a b k) (fun _ => .lane .srl d a (.vec b) k) never
  | vsra (d a b k) : Pushes (.vsra d a b k) (fun _ => .lane .sra d a (.vec b) k) never
  | vsel (d a b k) : Pushes (.vsel d a b k) (fun _ => .sel d a b k) never
  | vmov (d a k) : Pushes (.vmov d a k) (fun _ => .lane .mov d a (.vec 0) k) never
  | vceqF (d a b k) : Pushes (.vceqF d a b k) (fun _ => .cmp .eqF d a (.vec b) k) never
  | vcltF (d a b k) : Pushes (.vcltF d a b k) (fun _ => .cmp .ltF d a (.vec b) k) never
  | vcleF (d a b k) : Pushes (.vcleF d a b k) (fun _ => .cmp .leF d a (.vec b) k) never
  | vcunF (d a b k) : Pushes (.vcunF d a b k) (fun _ => .cmp .unF d a (.vec b) k) never
  | vceqI (d a b k) : Pushes (.vceqI d a b k) (fun _ => .cmp .eqI d a (.vec b) k) never
  | vcltI (d a b k) : Pushes (.vcltI d a b k) (fun _ => .cmp .ltI d a (.vec b) k) never
  | vcltN (d a b k) : Pushes (.vcltN d a b k) (fun _ => .cmp .ltN d a (.vec b) k) never
  | vclassF (d a k) : Pushes (.vclassF d a k) (fun _ => .lane .classF d a (.vec 0) k) never
  | vaddsF (d a b k) : Pushes (.vaddsF d a b k) (fun s => .lane .addF d a (scalar s b) k) stochastic
  | vsubsF (d a b k) : Pushes (.vsubsF d a b k) (fun s => .lane .subF d a (scalar s b) k) stochastic
  | vmulsF (d a b k) : Pushes (.vmulsF d a b k) (fun s => .lane .mulF d a (scalar s b) k) stochastic
  | vfmasF (d a b k) : Pushes (.vfmasF d a b k) (fun s => .lane .fmaF d a (scalar s b) k) stochastic
  | vminsF (d a b k) : Pushes (.vminsF d a b k) (fun s => .lane .minF d a (scalar s b) k) never
  | vmaxsF (d a b k) : Pushes (.vmaxsF d a b k) (fun s => .lane .maxF d a (scalar s b) k) never
  | vaddsI (d a b k) : Pushes (.vaddsI d a b k) (fun s => .lane .addI d a (scalar s b) k) never
  | vmulsI (d a b k) : Pushes (.vmulsI d a b k) (fun s => .lane .mulI d a (scalar s b) k) never
  | vslls (d a b k) : Pushes (.vslls d a b k) (fun s => .lane .sll d a (scalar s b) k) never
  | vsrls (d a b k) : Pushes (.vsrls d a b k) (fun s => .lane .srl d a (scalar s b) k) never
  | vsras (d a b k) : Pushes (.vsras d a b k) (fun s => .lane .sra d a (scalar s b) k) never
  | vceqsI (d a b k) : Pushes (.vceqsI d a b k) (fun s => .cmp .eqI d a (scalar s b) k) never
  | vcltsI (d a b k) : Pushes (.vcltsI d a b k) (fun s => .cmp .ltI d a (scalar s b) k) never
  | vsplat (d b k) : Pushes (.vsplat d b k) (fun s => .lane .second d 0 (scalar s b) k) never
  | vinsl (d a b) : Pushes (.vinsl d a b) (fun s => .insl d (s.x a) ((s.x b).setWidth 32)) never
  | vraddF (d a k) : Pushes (.vraddF d a k) (fun _ => .red .addF d a k) never
  | vraddI (d a k) : Pushes (.vraddI d a k) (fun _ => .red .addI d a k) never
  | vrminF (d a k) : Pushes (.vrminF d a k) (fun _ => .red .minF d a k) never
  | vrmaxF (d a k) : Pushes (.vrmaxF d a k) (fun _ => .red .maxF d a k) never
  | vrminI (d a k) : Pushes (.vrminI d a k) (fun _ => .red .minI d a k) never
  | vrmaxI (d a k) : Pushes (.vrmaxI d a k) (fun _ => .red .maxI d a k) never
  | vrminN (d a k) : Pushes (.vrminN d a k) (fun _ => .red .minN d a k) never
  | vrmaxN (d a k) : Pushes (.vrmaxN d a k) (fun _ => .red .maxN d a k) never
  | vrand (d a k) : Pushes (.vrand d a k) (fun _ => .red .and d a k) never
  | vrior (d a k) : Pushes (.vrior d a k) (fun _ => .red .or d a k) never
  | vrxor (d a k) : Pushes (.vrxor d a k) (fun _ => .red .xor d a k) never
  | vscanF (d a k) : Pushes (.vscanF d a k) (fun _ => .scan d a k) never
  | vperm (d a b k) : Pushes (.vperm d a b k) (fun _ => .perm .perm d a (.vec b) k) never
  | vsldu (d a b k) : Pushes (.vsldu d a b k) (fun s => .perm .sldu d a (.sca (s.x b)) k) never
  | vsldd (d a b k) : Pushes (.vsldd d a b k) (fun s => .perm .sldd d a (.sca (s.x b)) k) never
  | vrev (d a k) : Pushes (.vrev d a k) (fun _ => .perm .rev d a (.vec 0) k) never
  | vzip (d a b k) : Pushes (.vzip d a b k) (fun _ => .perm .zip d a (.vec b) k) never
  | vuzp (d a b k) : Pushes (.vuzp d a b k) (fun _ => .perm .uzp d a (.vec b) k) never
  | vbcast (d a b k) : Pushes (.vbcast d a b k) (fun s => .perm .bcast d a (.sca (s.x b)) k) never
  | vcomp (d a k) : Pushes (.vcomp d a k) (fun _ => .comp d a k) never
  | vmand (d a b) : Pushes (.vmand d a b) (fun _ => .mask .and d a b) never
  | vmor (d a b) : Pushes (.vmor d a b) (fun _ => .mask .or d a b) never
  | vmxor (d a b) : Pushes (.vmxor d a b) (fun _ => .mask .xor d a b) never
  | vmnot (d a) : Pushes (.vmnot d a) (fun _ => .mask .not d a 0) never
  | vmfromx (d a) : Pushes (.vmfromx d a) (fun s => .fromX d (s.x a)) never
  | vcvtfi (d a k) : Pushes (.vcvtfi d a k) (fun _ => .lane .cvtFI d a (.vec 0) k) stochastic
  | vcvtfn (d a k) : Pushes (.vcvtfn d a k) (fun _ => .lane .cvtFN d a (.vec 0) k) stochastic
  | vcvtif (d a k) : Pushes (.vcvtif d a k) (fun _ => .lane .cvtIF d a (.vec 0) k) stochastic
  | vcvtnf (d a k) : Pushes (.vcvtnf d a k) (fun _ => .lane .cvtNF d a (.vec 0) k) stochastic
  | rggen (d k) : Pushes (.rggen d k) (fun _ => .gen d k) always

/-- What a queue entry takes at push (15 R148): VL, the rounding mode, FTZ, the lens bindings, and the counter and key of its random blocks. -/
structure Took (s : State) (e : VEntry) : Prop where
  vl : e.vl = field (s.csr 0x020) 6 0
  rm : e.rm = field (s.csr 0x008) 2 0
  ftz : e.ftz = (s.csr 0x000).getLsbD 2
  lens : ∀ n, 1 ≤ n → n ≤ 7 → look e.lens n = (s.csr (0x08F + n)).setWidth 32 ∧ look e.lscl n = s.csr (0x097 + n)
  ctr : e.ctr = s.rngCtr
  key : e.key = s.rngKey

/-- The state after a push: the entry is the youngest of the queue, and nothing else changes but the random counter, by a block for each four
lanes where blocks are drawn. -/
structure Pushed (s t : State) (e : VEntry) (draws : Bool) : Prop where
  queue : t.q.vq = s.q.vq ++ [e]
  took : Took s e
  counter : t.rngCtr = (if draws then s.rngCtr + (e.vl + 3) / 4 else s.rngCtr) % 2 ^ 128
  next : t.pc = s.pc + 4
  registers : ∀ r, t.x r = s.x r
  csrs : ∀ n, n ≠ 0x015 → (draws = true → n < 0x050 ∨ 0x053 < n) → t.csr n = s.csr n
  lanes : t.q.k.vreg = s.q.k.vreg ∧ t.q.k.mreg = s.q.k.mreg
  memory : ∀ a, look t.mem a = look s.mem a
  staged : t.staged = s.staged

/-- The lane functions of the integer and logical vector instructions (15 R152). -/
def integerLane : LaneFn → Option (BitVec 32 → BitVec 32 → BitVec 32)
  | .addI => some (fun a b => a + b)
  | .subI => some (fun a b => a - b)
  | .mulI => some (fun a b => a * b)
  | .mulhI => some (fun a b => BitVec.ofInt 32 (a.toInt * b.toInt / 2 ^ 32))
  | .mulhN => some (fun a b => BitVec.ofNat 32 (a.toNat * b.toNat / 2 ^ 32))
  | .minI => some (fun a b => if a.toInt ≤ b.toInt then a else b)
  | .maxI => some (fun a b => if a.toInt ≤ b.toInt then b else a)
  | .minN => some (fun a b => if a.toNat ≤ b.toNat then a else b)
  | .maxN => some (fun a b => if a.toNat ≤ b.toNat then b else a)
  | .and => some (fun a b => a &&& b)
  | .or => some (fun a b => a ||| b)
  | .xor => some (fun a b => a ^^^ b)
  | .sll => some (fun a b => a <<< (b.toNat % 32))
  | .srl => some (fun a b => a >>> (b.toNat % 32))
  | .sra => some (fun a b => a.sshiftRight (b.toNat % 32))
  | .mov => some (fun a _ => a)
  | .second => some (fun _ b => b)
  | _ => none

/-- Lane i of a vector register, and a mask: m0 selects every lane (15 R147). -/
def lane (s : State) (n : BitVec 5) (i : Nat) : BitVec 32 := look s.q.k.vreg (64 * n.toNat + i)
def selects (s : State) (m : BitVec 3) (i : Nat) : Bool := if m = 0#3 then decide (i < 64) else (look s.q.k.mreg m.toNat).getLsbD i
/-- Operand b of lane i. -/
def operand (s : State) (b : VSrc) (i : Nat) : BitVec 32 :=
  match b with
  | .vec n => lane s n i
  | .sca v => v.setWidth 32

/-- The focused sequencer's queue holds one entry, and the arbiter of its tile can bind it now (05 R59): the tile's other queues are empty,
its four lane groups are free, and its own deficit is above 0. -/
structure Alone (s : State) (tile : BitVec 14) (e : VEntry) : Prop where
  here : s.tile = tile.toNat
  queue : s.q.vq = [e]
  others : ∀ r, r < 3 → r ≠ roleOf s.cur → (s.seqAt (3 * s.tile + r)).vq = []
  groups : ∀ i, i < 4 → find? (s.tileAt s.tile).busy (16 + i) = none
  deficit : 0 < (s.tileAt s.tile).deficit.getD (roleOf s.cur) 0
  some_lanes : 0 < e.vl ∧ e.vl ≤ 64

/-- A matrix command is accepted (17 R173): it is the youngest of its sequencer's buffer, with its masks and its issuer; its set slot is
cleared; no register, slot content, accumulator, byte of memory or other dependency slot changes. -/
structure Accepted (s t : State) (op : MOp) (w : BitVec 8) (e : BitVec 1) (z : BitVec 3) : Prop extends Steps s t 0#5 0#64 where
  queue : ∃ x, t.q.mq = s.q.mq ++ [x] ∧ x.op = op ∧ x.wait = w ∧ x.set = (if e = 1#1 then some z.toNat else none) ∧ x.running = false ∧
    x.order = s.nextOrder ∧ x.party = s.q.k.party ∧ x.pc = s.pc
  slots : ∀ n, n < 8 → ((t.tileAt s.tile).slots s.q.k.sec).getLsbD n =
    (if e = 1#1 ∧ n = z.toNat then false else ((s.tileAt s.tile).slots s.q.k.sec).getLsbD n)
  contents : (t.tileAt s.tile).code = (s.tileAt s.tile).code ∧ (t.tileAt s.tile).scale = (s.tileAt s.tile).scale ∧
    (t.tileAt s.tile).tag = (s.tileAt s.tile).tag ∧ (t.tileAt s.tile).acc = (s.tileAt s.tile).acc

/-- The queued matrix commands, with the units that each names (17 R169). -/
inductive Names : Instr → List Nat → Prop
  | mfil (w e z) (n : BitVec 3) (b) : Names (.mfil w e z n b) [n.toNat]
  | mfts (w e z) (n : BitVec 3) (b) : Names (.mfts w e z n b) [n.toNat]
  | mma (w e z) (c : BitVec 2) (x y : BitVec 3) : Names (.mma w e z c x y) [8 + c.toNat, x.toNat, y.toNat]
  | mmat (w e z) (c : BitVec 2) (x y : BitVec 3) : Names (.mmat w e z c x y) [8 + c.toNat, x.toNat, y.toNat]
  | mopr (w e z) (c : BitVec 2) (x y : BitVec 3) : Names (.mopr w e z c x y) [8 + c.toNat, x.toNat, y.toNat]
  | mza (w e z) (c : BitVec 2) : Names (.mza w e z c) [8 + c.toNat]
  | mdrn (w e z) (c : BitVec 2) (b) : Names (.mdrn w e z c b) [8 + c.toNat]

/-- An element of an accumulator, and a code of a slot, of a tile. -/
def accAt (s : State) (tile c i j : Nat) : BitVec 32 := look (s.tileAt tile).acc (1024 * c + 32 * i + j)
def slotCode (s : State) (tile n r c : Nat) : Nat := (look (s.tileAt tile).code (1024 * n + 32 * r + c)).toNat

/-- The scale byte of group g of row r of a slot (17 R177), and the value of element c of row r under a tag: its decoded code times its run's scale, which
without block scales is 2^0 (17 R179). -/
def slotScale (s : State) (tile n r g : Nat) : Nat := (look (s.tileAt tile).scale (64 * n + 2 * r + g)).toNat
def slotValue (s : State) (tile : Nat) (tag : BitVec 32) (n r c : Nat) : FVal :=
  (valCode tag (slotCode s tile n r c)).scaled (if dBlk tag = 0 then 127 else slotScale s tile n r (c / dRun tag))
/-- binary32 of the exact sum of C and products (07 R82). -/
def dotF (c : BitVec 32) (ps : List (FVal × FVal)) : BitVec 32 :=
  (rne32 (ps.foldl (fun acc p => (FVal.add false acc (FVal.mul p.1 p.2).1).1) (val32 c))).1
/-- The exact sum of C and products of integers (07 R83). -/
def dotI (c : BitVec 32) (ps : List (Int × Int)) : Int := c.toInt + (ps.map (fun p => p.1 * p.2)).sum
/-- No error marks rows of a slot that are read under a tag (17 R175). -/
def Clean (s : State) (tile n : Nat) (tag : BitVec 32) (rows : List Nat) : Prop :=
  ∀ r ∈ rows, 32 * n + r ∉ (s.tileAt tile).badUnit ∧ (dBlk tag ≠ 0 → 256 + 32 * n + r ∉ (s.tileAt tile).badUnit)
/-- The raw bit offset of element c of row r of a fill or drain (17 R177, R181): rows lie a stride apart, in the units of the window. -/
def rowBit (e : MEntry) (a : Word) (r c : Nat) : Nat :=
  let row := (a + BitVec.ofInt 64 (r * e.stride)).toNat
  match regionOf a.toNat with
  | .lens n _ => (row - n * 0x100000) / 4 * dWidth e.desc + c * dWidth e.desc
  | _ => 8 * row + c * dWidth e.desc
/-- A byte of the tile as a fill finds it: without its sequencer's later stores (17 R185). -/
def fillSees (s : State) (tile : Nat) (e : MEntry) (o : Nat) : Byte :=
  ((e.shadow.find? (fun c => c.1 == tileKey tile o)).map (·.2)).getD (look s.mem (tileKey tile o))
/-- An accumulator's elements get a value each; the others keep theirs. -/
def Accumulates (s t : State) (tile c : Nat) (v : Nat → Nat → BitVec 32) : Prop :=
  ∀ k i j, i < 32 → j < 32 → accAt t tile k i j = if k = c then v i j else accAt s tile k i j
/-- A slot is filled: its tag, its codes, and with block scales its scale bytes, while without them the slot's scale store stays; no other slot's codes
change (17 R177, R178). -/
def Fills (s t : State) (tile n : Nat) (tag : BitVec 32) (code scale : Nat → Nat → Nat) : Prop :=
  look (t.tileAt tile).tag n = tag ∧
  (∀ m r c, r < 32 → c < 32 → slotCode t tile m r c = if m = n then code r c else slotCode s tile m r c) ∧
  (dBlk tag = 0 → (t.tileAt tile).scale = (s.tileAt tile).scale) ∧
  (dBlk tag ≠ 0 → ∀ r g, r < 32 → g < 32 / dRun tag → slotScale t tile n r g = scale r g) ∧
  (t.tileAt tile).acc = (s.tileAt tile).acc

/-- No register, byte of memory or staged store of the focused continuation changes. -/
structure Apart (s t : State) : Prop where
  pc : t.pc = s.pc
  registers : ∀ r, t.x r = s.x r
  csrs : ∀ n, t.csr n = s.csr n
  memory : ∀ a, look t.mem a = look s.mem a
  staged : t.staged = s.staged

/-- The engine registers that a write reaches with no further rule, and the bits that must be 0 (17 R183). -/
def bankReserved : List (Nat × Word) :=
  [(0x00, 0xFFFFFFFF00000000#64), (0x01, 0xFFFFFFFF00000000#64), (0x03, 0xFFFE0000FFFE0000#64), (0x04, 0xFFFFFFFFFFFFFC00#64), (0x05, 0#64),
   (0x06, 0#64), (0x07, 0#64)]

/-- The context of a slot of the running continuation (27 R253), and the number that its next posted operation takes. -/
def context (s : State) (slot : Nat) : Nat := field (s.csr (0x0B0 + slot)) 11 0
def nextNumber (s : State) (slot : Nat) : Word := look (s.dieAt s.die).posted (context s slot) + 1

/-- A posting through a slot completes (27 R265): the context's posted count grows by one, the slot's LAST takes the number; no other register,
no byte of memory and no staged store changes. -/
structure Posted (s t : State) (slot : Nat) : Prop where
  number : look (t.dieAt s.die).posted (context s slot) = nextNumber s slot
  last : t.csr (0x0B0 + slot) = BitVec.ofNat 64 (field (nextNumber s slot) 47 0 * 2 ^ 16 + context s slot)
  next : t.pc = s.pc + 4
  registers : ∀ r, t.x r = s.x r
  counted : t.csr 0x015 = s.csr 0x015 + 1
  csrs : ∀ n, n ≠ 0x015 → n ≠ 0x0B0 + slot → t.csr n = s.csr n
  memory : ∀ a, look t.mem a = look s.mem a
  staged : t.staged = s.staged

/-- The instructions that post a block, with the KIND that they need (27 R260). -/
inductive PostsKind : (BitVec 4 → BitVec 3 → BitVec 5 → Instr) → Nat → Prop
  | xcp : PostsKind .xcp 0
  | xred : PostsKind .xred 1
  | xat : PostsKind .xat 2
  | xmc : PostsKind .xmc 3

/-- Where a block may lie (27 R265 step 2). -/
def blockRegion (a : Nat) : Prop :=
  (∃ o, regionOf a = .raw o) ∨ (∃ o, regionOf a = .gmem o) ∨ (∃ o, regionOf a = .param o) ∨ regionOf a = .xlat

/-- The engine and its issuer can take n operations: room in the engine's queue, no earlier access that waits. -/
def HasRoom (s : State) (engine n : Nat) : Prop := s.unstarted engine + n ≤ 1024 ∧ s.vectorStores = false ∧ s.stationHeld = false

/-- The numbered commands of the sum-tree engine that read or write records (29 R282): where they lie, in bytes and alignment, and the command that
is queued. -/
inductive TreeCommand : Instr → BitVec 2 → BitVec 3 → BitVec 5 → (State → Nat) → Nat → (State → PrOp) → Prop
  | put (p k a b) : TreeCommand (.prput p k a b) p k a (fun s => 16 * (s.x b).toNat) 16 (fun s => .put (s.x b).toNat)
  | upd (p k a b) : TreeCommand (.prupd p k a b) p k a (fun s => 16 * (s.x b).toNat) 16 (fun s => .upd (s.x b).toNat)
  | wt (p k a b) : TreeCommand (.prwt p k a b) p k a (fun s => 16 * (s.x b).toNat) 16 (fun s => .wt (s.x b).toNat)
  | sum (p k a) : TreeCommand (.prsum p k a) p k a (fun _ => 32) 32 (fun _ => .sum)

/-- The most records of a command (29 R282, R285, R289): its length is at least one record and at most this many bytes. -/
def treeLimit : PrOp → Nat
  | .wt _ => 16 * 1024
  | .sum => 32
  | _ => 16 * 4096

/-- The numbered commands of the signature accumulator (31 R298 to R300): slot, address, the bytes and alignment of their array under a shape, whether
the operand word is in order, and the command that is queued. -/
inductive SigCommand : Instr → BitVec 3 → (State → Word) → (State → Sig → Nat) → Nat → (State → Prop) → (State → SgOp) → Prop
  | inc (k a b) : SigCommand (.sginc k a b) k (fun s => s.x a) (fun s x => 4 * (s.x b).toNat * x.d) 4
      (fun s => 1 ≤ (s.x b).toNat ∧ (s.x b).toNat ≤ 4096) (fun s => .inc (s.x b).toNat)
  | join (k a b) : SigCommand (.sgjoin k a b) k (fun s => s.x a) (fun s x => field (s.x b) 6 0 * imageSize x.d x.m) 32
      (fun s => field (s.x b) 63 8 = 0 ∧ 1 ≤ field (s.x b) 6 0 ∧ field (s.x b) 6 0 ≤ 64)
      (fun s => .join ((s.x b).getLsbD 7) (field (s.x b) 6 0))
  | log (k a) : SigCommand (.sglog k a) k (fun s => s.x a) (fun _ x => imageSize x.d x.m) 32 (fun _ => True) (fun _ => .log)
  | rd (k a) : SigCommand (.sgrd k a) k (fun s => s.x a) (fun _ x => imageSize x.d x.m) 32 (fun _ => True) (fun _ => .rd)

/-- The numbered commands of a meeting (33 R312): meeting, slot, address, bytes, whether the operand word is in order, and the command that is
queued. -/
inductive MeetCommand : Instr → BitVec 4 → BitVec 3 → BitVec 5 → (Meeting → Nat) → (State → Meeting → Prop) → (State → QmOp) → Prop
  | join (m k a b) : MeetCommand (.qmjoin m k a b) m k a (fun x => 4 * x.len) (fun s _ => field (s.x b) 63 43 = 0)
      (fun s => .join ((s.x b).setWidth 32) ((s.x b).extractLsb' 32 11))
  | read (m k a b) : MeetCommand (.qmrecRead m k a b) m k a (fun _ => 2336) (fun s x => field (s.x b) 63 32 = 0 ∧ x.home = true)
      (fun s => .recRead ((s.x b).setWidth 32))
  | force (m k a b) : MeetCommand (.qmrecForce m k a b) m k a (fun _ => 2336)
      (fun s x => field (s.x b) 63 32 = 1 ∧ x.home = true ∧ x.replay = true ∧ x.open_ ≤ field (s.x b) 31 0 ∧ field (s.x b) 31 0 < x.open_ + 16)
      (fun s => .recForce ((s.x b).setWidth 32))

/-- n bytes of the raw tile SRAM from an aligned address, in the launch's share (27 R269, 29 R282, 33 R312). -/
def InTile (s : State) (a : Word) (n al : Nat) : Prop :=
  a.toNat % al = 0 ∧ a.toNat + n ≤ 0x18000 ∧ s.outsideShare s.q.k.lnum s.tile a.toNat n = none

/-- A device register takes a value, and nothing else changes (19 R194). -/
def Sets (s t : State) (off : Nat) (v : Word) : Prop := look t.dev off = v ∧ (∀ o, o ≠ off → look t.dev o = look s.dev o) ∧ t = { s with dev := t.dev }

/-- The admin queue has an entry with this operation, its other bytes in order, after bring-up, and no completion is outstanding (41 R369). -/
def AdminReady (s : State) (e : BitVec 512) (op : Nat) (named : List (Nat × Nat)) : Prop :=
  s.adminWaits = true ∧ s.bootStep = 8 ∧ s.adminOut = [] ∧ fieldAt (entryBytes e) 0 1 = op ∧ strayByte (entryBytes e) named = false

/-- An admin command is read, and its completion is the last record written for the host (41 R369): sequence number, status and result, at its place
in the completion ring. -/
def Answers (s t : State) (status : Nat) (result : Word) : Prop :=
  t.adminRead = s.adminRead + 1 ∧ t.adminOut = [] ∧
  t.hostOut.getLast? = some (look s.dev 0x40018 + BitVec.ofNat 64 (16 * (s.adminRead % 2 ^ field (look s.dev 0x40010) 4 0)),
    leBytes 4 ((s.adminRead + 1) % 2 ^ 32) ++ leBytes 1 status ++ [0, 0, 0] ++ leBytes 8 result.toNat)

/-- The field of an admin entry. -/
def operandAt (e : BitVec 512) (off n : Nat) : Nat := fieldAt (entryBytes e) off n

/-- A packet of a kind reaches its package in the clear, of a generation that excludes nobody (25 R238, R241, R250). -/
structure Arrives (s : State) (p : Packet) (kind : Nat) : Prop where
  kind : p.kind.toNat = kind
  target : p.dst.toNat = s.index
  clear : p.enc = false
  kgen : p.kgen = 0#8

/-- It comes from a source context with room, next in order on its lane, and new to it or not (25 R241 to R243). -/
structure Sequenced (s : State) (p : Packet) (seen : Bool) : Prop where
  room : s.srcs.length < 8192
  ordered : (s.srcAt p).expect.getD p.lane.toNat 0 = p.lseq.toNat
  lanes : (s.srcAt p).expect.length = 4 ∧ (s.srcAt p).accepted.length = 4
  seen : (s.srcAt p).seen p.oseq.toNat = seen

/-- The n bytes at a packet's address are the memory bytes from key k, which no error marks and no phase of the target closes: on the chip, in the footprint
and the share of a launch of a job of its source; or in the space that it names, of such a launch (25 R238, R245; 39 R358). -/
def Located (s : State) (p : Packet) (write : Bool) (n k : Nat) : Prop :=
  s.isBad k n = false ∧ s.targetShut p = false ∧
  ((p.dkind = 1#8 ∧ p.addr.toNat < 2 ^ 31 ∧
      let t := tileWordTile (p.addr.setWidth 64)
      let o := tileWordOff (p.addr.setWidth 64)
      k = tileKey t o ∧ o + n ≤ 0x18000 ∧
      s.jobLaunch p.src.toNat (fun x => x.job == p.job.toNat && x.foot.contains t && decide (x.shBase ≤ o) && decide (o + n ≤ x.shBase + x.shSize)) ≠ none) ∨
   (p.dkind ≠ 1#8 ∧ s.jobLaunch p.src.toNat (fun x => x.job == p.job.toNat && x.space == p.spid.toNat) ≠ none ∧
      ∀ srcs links, ∃ d f, State.virtKeys { s with srcs := srcs, links := links } 0 p.spid.toNat write (p.addr.setWidth 64) n =
        .ok (range k n, { s with srcs := srcs, links := links, dies := d, free := f })))

/-- No launch of the packet's job has the n bytes at its address: on the chip, the tile or the share; in a space, the space (25 R238, R244, R245). -/
def Nowhere (s : State) (p : Packet) (n : Nat) : Prop :=
  (p.dkind = 1#8 ∧
    let t := tileWordTile (p.addr.setWidth 64)
    let o := tileWordOff (p.addr.setWidth 64)
    0x18000 < o + n ∨ 2 ^ 31 ≤ p.addr.toNat ∨
      s.jobLaunch p.src.toNat (fun x => x.job == p.job.toNat && x.foot.contains t && decide (x.shBase ≤ o) && decide (o + n ≤ x.shBase + x.shSize)) = none) ∨
  (p.dkind ≠ 1#8 ∧ s.jobLaunch p.src.toNat (fun x => x.job == p.job.toNat && x.space == p.spid.toNat) = none)

/-- A byte as a package of the pod reads it for a launch: in the pod's exchange what it held when a commit inside changed it, else what it holds
(21 R205, 39 R358). -/
def podByte (s : State) (l g k : Nat) : Byte :=
  let b := s.barOf l (s.effLevel l .pod) g
  (((b.before.find? (fun x => x.2.2.1 == k)).filter (fun _ => b.exch)).map (fun x => x.2.2.2)).getD (look s.mem k)

/-- Memory holds these bytes from key k, and every other byte is as before. -/
def Holds (s t : State) (k : Nat) (bs : List Byte) : Prop :=
  (∀ i, i < bs.length → some (look t.mem (k + i)) = bs[i]?) ∧ ∀ a, a < k ∨ k + bs.length ≤ a → look t.mem a = look s.mem a

/-- The operation of a started copy that waits for an answer ends with an outcome, which the copy takes as its status where it has none (25 R244),
but for the signal of a copy of which an earlier signal has been counted (27 R263, log 204). -/
def EndsWith (s t : State) (o : OutPacket) (id outcome : Nat) (c : Copy) (data : List (Nat × List Byte)) (out : List (BitVec 32)) : Prop :=
  t.out = s.out.erase o ∧ ∃ d, t.copyAt o.die id = some d ∧ d.st = .started data (out.erase o.packet.oseq) ∧
    d.status = if c.status ≠ 0 then c.status else if c.signalled = true ∧ 1 < c.dests.length then 0 else outcome

/-- The answer that leaves for a packet's source (25 R243, R244), where some path leads there; where every path is down none leaves. -/
def answers (s t : State) (p : Packet) (kind op : Nat) (payload : List Byte) : Prop :=
  (s.choosePath p.src.toNat none = none → t.sentPkts = s.sentPkts) ∧
  (s.choosePath p.src.toNat none ≠ none → ∃ a, t.sentPkts = s.sentPkts ++ [a] ∧ a.kind.toNat = kind ∧ a.dst = p.src ∧ a.ctx = p.ctx ∧ a.oseq = p.oseq ∧ a.op.toNat = op ∧
    a.payload = payload)

end Sys2Proof.Spec

open Sys2Proof Sys2Proof.Machine Sys2Proof.Spec

/-! ## Scalar instructions (13) -/

/-- R132, R133: what every ALU instruction of three registers writes, in every state; nothing else changes.

R132: the counts and the reversals, by what each bit and byte of the result is. -/
def Obligations.AluInstructionsWriteTheirResult : Prop :=
  (∀ d a b : BitVec 5,
      Computes (.add d a b) d (fun s => s.x a + s.x b) ∧
      Computes (.sub d a b) d (fun s => s.x a - s.x b) ∧
      Computes (.and d a b) d (fun s => s.x a &&& s.x b) ∧
      Computes (.or d a b) d (fun s => s.x a ||| s.x b) ∧
      Computes (.xor d a b) d (fun s => s.x a ^^^ s.x b) ∧
      Computes (.andn d a b) d (fun s => s.x a &&& ~~~(s.x b)) ∧
      Computes (.orn d a b) d (fun s => s.x a ||| ~~~(s.x b)) ∧
      Computes (.xnor d a b) d (fun s => ~~~(s.x a ^^^ s.x b)) ∧
      Computes (.sll d a b) d (fun s => BitVec.ofNat 64 ((s.x a).toNat * 2 ^ ((s.x b).toNat % 64))) ∧
      Computes (.srl d a b) d (fun s => s.x a >>> ((s.x b).toNat % 64)) ∧
      Computes (.sra d a b) d (fun s => (s.x a).sshiftRight ((s.x b).toNat % 64)) ∧
      Computes (.rol d a b) d (fun s => (s.x a).rotateLeft ((s.x b).toNat % 64)) ∧
      Computes (.ror d a b) d (fun s => (s.x a).rotateRight ((s.x b).toNat % 64)) ∧
      Computes (.min d a b) d (fun s => if (s.x a).toInt ≤ (s.x b).toInt then s.x a else s.x b) ∧
      Computes (.max d a b) d (fun s => if (s.x a).toInt ≤ (s.x b).toInt then s.x b else s.x a) ∧
      Computes (.minn d a b) d (fun s => if (s.x a).toNat ≤ (s.x b).toNat then s.x a else s.x b) ∧
      Computes (.maxn d a b) d (fun s => if (s.x a).toNat ≤ (s.x b).toNat then s.x b else s.x a) ∧
      Computes (.slt d a b) d (fun s => flag ((s.x a).toInt < (s.x b).toInt)) ∧
      Computes (.sltn d a b) d (fun s => flag ((s.x a).toNat < (s.x b).toNat)) ∧
      Computes (.seq d a b) d (fun s => flag (s.x a = s.x b)) ∧
      Computes (.sne d a b) d (fun s => flag (s.x a ≠ s.x b)) ∧
      Computes (.mul d a b) d (fun s => BitVec.ofInt 64 ((s.x a).toInt * (s.x b).toInt)) ∧
      Computes (.mulh d a b) d (fun s => BitVec.ofInt 64 ((s.x a).toInt * (s.x b).toInt / 2 ^ 64)) ∧
      Computes (.mulhn d a b) d (fun s => BitVec.ofNat 64 ((s.x a).toNat * (s.x b).toNat / 2 ^ 64)) ∧
      Computes (.div d a b) d (fun s => if s.x b = 0#64 then -1#64 else BitVec.ofInt 64 ((s.x a).toInt.tdiv (s.x b).toInt)) ∧
      Computes (.rem d a b) d (fun s => if s.x b = 0#64 then s.x a
        else BitVec.ofInt 64 ((s.x a).toInt - (s.x a).toInt.tdiv (s.x b).toInt * (s.x b).toInt)) ∧
      Computes (.divn d a b) d (fun s => if s.x b = 0#64 then -1#64 else BitVec.ofNat 64 ((s.x a).toNat / (s.x b).toNat)) ∧
      Computes (.remn d a b) d (fun s => if s.x b = 0#64 then s.x a else BitVec.ofNat 64 ((s.x a).toNat % (s.x b).toNat)) ∧
      Computes (.addw d a b) d (fun s => wide (low (s.x a + s.x b))) ∧
      Computes (.subw d a b) d (fun s => wide (low (s.x a - s.x b))) ∧
      Computes (.mulw d a b) d (fun s => wide (low (s.x a * s.x b))) ∧
      Computes (.sllw d a b) d (fun s => wide (low (s.x a) <<< ((s.x b).toNat % 32))) ∧
      Computes (.srlw d a b) d (fun s => wide (low (s.x a) >>> ((s.x b).toNat % 32))) ∧
      Computes (.sraw d a b) d (fun s => (wide (low (s.x a))).sshiftRight ((s.x b).toNat % 32))) ∧
  (∀ (d a : BitVec 5) (s : State),
      (∃ n t, exec (.clz d a) s = .next t ∧ WritesOnly s t d (BitVec.ofNat 64 n) (s.pc + 4) ∧ n ≤ 64 ∧
        (∀ k, k < n → (s.x a).getLsbD (63 - k) = false) ∧ (n < 64 → (s.x a).getLsbD (63 - n) = true)) ∧
      (∃ n t, exec (.ctz d a) s = .next t ∧ WritesOnly s t d (BitVec.ofNat 64 n) (s.pc + 4) ∧ n ≤ 64 ∧
        (∀ k, k < n → (s.x a).getLsbD k = false) ∧ (n < 64 → (s.x a).getLsbD n = true)) ∧
      (∃ t, exec (.popc d a) s = .next t ∧
        WritesOnly s t d (BitVec.ofNat 64 ((List.range 64).countP (fun k => (s.x a).getLsbD k))) (s.pc + 4)) ∧
      (∃ v t, exec (.brev d a) s = .next t ∧ WritesOnly s t d v (s.pc + 4) ∧
        ∀ k, k < 64 → v.getLsbD (63 - k) = (s.x a).getLsbD k) ∧
      (∃ v t, exec (.bswap d a) s = .next t ∧ WritesOnly s t d v (s.pc + 4) ∧
        ∀ k, k < 8 → v.extractLsb' (8 * (7 - k)) 8 = (s.x a).extractLsb' (8 * k) 8))

/-- R134 to R138: what the immediate, shift, constant and bit-field instructions write; `l` is len - 1, and pos + len is at most 64 in every
word that is not reserved (R138). -/
def Obligations.ImmediateInstructionsWriteTheirResult : Prop :=
  ∀ (d a : BitVec 5) (i : BitVec 16) (h : BitVec 21) (n : BitVec 6) (m : BitVec 5) (l p : BitVec 6),
    Computes (.addi d a i) d (fun s => s.x a + i.signExtend 64) ∧
    Computes (.andi d a i) d (fun s => s.x a &&& i.setWidth 64) ∧
    Computes (.ori d a i) d (fun s => s.x a ||| i.setWidth 64) ∧
    Computes (.xori d a i) d (fun s => s.x a ^^^ i.setWidth 64) ∧
    Computes (.slti d a i) d (fun s => flag ((s.x a).toInt < i.toInt)) ∧
    Computes (.sltin d a i) d (fun s => flag ((s.x a).toNat < (i.signExtend 64).toNat)) ∧
    Computes (.slli d a n) d (fun s => BitVec.ofNat 64 ((s.x a).toNat * 2 ^ n.toNat)) ∧
    Computes (.srli d a n) d (fun s => s.x a >>> n.toNat) ∧
    Computes (.srai d a n) d (fun s => (s.x a).sshiftRight n.toNat) ∧
    Computes (.rori d a n) d (fun s => (s.x a).rotateRight n.toNat) ∧
    Computes (.slliW d a m) d (fun s => wide (low (s.x a) <<< m.toNat)) ∧
    Computes (.srliW d a m) d (fun s => wide (low (s.x a) >>> m.toNat)) ∧
    Computes (.sraiW d a m) d (fun s => (wide (low (s.x a))).sshiftRight m.toNat) ∧
    Computes (.roriW d a m) d (fun s => wide ((low (s.x a)).rotateRight m.toNat)) ∧
    Computes (.lih d h) d (fun _ => h.signExtend 64 * 2048#64) ∧
    Computes (.adpc d h) d (fun s => s.pc + h.signExtend 64 * 2048#64) ∧
    Computes (.lis d i) d (fun s => s.x d * 65536#64 ||| i.setWidth 64) ∧
    (p.toNat + l.toNat < 64 →
      Computes (.exts d a l p) d (fun s => (BitVec.ofNat (l.toNat + 1) ((s.x a).toNat / 2 ^ p.toNat)).signExtend 64) ∧
      Computes (.extz d a l p) d (fun s => (BitVec.ofNat (l.toNat + 1) ((s.x a).toNat / 2 ^ p.toNat)).setWidth 64) ∧
      Computes (.depz d a l p) d (fun s => BitVec.ofNat 64 ((s.x a).toNat % 2 ^ (l.toNat + 1) * 2 ^ p.toNat)) ∧
      ∀ s, ∃ v t, exec (.dep d a l p) s = .next t ∧ WritesOnly s t d v (s.pc + 4) ∧
        ∀ k, k < 64 → v.getLsbD k =
          if p.toNat ≤ k ∧ k ≤ p.toNat + l.toNat then (s.x a).getLsbD (k - p.toNat) else (s.x d).getLsbD k)

/-- R139, R140: where the branches and the jumps of a fixed target go; they write no register. -/
def Obligations.BranchesGoToTheirTarget : Prop :=
  ∀ (a b : BitVec 5) (o : BitVec 13) (j : BitVec 26),
    let target (taken : State → Bool) (s : State) : Word := if taken s then s.pc + 4#64 * o.signExtend 64 else s.pc + 4
    GoesTo (.beq a b o) (target (fun s => decide (s.x a = s.x b))) ∧
    GoesTo (.bne a b o) (target (fun s => decide (s.x a ≠ s.x b))) ∧
    GoesTo (.blt a b o) (target (fun s => decide ((s.x a).toInt < (s.x b).toInt))) ∧
    GoesTo (.bge a b o) (target (fun s => decide ((s.x b).toInt ≤ (s.x a).toInt))) ∧
    GoesTo (.bltn a b o) (target (fun s => decide ((s.x a).toNat < (s.x b).toNat))) ∧
    GoesTo (.bgen a b o) (target (fun s => decide ((s.x b).toNat ≤ (s.x a).toNat))) ∧
    GoesTo (.beqz a o) (target (fun s => decide (s.x a = 0#64))) ∧
    GoesTo (.bnez a o) (target (fun s => decide (s.x a ≠ 0#64))) ∧
    GoesTo (.bltz a o) (target (fun s => decide ((s.x a).toInt < 0))) ∧
    GoesTo (.bgez a o) (target (fun s => decide (0 ≤ (s.x a).toInt))) ∧
    GoesTo (.bgtz a o) (target (fun s => decide (0 < (s.x a).toInt))) ∧
    GoesTo (.blez a o) (target (fun s => decide ((s.x a).toInt ≤ 0))) ∧
    GoesTo (.j j) (fun s => s.pc + 4#64 * j.signExtend 64)

/-- R110, R140: the jumps to a register go to X(ra) where it is a multiple of 4, JLR writing PC + 4 to rd after it has read ra; else they
and CALLR and RET raise cause 0x04 with the target as the failing address and write nothing.

R141, R142: a CALL that finds D at FLIM raises cause 0x0E with the address of the frame that does not fit, and a RET at D = 0 raises it
with address 0; they change nothing else. -/
def Obligations.RegisterJumpsAndWindowLimits : Prop :=
  (∀ (d a : BitVec 5) (s : State),
      (field (s.x a) 1 0 = 0 →
        (∃ t, exec (.jr a) s = .next t ∧ WritesOnly s t 0#5 0#64 (s.x a)) ∧
        (∃ t, exec (.jlr d a) s = .next t ∧ WritesOnly s t d (s.pc + 4) (s.x a))) ∧
      (HasHandler s → field (s.x a) 1 0 ≠ 0 →
        TrapsAt (.jr a) s 0x04#64 (s.x a) ∧ TrapsAt (.jlr d a) s 0x04#64 (s.x a) ∧ TrapsAt (.callr a) s 0x04#64 (s.x a)) ∧
      (HasHandler s → field (s.csr 0x030) 15 0 ≠ 0 → field (s.x 13#5) 1 0 ≠ 0 → TrapsAt .ret s 0x04#64 (s.x 13#5))) ∧
  (∀ s : State, HasHandler s →
      (field (s.csr 0x032) 15 0 ≤ field (s.csr 0x030) 15 0 →
        let frame : Word := 16 * BitVec.ofNat 64 (field (s.csr 0x031) 55 4) + 144 * BitVec.ofNat 64 (field (s.csr 0x030) 15 0)
        (∀ o, TrapsAt (.call o) s 0x0E#64 frame) ∧
        (∀ a, field (s.x a) 1 0 = 0 → TrapsAt (.callr a) s 0x0E#64 frame)) ∧
      (field (s.csr 0x030) 15 0 = 0 → TrapsAt .ret s 0x0E#64 0#64))

/-- R141, R142, R124, R129: CALL and CALLR move the window forward and RET moves it back. With a window to spare the caller's stays resident; with seven
resident the oldest goes to the spill engine, for its frame; a RET with none resident takes the caller's back from there, or, where the
frame has been written out, from translated memory.

R141, R142, R129: what a RET returns from a CALL gives the caller its own i0-i5, l0-l11 and q0-q4 again, with q5 the return address, and
goes on at the instruction after the CALL. -/
def Obligations.CallsMoveTheRegisterWindow : Prop :=
  ((∀ (o : BitVec 26) (s : State), field (s.csr 0x030) 15 0 < field (s.csr 0x032) 15 0 → field (s.csr 0x030) 19 16 < 7 →
      ∃ t, exec (.call o) s = .next t ∧ Opened s t (s.pc + 4#64 * o.signExtend 64)) ∧
    (∀ (a : BitVec 5) (s : State), field (s.x a) 1 0 = 0 → field (s.csr 0x030) 15 0 < field (s.csr 0x032) 15 0 →
      field (s.csr 0x030) 19 16 < 7 → ∃ t, exec (.callr a) s = .next t ∧ Opened s t (s.x a)) ∧
    (∀ s : State, field (s.csr 0x030) 15 0 ≠ 0 → field (s.csr 0x030) 19 16 ≠ 0 → field (s.x 13#5) 1 0 = 0 →
      ∃ t, exec .ret s = .next t ∧ Closed s t) ∧
    (∀ (i : Instr) (target : Word) (s s1 s2 : State) leaf pa leaf2 pa2,
      (∃ o, i = .call o ∧ target = s.pc + 4#64 * o.signExtend 64) ∨ (∃ a, i = .callr a ∧ field (s.x a) 1 0 = 0 ∧ target = s.x a) →
      let d := field (s.csr 0x030) 15 0
      let frame : Word := BitVec.ofNat 64 (field (s.csr 0x031) 55 4 * 16) + 144 * BitVec.ofNat 64 (d - 7)
      d < field (s.csr 0x032) 15 0 → field (s.csr 0x030) 19 16 = 7 → regionOf frame.toNat = .xlat →
      s.translate s.die s.launch.space frame.toNat = .ok (leaf, pa, s1) → s1.translate s.die s.launch.space (frame + 143).toNat = .ok (leaf2, pa2, s2) →
      permits leaf .st = true → permits leaf2 .st = true → s.inText s.launch.space frame.toNat = false →
      s.inText s.launch.space (frame + 143).toNat = false → (s.groupAt s.grp).spilled + 144 ≤ 0xC000 →
      ∃ t, exec i s = .next t ∧ t.pc = target ∧ field (t.csr 0x030) 15 0 = d + 1 ∧ field (t.csr 0x030) 19 16 = 7 ∧
        (∀ n, n < 5 → t.x (BitVec.ofNat 5 (8 + n)) = s.x (BitVec.ofNat 5 (26 + n))) ∧ t.x 13#5 = s.pc + 4 ∧
        (∀ n, n < 12 → t.x (BitVec.ofNat 5 (14 + n)) = 0#64) ∧ (∀ n, n < 6 → t.x (BitVec.ofNat 5 (26 + n)) = 0#64) ∧
        (∀ r : BitVec 5, r.toNat < 8 → t.x r = s.x r) ∧ (∀ a, look t.mem a = look s.mem a) ∧
        (t.groupAt s.grp).spills = (s.groupAt s.grp).spills ++ [{ party := s.q.k.party, space := s.launch.space, sq := s.cur, addr := frame, data := (range 8 18).map (fun r => look s.q.k.wins (32 * (d - 7) + r)) }]) ∧
    (∀ (s : State) (ws : List Word),
      let d := field (s.csr 0x030) 15 0
      let frame : Word := BitVec.ofNat 64 (field (s.csr 0x031) 55 4 * 16) + 144 * BitVec.ofNat 64 (d - 1)
      d ≠ 0 → field (s.csr 0x030) 19 16 = 0 → field (s.x 13#5) 1 0 = 0 → (s.groupAt s.grp).findSpill s.q.k.party frame = some ws → ws.length = 18 →
      ∃ t, exec .ret s = .next t ∧ WindowMove s t ∧ t.pc = s.x 13#5 ∧ field (t.csr 0x030) 15 0 + 1 = d ∧ field (t.csr 0x030) 19 16 = 0 ∧
        (∀ n, n < 6 → t.x (BitVec.ofNat 5 (26 + n)) = s.x (BitVec.ofNat 5 (8 + n))) ∧
        ∀ n, n < 18 → some (t.x (BitVec.ofNat 5 (8 + n))) = ws[n]?) ∧
    (∀ (s : State) (leaf : Word) (pa : Nat),
      let d := field (s.csr 0x030) 15 0
      let frame : Word := BitVec.ofNat 64 (field (s.csr 0x031) 55 4 * 16) + 144 * BitVec.ofNat 64 (d - 1)
      d ≠ 0 → field (s.csr 0x030) 19 16 = 0 → field (s.x 13#5) 1 0 = 0 → (s.groupAt s.grp).findSpill s.q.k.party frame = none →
      (∀ n, n < 18 → let a := (frame + 8 * BitVec.ofNat 64 n).toNat
        regionOf a = .xlat ∧ s.translate s.die s.launch.space a = .ok (leaf, pa + 8 * n, s) ∧ s.isBad (pa + 8 * n) 8 = false) →
      permits leaf .ld = true →
      ∃ t, exec .ret s = .next t ∧ WindowMove s t ∧ t.pc = s.x 13#5 ∧ field (t.csr 0x030) 15 0 + 1 = d ∧ field (t.csr 0x030) 19 16 = 0 ∧
        (∀ n, n < 6 → t.x (BitVec.ofNat 5 (26 + n)) = s.x (BitVec.ofNat 5 (8 + n))) ∧
        ∀ n, n < 18 → t.x (BitVec.ofNat 5 (8 + n)) = BitVec.ofNat 64 (leNat ((List.range 8).map (fun j => look s.mem (pa + 8 * n + j)))))) ∧
  (∀ (o : BitVec 26) (s t u : State),
      field (s.csr 0x030) 15 0 < field (s.csr 0x032) 15 0 → field (s.csr 0x030) 19 16 < 7 → field s.pc 1 0 = 0 →
      exec (.call o) s = .next t → exec .ret t = .next u →
      u.pc = s.pc + 4 ∧ u.csr 0x030 &&& 0xFFFFF#64 = s.csr 0x030 &&& 0xFFFFF#64 ∧ u.x 31#5 = s.pc + 4 ∧
      ∀ r : BitVec 5, r ≠ 31#5 → u.x r = s.x r)

/-- R331, R332, R337: TRAP and BRK take their trap and count as retired; a reserved word raises cause 0x01 and reports itself (11 R119). -/
def Obligations.TrapEntrySavesTheState : Prop :=
  ∀ (i : BitVec 10) (w : BitVec 32) (s : State), HasHandler s →
    (∃ t, exec (.trap i) s = .next t ∧
      TrapTaken s t (i.setWidth 64 <<< 16 ||| 0x13#64) (s.pc + 4) (s.csr 0x004) (s.csr 0x003) 1#64) ∧
    (∃ t, exec (.brk i) s = .next t ∧
      TrapTaken s t (i.setWidth 64 <<< 16 ||| 0x12#64) s.pc (s.csr 0x004) (s.csr 0x003) 1#64) ∧
    TrapsWord (.illegalInstruction w) s 0x01#64 w

/-- R333: a trap with no handler, or while one runs, halts the launch: its sequencer stops, its staged stores are gone, and it has
ended or will end as trapped (status 2), with COORD, CAUSE, EPC, BADADDR and BADINST as the trap would have set them. -/
def Obligations.FatalTrapHaltsTheLaunch : Prop :=
  ∀ (i : BitVec 10) (s : State) (x : Launch), ¬ HasHandler s → s.q.mode = .run → s.launchAt? s.q.k.lnum = some x → x.halted = none →
    ∃ t, exec (.trap i) s = .next t ∧ t.q.mode = .idle ∧ (∀ e ∈ t.staged, e.lnum ≠ s.q.k.lnum) ∧
      ∀ y, t.launchAt? s.q.k.lnum = some y → ∃ w, y.halted = some (2,
        [s.coordOf s.cur, i.setWidth 64 <<< 16 ||| 0x13#64, s.pc + 4, s.csr 0x004, s.csr 0x003], w)

/-- R335, R337: RFE in runtime mode, with no access held at a station, restores STAT from ESTAT but for DET and goes to EPC; the instruction
there is not matched against the breakpoints. With held accesses it replays them first, and returns in the same way, unless something of
the replay waits: then it is held at its own PC and tries again. In user mode it raises cause 0x03.

That a release of the replay whose own earlier accesses are not yet performed holds the RFE, and copies posted meanwhile too, is how the
model reads "wait until they are accepted" (log 120). -/
def Obligations.RfeReturnsFromTheHandler : Prop :=
  (∀ s : State, (s.csr 0x000).getLsbD 0 = true → s.q.k.heldAcc = [] → (∀ d ∈ s.dies, ∀ c ∈ d.2.copies, c.party = s.q.k.party → c.held = false) →
    ∃ t, exec .rfe s = .next t ∧
    t.pc = s.csr 0x002 &&& ~~~3#64 ∧ t.csr 0x000 = (s.csr 0x201 &&& ~~~2#64) ||| (s.csr 0x000 &&& 2#64) ∧
    t.q.k.noBreak = true ∧ t.csr 0x015 = s.csr 0x015 + 1 ∧ (∀ r, t.x r = s.x r) ∧
    (∀ n, n ≠ 0x000 → n ≠ 0x015 → t.csr n = s.csr n) ∧ (∀ a, look t.mem a = look s.mem a) ∧
    t = { s with scopeLog := t.scopeLog, q := { s.q with hold := none, k := { s.q.k with
      pc := t.pc, csr := t.q.k.csr, noBreak := true, handled := 0, fault := none } } }) ∧
  (∀ s : State, (s.csr 0x000).getLsbD 0 = true →
    let u := s.replayHeld
    (u.replayWaits = false → ∃ t, exec .rfe s = .next t ∧ t.pc = u.csr 0x002 &&& ~~~3#64 ∧
      t.csr 0x000 = (u.csr 0x201 &&& ~~~2#64) ||| (u.csr 0x000 &&& 2#64) ∧ t.q.k.noBreak = true ∧ (∀ r, t.x r = u.x r) ∧ t.q.k.heldAcc = u.q.k.heldAcc ∧
      ∀ a, look t.mem a = look u.mem a) ∧
    (u.replayWaits = true → ∃ t, exec .rfe s = .next t ∧ t.pc = u.pc ∧ (∀ n, t.csr n = u.csr n) ∧ (∀ r, t.x r = u.x r) ∧
      t.q.k.heldAcc = u.q.k.heldAcc ∧ ∀ a, look t.mem a = look u.mem a)) ∧
  (∀ s : State, HasHandler s → (s.csr 0x000).getLsbD 0 = false → TrapsWord .rfe s 0x03#64 0xC0001400#32)

/-! ## Control and status registers (35, 44) -/

/-- R336 to R338: what CSRR and the other reads give, in a mode that may read the register; they change nothing else. FFLAGS is read once the
vector queue is empty and the continuation's drains have retired (15 R148, 17 R181).

R337: CYCLE gives the clk since the continuation's own count began. R38, R39: ABORT gives what it holds, with ESC 0 unless an escalation is in
force. R254: TOKS has a bit for each token whose count is not 0. R200: QQUIET gives the lowest epoch in flight, or the current one plus 1. -/
def Obligations.CsrReadsGiveTheRegister : Prop :=
  ∀ (i : Instr) (d a : BitVec 5) (n : Nat) (s : State), Access i .read d a n →
    let reads (v : Word) : Prop := ∃ t, exec i s = .next t ∧ WritesOnly s t d v (s.pc + 4)
    (n ∈ [0x000, 0x001, 0x002, 0x003, 0x004, 0x008, 0x015, 0x020, 0x030, 0x031, 0x032, 0x061, 0x080, 0x081]
        ++ (List.range 6).map (0x050 + ·) ++ (List.range 7).map (0x090 + ·) ++ (List.range 7).map (0x098 + ·)
        ++ (List.range 8).map (0x0B0 + ·) → reads (s.csr n)) ∧
    (n = 0x007 → s.q.vq = [] → NoDrains s → reads (s.csr 0x007)) ∧
    (n = 0x010 → reads (BitVec.ofNat 64 (s.cur % 3 * 2 ^ 25 + s.dgrp.toNat * 2 ^ 19 + s.pkg.toNat * 2 ^ 14 + s.cur / 3))) ∧
    (n = 0x011 → reads (s.q.k.stage.setWidth 64)) ∧
    (n = 0x012 → reads (BitVec.ofNat 64 ((if s.q.k.sec then 65536 else 0) + s.q.k.lnum))) ∧
    (n = 0x013 → reads (BitVec.ofNat 64 s.clk)) ∧
    (n = 0x021 → reads s.q.lwgt) ∧
    (n = 0x040 → reads (s.launch.detstat.setWidth 64)) ∧
    (n = 0x041 → reads s.launch.detaddr) ∧
    (n = 0x062 → reads (s.launch.abcont.setWidth 64)) ∧
    (∀ k, k < 4 → n = 0x070 + k → reads (s.barOf s.q.k.lnum ([Level.group, .die, .package, .pod].getD k .pod) s.grp).count) ∧
    (∀ k, k < 16 → n = 0x100 + k → reads ((look s.home.mc (k + if s.q.k.sec then 16 else 0)).setWidth 64)) ∧
    (Runtime s → n ∈ [0x005, 0x006, 0x201, 0x220, 0x221, 0x222, 0x223] → reads (s.csr n)) ∧
    (Runtime s → n = 0x200 → reads s.q.whold) ∧
    (Runtime s → n = 0x210 → reads s.epoch) ∧
    (n = 0x014 → reads (BitVec.ofNat 64 s.clk - BitVec.ofNat 64 s.q.k.cycleBase)) ∧
    (n = 0x060 → ∃ v : Word, reads v ∧ (∀ k, k ≠ 12 → v.getLsbD k = (s.csr 0x060).getLsbD k) ∧
      v.getLsbD 12 = ((s.csr 0x060).getLsbD 12 && s.escInForce)) ∧
    (n = 0x0C0 → ∃ v : Word, reads v ∧ ∀ k, v.getLsbD k = decide (k < 8 ∧ look s.q.k.tok k ≠ 0#8)) ∧
    (Runtime s → n = 0x211 → ∃ v : Word, reads v ∧ (s.inFlight = [] → v = s.epoch + 1) ∧
      (s.inFlight ≠ [] → v ∈ s.inFlight ∧ ∀ e ∈ s.inFlight, v.toNat ≤ e.toNat))

/-- R336, R339: a write, set or clear of a register with no rule of its own, in a mode that may write it, leaves the new value in the bits that
the register has; rd takes the old value. -/
def Obligations.CsrWritesLeaveTheNewValue : Prop :=
  ∀ (i : Instr) (f : CsrFn) (d a : BitVec 5) (n : Nat) (m : Word) (s : State), Access i f d a n → f ≠ .read →
    (n, m) ∈ freelyWritten ∨ (Runtime s ∧ (n, m) ∈ runtimeWritten) →
    ∃ t, exec i s = .next t ∧ WritesCsr s t d n (s.csr n) (newValue f (s.csr n) (s.x a) &&& m) ∧
      t = { s with q := { s.q with hold := none, k := { s.q.k with
        pc := s.pc + 4, gpr := t.q.k.gpr, csr := t.q.k.csr, noBreak := false } } }

/-- R37, R39, R61, R64, R67, R79, R80, R126, R127, R146, R191, R253, R329, R330, R337, R353, R379: registers whose own rule limits what a write leaves.

Of these the clause of INSTRET is the model's choice: the write leaves its value, and the instruction then counts itself (log 31). -/
def Obligations.CsrWritesKeepTheRulesOfTheRegister : Prop :=
  ∀ (i : Instr) (f : CsrFn) (d a : BitVec 5) (n : Nat) (s : State), Access i f d a n → f ≠ .read →
    let old := s.readCsr n
    let v := newValue f old (s.x a)
    let leaves (w : Word) : Prop := ∃ t, exec i s = .next t ∧ WritesCsr s t d n old w
    -- STAT: FTZ and PRIO in user mode, all but DET in runtime mode; a PRIO above 7 is 7
    (n = 0x000 → (old ^^^ v) &&& (if (s.csr 0x000).getLsbD 0 then 0x2#64 else 0xB#64) = 0#64 →
      leaves (v &&& 0xF#64 ||| BitVec.ofNat 64 (min 7 (field v 15 8) * 256))) ∧
    -- ESTAT: as STAT, in runtime mode
    (Runtime s → n = 0x201 → leaves (v &&& 0xF#64 ||| BitVec.ofNat 64 (min 7 (field v 15 8) * 256))) ∧
    -- FFLAGS: five flags, once the vector queue is empty and the continuation's drains have retired
    (n = 0x007 → s.q.vq = [] → NoDrains s → leaves (v &&& 0x1F#64)) ∧
    -- FRM, LENSn, XTLn: values that their rules accept
    (n = 0x008 → field v 2 0 < 5 → leaves (v &&& 0x7#64)) ∧
    (∀ k, k < 7 → n = 0x090 + k → dImpossible (v.setWidth 32) = false → leaves (v &&& 0xFFFFFFFF#64)) ∧
    (∀ k, k < 8 → n = 0x0B0 + k → s.ownsCtx s.q.k.lnum s.die (field v 11 0) = true → leaves (v &&& 0xFFF#64)) ∧
    -- VL at most 64, LWGT not 0
    (n = 0x020 → leaves (if 64 < field v 6 0 then 64#64 else v &&& 0x7F#64)) ∧
    (n = 0x021 → leaves (if v &&& 0xF#64 = 0#64 then 1#64 else v &&& 0xF#64)) ∧
    -- WDEPTH never below the call depth; WSPILL once the spills of the sequencer are written out
    (Runtime s → n = 0x032 →
      leaves (BitVec.ofNat 64 (max (field v 15 0) (field (s.csr 0x030) 15 0)))) ∧
    (Runtime s → n = 0x031 → (s.groupAt s.grp).spills.all (fun e => e.sq != s.cur) = true → leaves (v &&& 0x00FFFFFFFFFFFFF0#64)) ∧
    -- ABORT: a write or clear clears it; CSRS does not
    (n = 0x060 → f ≠ .set → leaves 0#64) ∧
    -- the launch's ABCONT, DETSTAT and DETADDR
    (Runtime s → s.launchAt? s.q.k.lnum ≠ none → n = 0x062 → leaves (v &&& 0x7#64)) ∧
    (Runtime s → s.launchAt? s.q.k.lnum ≠ none → n = 0x040 → leaves (v &&& 0x7#64)) ∧
    (¬ Runtime s → s.launchAt? s.q.k.lnum ≠ none → n = 0x040 → f = .clear → leaves (old &&& ~~~(s.x a &&& 0x3#64))) ∧
    (Runtime s → s.launchAt? s.q.k.lnum ≠ none → n = 0x041 → leaves v) ∧
    -- PWSIZE: in user mode only a clear of OVR
    (n = 0x081 → Runtime s ∨ (f = .clear ∧ s.x a = 0x8000000000000000#64) → leaves (v &&& 0x8000FFFF0001FFFF#64)) ∧
    -- STAGE, CYCLE, WHOLD and the counters MC0-MC15
    (Runtime s → n = 0x011 → leaves (v &&& 0xFF#64)) ∧
    (Runtime s → n = 0x014 → leaves v) ∧
    -- INSTRET counts the instruction that writes it
    (Runtime s → n = 0x015 → leaves (v + 1)) ∧
    (Runtime s → n = 0x200 → leaves (v &&& 0xFFFF#64)) ∧
    (Runtime s → ∀ k, k < 16 → n = 0x100 + k → leaves (v &&& 0xFFFFFFFFFFFF#64))

/-- R336, R39, R329: an access that the mode does not allow raises cause 0x03 and reports its word; the register and rd are unchanged.

R67, R79, R253: a write of an impossible descriptor to LENSn or of a rounding mode of 5 or more to FRM raises cause 0x01, and one of a
context that the launch does not own to XTLn cause 0x0B; the register is unchanged.

Of these the clause of XTLn is the model's choice: the table of R332 gives cause 0x0B a failing address and R253 names none, so BADADDR
keeps its value (log 34). -/
def Obligations.CsrAccessesThatTrap : Prop :=
  (∀ (i : Instr) (f : CsrFn) (d a : BitVec 5) (n : Nat) (s : State), Access i f d a n → n < 1024 → HasHandler s →
      (¬ Runtime s → n ∈ hiddenCsrs → TrapsWord i s 0x03#64 (csrWord f d a n)) ∧
      (¬ Runtime s → n ∈ guardedCsrs → f ≠ .read → TrapsWord i s 0x03#64 (csrWord f d a n)) ∧
      (n ∈ readOnlyCsrs → f ≠ .read → TrapsWord i s 0x03#64 (csrWord f d a n)) ∧
      (n = 0x060 → f = .set → TrapsWord i s 0x03#64 (csrWord f d a n)) ∧
      (n = 0x000 → f ≠ .read →
        (s.csr 0x000 ^^^ newValue f (s.csr 0x000) (s.x a)) &&& (if (s.csr 0x000).getLsbD 0 then 0x2#64 else 0xB#64) ≠ 0#64 →
        TrapsWord i s 0x03#64 (csrWord f d a n)) ∧
      (¬ Runtime s → n = 0x040 → f = .write ∨ f = .set → TrapsWord i s 0x03#64 (csrWord f d a n))) ∧
  (∀ (i : Instr) (f : CsrFn) (d a : BitVec 5) (n : Nat) (s : State), Access i f d a n → f ≠ .read → HasHandler s →
      let v := newValue f (s.csr n) (s.x a)
      (∀ k, k < 7 → n = 0x090 + k → dImpossible (v.setWidth 32) = true → TrapsWord i s 0x01#64 (csrWord f d a n)) ∧
      (n = 0x008 → 5 ≤ field v 2 0 → TrapsWord i s 0x01#64 (csrWord f d a n)) ∧
      (∀ k, k < 8 → n = 0x0B0 + k → s.ownsCtx s.q.k.lnum s.die (field v 11 0) = false → TrapsPlain i s 0x0B#64))

/-! ## Memory (19, 21, 23) -/

/-- R187, R188: which addresses lie in which region, and the byte that an accepted access of the raw, peer-tile, group and signal regions
names.

R189: the first check that fails decides: an address outside the map, then the alignment, then protection, then a frozen zone; for the
raw window of the tile. -/
def Obligations.AddressesAndTheirChecks : Prop :=
  ((∀ a, regionOf a = .none ↔
      (0x18000 ≤ a ∧ a < 0x100000) ∨ (0x810000 ≤ a ∧ a < 0x1000000) ∨ (0x1100000 ≤ a ∧ a < 0x2000000)
      ∨ (0x2000000 ≤ a ∧ a < 0x2200000 ∧ 0x18000 ≤ a % 0x20000) ∨ (0x2200000 ≤ a ∧ a < 2 ^ 40) ∨ 2 ^ 56 ≤ a) ∧
    (∀ a, a < 0x18000 → regionOf a = .raw a) ∧
    (∀ t off, t < 16 → off < 0x18000 → regionOf (0x2000000 + t * 0x20000 + off) = .peer t off) ∧
    (∀ off, off < 0xEC000 → regionOf (0x1000000 + off) = .gmem off) ∧
    (∀ off, 0xFC000 ≤ off → off < 0x100000 → regionOf (0x1000000 + off) = .sig off) ∧
    (∀ (s s' : State) (k : Acc) (a : Word) (n : Nat) (g : Target), s.locate k a n = .ok (g, s') →
      (∀ off, regionOf a.toNat = .raw off → g.key = tileKey s.tile off ∧ g.path = .now) ∧
      (∀ t off, regionOf a.toNat = .peer t off → g.key = tileKey (s.grp * 16 + t) off ∧ (k ≠ .st ∨ s.grp * 16 + t = s.tile → g.path = .now)) ∧
      (∀ off, regionOf a.toNat = .gmem off ∨ regionOf a.toNat = .sig off → g.key = groupKey s.grp off))) ∧
  (∀ (s : State) (k : Acc) (a : Word) (n : Nat), n = 1 ∨ n = 2 ∨ n = 4 ∨ n = 8 →
      (regionOf a.toNat = .none ∨ regionOf a.toNat = .ctx → s.locate k a n = .error ⟨0x05, a, false⟩) ∧
      (a.toNat < 0x18000 →
        (0x18000 < a.toNat + n → s.locate k a n = .error ⟨0x05, 0x18000#64, false⟩) ∧
        (a.toNat + n ≤ 0x18000 →
          (a.toNat % n ≠ 0 → s.locate k a n = .error ⟨0x04, a, false⟩) ∧
          (a.toNat % n = 0 →
            (∀ e, s.outsideShare s.q.k.lnum s.tile a.toNat n = some e →
              s.locate k a n = .error ⟨0x0B, a + BitVec.ofNat 64 e, false⟩) ∧
            (s.outsideShare s.q.k.lnum s.tile a.toNat n = none →
              (∀ e, s.frozenAt s.q.k.lnum s.grp 0 a.toNat n = some e →
                s.locate k a n = .error ⟨0x08, a + BitVec.ofNat 64 e, false⟩) ∧
              (s.frozenAt s.q.k.lnum s.grp 0 a.toNat n = none →
                ∃ g, s.locate k a n = .ok (g, s) ∧ g.key = tileKey s.tile a.toNat ∧ g.path = .now ∧ g.lens = 0))))))

/-- R189, R215, R218: a load, a store or an atomic whose checks fail takes the precise trap of the check, with the failing address, and has
no other effect; of stores, those that no translation station has found.

R120, R206: scope POD raises cause 0x0D, with the word, in every instruction that has a scope. -/
def Obligations.FailedAccessesTrap : Prop :=
  (∀ (s : State) (a : BitVec 5) (f : Fail), HasHandler s → s.vectorStores = false → f.code ∈ [0x04, 0x05, 0x06, 0x07, 0x08, 0x09, 0x0A, 0x0B, 0x0C] →
      (∀ i n e, LoadForm i n e → ∀ d o, s.locate .ld (address s a o n) n = .error f →
        TrapsAt (i d a o) s (BitVec.ofNat 64 f.code) f.addr) ∧
      (∀ i n, StoreForm i n → ∀ d o, s.locate .st (address s a o n) n = .error f → f.station = false →
        TrapsAt (i d a o) s (BitVec.ofNat 64 f.code) f.addr) ∧
      (∀ d o c z, c ≠ 4#3 → s.locate .sigLd (s.x a) (signalSize z) = .error f →
        TrapsAt (.ldsg d a o c z) s (BitVec.ofNat 64 f.code) f.addr) ∧
      (∀ d o c z, c ≠ 4#3 → s.locate .sigSt (s.x a) (signalSize z) = .error f → f.station = false →
        TrapsAt (.stsg d a o c z) s (BitVec.ofNat 64 f.code) f.addr) ∧
      (∀ i u, AtomicForm i u → ∀ d b o c z, c ≠ 4#3 → s.locate .amo (s.x a) (signalSize z) = .error f →
        TrapsAt (i d a b o c z) s (BitVec.ofNat 64 f.code) f.addr) ∧
      (∀ d b o c z, c ≠ 4#3 → s.locate .amo (s.x a) (signalSize z) = .error f →
        TrapsAt (.amocas d a b o c z) s (BitVec.ofNat 64 f.code) f.addr)) ∧
  (∀ (s : State) (d a b : BitVec 5) (o : BitVec 2) (z : BitVec 1), HasHandler s →
      let word (op : Nat) (d a b : BitVec 5) (fn : Nat) : BitVec 32 :=
        BitVec.ofNat 32 (op * 2 ^ 26 + d.toNat * 2 ^ 21 + a.toNat * 2 ^ 16 + b.toNat * 2 ^ 11 + fn)
      let sig := o.toNat * 512 + 4 * 64 + 32 + z.toNat * 16
      let amo (op : Nat) := op * 64 + o.toNat * 16 + 4 * 2 + z.toNat
      TrapsWord (.ldsg d a o 4#3 z) s 0x0D#64 (word 0x13 d a 0#5 sig) ∧
      TrapsWord (.stsg d a o 4#3 z) s 0x0D#64 (word 0x14 d a 0#5 sig) ∧
      TrapsWord (.amoadd d a b o 4#3 z) s 0x0D#64 (word 0x15 d a b (amo 0)) ∧
      TrapsWord (.amoand d a b o 4#3 z) s 0x0D#64 (word 0x15 d a b (amo 1)) ∧
      TrapsWord (.amoor d a b o 4#3 z) s 0x0D#64 (word 0x15 d a b (amo 2)) ∧
      TrapsWord (.amoxor d a b o 4#3 z) s 0x0D#64 (word 0x15 d a b (amo 3)) ∧
      TrapsWord (.amosmin d a b o 4#3 z) s 0x0D#64 (word 0x15 d a b (amo 4)) ∧
      TrapsWord (.amosmax d a b o 4#3 z) s 0x0D#64 (word 0x15 d a b (amo 5)) ∧
      TrapsWord (.amonmin d a b o 4#3 z) s 0x0D#64 (word 0x15 d a b (amo 6)) ∧
      TrapsWord (.amonmax d a b o 4#3 z) s 0x0D#64 (word 0x15 d a b (amo 7)) ∧
      TrapsWord (.amoswap d a b o 4#3 z) s 0x0D#64 (word 0x15 d a b (amo 8)) ∧
      TrapsWord (.amocas d a b o 4#3 z) s 0x0D#64 (word 0x15 d a b (amo 9)) ∧
      TrapsWord (.amofadd d a b o 4#3 z) s 0x0D#64 (word 0x15 d a b (amo 10)) ∧
      TrapsWord (.fence 4#3) s 0x0D#64 (word 0x16 0#5 0#5 0#5 (4 * 32)) ∧
      TrapsWord (.fencea 4#3) s 0x0D#64 (word 0x16 0#5 0#5 0#5 (256 + 4 * 32)) ∧
      TrapsWord (.fencer 4#3) s 0x0D#64 (word 0x16 0#5 0#5 0#5 (2 * 256 + 4 * 32)) ∧
      TrapsWord (.tfence 4#3) s 0x0D#64 (word 0x16 0#5 0#5 0#5 (3 * 256 + 4 * 32)))

/-- R215, R203: a load whose checks pass gives the bytes of memory, little-endian and extended as its form says, each byte being that of the
continuation's own latest store to it while that is staged; nothing else changes. R198: a store that a station holds, and whose page it
could not translate, gives its bytes too.

R194: a load of a device register gives the word or doubleword that it covers. -/
def Obligations.LoadsGiveTheBytesOfMemory : Prop :=
  ∀ i n e, LoadForm i n e → ∀ (d a : BitVec 5) (o : BitVec 14) (s s' : State) (g : Target),
    s.vectorStores = false → s.locate .ld (address s a o n) n = .ok (g, s') →
    (g.path = .now ∨ g.path = .device → g.lens = 0 → (∀ off, regionOf (address s a o n).toNat ≠ .param off) → s.viewBad g.key n = false →
      s.faultHeld = false →
      ((∀ j, j < n → s.heldByte HeldKind.stores (g.addr.toNat + j) = none) →
        ∃ t, exec (i d a o) s = .next t ∧ Steps s t d (e (leNat ((List.range n).map (fun j => seen s (g.key + j)))))) ∧
      (∀ bs : List Byte, bs.length = n → (∀ j, j < n → ∃ no, s.heldByte HeldKind.stores (g.addr.toNat + j) = (bs[j]?).map (fun b => (no, b)) ∧
          ∀ x ∈ s.staged, x.party = s.q.k.party → x.key ≤ g.key + j → g.key + j < x.key + x.bytes.length → x.seqNo ≤ no) →
        ∃ t, exec (i d a o) s = .next t ∧ Steps s t d (e (leNat bs)))) ∧
    (∀ off, g.path = .register off → s.faultHeld = false → n = 4 ∨ n = 8 →
      ∃ t, exec (i d a o) s = .next t ∧ Steps s t d (e (part (devRead s (off / 8 * 8)) off n)))

/-- R191: a load of the parameter window gives its bytes below SIZE and zeros from there on; the first such byte sets OVR, and OOFF if OVR was
clear. -/
def Obligations.ParameterLoadsReadTheWindow : Prop :=
  ∀ i n e, LoadForm i n e → ∀ (d a : BitVec 5) (o : BitVec 14) (s s' : State) (g : Target) (off : Nat),
    s.vectorStores = false → s.locate .ld (address s a o n) n = .ok (g, s') →
    regionOf (address s a o n).toNat = .param off → s.viewBad g.key n = false →
    let size := field (s.csr 0x081) 16 0
    ∃ t, exec (i d a o) s = .next t ∧ t.pc = s.pc + 4 ∧ (∀ r, r ≠ d → t.x r = s.x r) ∧
      (d ≠ 0#5 → t.x d = e (leNat ((List.range n).map (fun j =>
        if off + j < size then look s.mem (paramKey s.q.k.lnum (off + j)) else 0#8)))) ∧
      (∀ k, look t.mem k = look s.mem k) ∧ (∀ m, m ≠ 0x015 → m ≠ 0x081 → t.csr m = s.csr m) ∧
      (off + n ≤ size → t.csr 0x081 = s.csr 0x081) ∧
      (size < off + n → (t.csr 0x081).getLsbD 63 = true ∧ field (t.csr 0x081) 16 0 = size ∧
        ((s.csr 0x081).getLsbD 63 = false → field (t.csr 0x081) 47 32 = max off size))

/-- R202, R216: a store whose checks pass, to the continuation's own tile SRAM through the raw or peer window or to a device page (ATTR 2), is
performed at once, unless an exchange that is open reads those bytes (21 R205); every byte outside the stored bytes is as before. For a
device page no earlier store of the continuation that a station holds may lie over the bytes (19 R198).

R194: a store to a device register reaches it at once, as the host's write of the same word or doubleword. -/
def Obligations.StoresReachMemory : Prop :=
  ∀ i n, StoreForm i n → ∀ (d a : BitVec 5) (o : BitVec 14) (s s' : State) (g : Target),
    s.vectorStores = false → s.faultHeld = false → s.locate .st (address s a o n) n = .ok (g, s') →
    (g.lens = 0 → (g.path = .device ∧ s.heldOver HeldKind.stores (address s a o n).toNat n = false) ∨ (g.path = .now ∧ s.ownLevel g.key n = none) →
      ∃ t, exec (i d a o) s = .next t ∧ Stores s t g.key n (s.x d).toNat 0#5 0#64) ∧
    (∀ off, g.path = .register off → off < 2 ^ 32 → g.lens = 0 → n = 4 ∨ n = 8 →
      ∃ t, exec (i d a o) s = .next t ∧ WritesRegister s s' t off n (s.x d).toNat 0#5 0#64)

/-- R29, R203: any other plain store is staged to its barrier: no byte of memory changes, the staged stores gain it as the youngest of its
continuation, and the continuation's own loads find its bytes at once.

R198: a store that a translation station refuses completes: the station holds it with its fault, and no memory changes. A later store that
reaches the station, or that goes over the bytes of one which it holds (R208), is held behind it.

R205: a store to the own tile whose bytes an open exchange reads waits for that level's compute phase; only its own continuation observes it
until then. -/
def Obligations.OtherStoresAreStagedOrHeld : Prop :=
  (∀ i n, StoreForm i n → ∀ (d a : BitVec 5) (o : BitVec 14) (s s' : State) (g : Target) (lv : Level) (u : Nat),
      s.vectorStores = false → s.faultHeld = false → s.locate .st (address s a o n) n = .ok (g, s') → g.path = .staged lv u →
      ∃ t e, exec (i d a o) s = .next t ∧ t.staged = s.staged ++ [e] ∧
        e.key = g.key ∧ e.bytes.length = n ∧ leNat e.bytes = (s.x d).toNat % 2 ^ (8 * n) ∧ e.lv = lv ∧ e.unit = u ∧
        e.party = s.q.k.party ∧ e.lnum = s.q.k.lnum ∧ e.seqNo = s.q.k.storeNo ∧ t.q.k.storeNo = s.q.k.storeNo + 1 ∧
        (∀ k, look t.mem k = look s.mem k) ∧ (∀ r, t.x r = s.x r) ∧ t.pc = s.pc + 4 ∧ (∀ m, m ≠ 0x015 → t.csr m = s.csr m) ∧
        leNat ((List.range n).map (fun j => t.viewByte (g.key + j))) = (s.x d).toNat % 2 ^ (8 * n)) ∧
  (∀ i n, StoreForm i n → ∀ (d a : BitVec 5) (o : BitVec 14) (s : State) (f : Fail),
      s.vectorStores = false → s.faultHeld = false → s.q.k.fault = none → s.locate .st (address s a o n) n = .error f → f.station = true →
      ∃ t h, exec (i d a o) s = .next t ∧ t.q.k.heldAcc = s.q.k.heldAcc ++ [h] ∧ h.addr = address s a o n ∧ h.bytes.length = n ∧
        leNat h.bytes = (s.x d).toNat % 2 ^ (8 * n) ∧ t.q.k.fault = some (BitVec.ofNat 8 f.code, f.addr) ∧
        (∀ k, look t.mem k = look s.mem k) ∧ t.staged = s.staged ∧ (∀ r, t.x r = s.x r) ∧ t.pc = s.pc + 4 ∧
        (∀ m, m ≠ 0x015 → t.csr m = s.csr m)) ∧
  (∀ i n, StoreForm i n → ∀ (d a : BitVec 5) (o : BitVec 14) (s s' : State) (g : Target),
      s.vectorStores = false → s.locate .st (address s a o n) n = .ok (g, s') → g.lens = 0 →
      (s.faultHeld = true ∧ regionOf (address s a o n).toNat = .xlat) ∨
        (g.path = .device ∧ regionOf (address s a o n).toNat = .xlat ∧ s.heldOver HeldKind.stores (address s a o n).toNat n = true) ∨
        (g.path = .now ∧ regionOf (address s a o n).toNat ≠ .xlat ∧ s.ownLevel g.key n = some .tile) →
      ∃ t h, exec (i d a o) s = .next t ∧ t.q.k.heldAcc = s.q.k.heldAcc ++ [h] ∧ h.addr = address s a o n ∧ h.kind = .store ∧
        h.no = s.q.k.storeNo ∧ t.q.k.storeNo = s.q.k.storeNo + 1 ∧ h.bytes.length = n ∧ leNat h.bytes = (s.x d).toNat % 2 ^ (8 * n) ∧
        (∀ k, look t.mem k = look s.mem k) ∧ (∀ r, t.x r = s.x r) ∧ t.pc = s.pc + 4 ∧ ∀ m, m ≠ 0x015 → t.csr m = s.csr m) ∧
  (∀ i n, StoreForm i n → ∀ (d a : BitVec 5) (o : BitVec 14) (s s' : State) (g : Target) (lv : Level),
      s.vectorStores = false → s.faultHeld = false → s.locate .st (address s a o n) n = .ok (g, s') → g.lens = 0 → g.path = .now →
      s.ownLevel g.key n = some lv → lv ≠ .tile →
      ∃ t e, exec (i d a o) s = .next t ∧ t.staged = s.staged ++ [e] ∧ e.key = g.key ∧ e.bytes.length = n ∧
        leNat e.bytes = (s.x d).toNat % 2 ^ (8 * n) ∧ e.lv = .tile ∧ e.deferred = some lv ∧ e.party = s.q.k.party ∧ e.lnum = s.q.k.lnum ∧
        (∀ k, look t.mem k = look s.mem k) ∧ (∀ r, t.x r = s.x r) ∧ t.pc = s.pc + 4 ∧ (∀ m, m ≠ 0x015 → t.csr m = s.csr m) ∧
        leNat ((List.range n).map (fun j => t.viewByte (g.key + j))) = (s.x d).toNat % 2 ^ (8 * n))

/-- R217 to R221: signal loads read memory itself, signal stores and atomics change it at once; an atomic's rd takes the old value, and
AMOCAS stores X(rb) only where the old value is X(rd).

R194: those of a device register read and write the word or doubleword that they cover. -/
def Obligations.SignalAccessesAndAtomics : Prop :=
  (∀ (d a b : BitVec 5) (o : BitVec 2) (c : BitVec 3) (z : BitVec 1) (s s' : State) (g : Target) (off : Nat), c ≠ 4#3 → NothingAhead s →
    g.path = .register off → off < 2 ^ 32 →
    let n := signalSize z
    let old := part (devRead s (off / 8 * 8)) off n
    let bv := (s.x b).toNat % 2 ^ (8 * n)
    (s.locate .sigLd (s.x a) n = .ok (g, s') → ∃ t, exec (.ldsg d a o c z) s = .next t ∧ Steps s t d (signalResult z old)) ∧
    (s.locate .sigSt (s.x a) n = .ok (g, s') → s.ownHeld g.key n = false →
      ∃ t, exec (.stsg d a o c z) s = .next t ∧ WritesRegister s s' t off n (s.x d).toNat 0#5 0#64) ∧
    (s.locate .amo (s.x a) n = .ok (g, s') →
      (∀ i f, AtomicForm i f → ∃ t, exec (i d a b o c z) s = .next t ∧ WritesRegister s s' t off n (f n old bv) d (signalResult z old)) ∧
      (old = (s.x d).toNat % 2 ^ (8 * n) → ∃ t, exec (.amocas d a b o c z) s = .next t ∧ WritesRegister s s' t off n bv d (signalResult z old)) ∧
      (old ≠ (s.x d).toNat % 2 ^ (8 * n) → ∃ t, exec (.amocas d a b o c z) s = .next t ∧ Steps s t d (signalResult z old)))) ∧
  ∀ (d a b : BitVec 5) (o : BitVec 2) (c : BitVec 3) (z : BitVec 1) (s s' : State) (g : Target), c ≠ 4#3 → NothingAhead s →
    s.isBad g.key (signalSize z) = false → (∀ off, g.path ≠ .register off) →
    let n := signalSize z
    let old := leNat ((List.range n).map (fun j => look s.mem (g.key + j)))
    let bv := (s.x b).toNat % 2 ^ (8 * n)
    (s.locate .sigLd (s.x a) n = .ok (g, s') →
      ∃ t, exec (.ldsg d a o c z) s = .next t ∧ Steps s t d (signalResult z old)) ∧
    (s.locate .sigSt (s.x a) n = .ok (g, s') → s.sourceHeld s.q.k.lnum g.key n = false →
      ∃ t, exec (.stsg d a o c z) s = .next t ∧ Stores s t g.key n (s.x d).toNat 0#5 0#64) ∧
    (s.locate .amo (s.x a) n = .ok (g, s') → s.sourceHeld s.q.k.lnum g.key n = false →
      (∀ i f, AtomicForm i f → ∃ t, exec (i d a b o c z) s = .next t ∧ Stores s t g.key n (f n old bv) d (signalResult z old)) ∧
      (old = (s.x d).toNat % 2 ^ (8 * n) → ∃ t, exec (.amocas d a b o c z) s = .next t ∧ Stores s t g.key n bv d (signalResult z old)) ∧
      (old ≠ (s.x d).toNat % 2 ^ (8 * n) → ∃ t, exec (.amocas d a b o c z) s = .next t ∧ Steps s t d (signalResult z old)))

/-- R223, R199: a fence whose scope is not POD completes once every earlier access of the continuation is performed, its messages too; it
changes no register and no memory. FENCEA completes at once. TFENCE drops the cached translations of the launch's space at the stations of
its own die, and of every die at scope PKG.

That FENCEA completes at once, with nothing ahead of it that it could wait for, is the model's choice (log 18): this model performs accesses
in program order. -/
def Obligations.FencesComplete : Prop :=
  ∀ (c : BitVec 3) (s : State), c ≠ 4#3 →
    (NothingAhead s → ∃ t, exec (.fence c) s = .next t ∧ WritesOnly s t 0#5 0#64 (s.pc + 4)) ∧
    (NothingAhead s → ∃ t, exec (.fencer c) s = .next t ∧ WritesOnly s t 0#5 0#64 (s.pc + 4)) ∧
    (∃ t, exec (.fencea c) s = .next t ∧ WritesOnly s t 0#5 0#64 (s.pc + 4)) ∧
    (∃ t, exec (.tfence c) s = .next t ∧ Steps s t 0#5 0#64 ∧
      ∀ p ∈ t.dies, (p.1 = s.die ∨ c = 3#3) → ∀ e ∈ p.2.tlb, e.space ≠ s.launch.space)

/-! ## Synchronisation (23) -/

/-- R228, R229: the counter and ticket instructions. CTRADD wraps at 48 bits; TKGET hands out the next ticket and TKNEXT, once no access of the
continuation is held back, serves one more; CTRRD reads. No other counter or ticket of the set changes.

R230, R231: the channel instructions move n slots between free and filled, with the pointers modulo the slot count, and leave a channel with
too few slots alone, raising cause 0x11; n = 0 has no effect. CHRD reads the counts and pointers.

R231: CHSET lays out an empty channel where its fields keep their limits and the region lies in the launch's share; else it traps with
cause 0x15, 0x05 or 0x0B in that order and BADADDR X(ra). -/
def Obligations.CountersTicketsAndChannels : Prop :=
  (∀ (d a : BitVec 5) (n : BitVec 4) (s : State),
      (∃ t, exec (.ctradd a n) s = .next t ∧ Steps s t 0#5 0#64 ∧ counter t n = counter s n + (s.x a).setWidth 48 ∧
        ∀ m, m ≠ n → counter t m = counter s m) ∧
      (∃ t, exec (.ctrrd d n) s = .next t ∧ WritesOnly s t d ((counter s n).setWidth 64) (s.pc + 4)) ∧
      (∃ t, exec (.tkget d a) s = .next t ∧ Steps s t d ((nextTicket s a).setWidth 64) ∧
        (∀ b, t.x b = s.x b → nextTicket t b = nextTicket s b + (if field (s.x b) 5 0 = field (s.x a) 5 0 then 1 else 0) ∧
          nowServing t b = nowServing s b)) ∧
      (NothingAhead s → ∃ t, exec (.tknext a) s = .next t ∧ Steps s t 0#5 0#64 ∧
        ∀ b, nowServing t b = nowServing s b + (if field (s.x b) 5 0 = field (s.x a) 5 0 then 1 else 0) ∧ nextTicket t b = nextTicket s b)) ∧
  (∀ (d a : BitVec 5) (c : BitVec 3) (s : State),
      let n := (s.x a).toNat
      let x := channel s c
      (n = 0 → CompletesPlainly (.chap a c) s ∧ CompletesPlainly (.chac a c) s) ∧
      (n ≠ 0 → n ≤ x.free → NothingAhead s → ∃ t, exec (.chap a c) s = .next t ∧ Steps s t 0#5 0#64 ∧
        channel t c = { x with filled := x.filled + n, free := x.free - n, pptr := (x.pptr + n) % x.count } ∧
        ∀ e, e ≠ c → channel t e = channel s e) ∧
      (n ≠ 0 → n ≤ x.filled → NothingAhead s → ∃ t, exec (.chac a c) s = .next t ∧ Steps s t 0#5 0#64 ∧
        channel t c = { x with filled := x.filled - n, free := x.free + n, cptr := (x.cptr + n) % x.count } ∧
        ∀ e, e ≠ c → channel t e = channel s e) ∧
      (∃ t, exec (.chrd d c) s = .next t ∧
        WritesOnly s t d (BitVec.ofNat 64 (x.cptr * 2 ^ 24 + x.pptr * 2 ^ 16 + x.free * 2 ^ 8 + x.filled)) (s.pc + 4)) ∧
      (HasHandler s →
        (n ≠ 0 → x.free < n → TrapsPlain (.chap a c) s 0x11#64) ∧ (n ≠ 0 → x.filled < n → TrapsPlain (.chac a c) s 0x11#64) ∧
        (x.count < n → TrapsPlain (.chwf a c) s 0x11#64 ∧ TrapsPlain (.chwe a c) s 0x11#64))) ∧
  (∀ (a b : BitVec 5) (c : BitVec 3) (s : State),
      let base := s.x a
      let cnt := field (s.x b) 22 16
      let size := field (s.x b) 12 0
      let good : Prop := field (s.x b) 63 23 = 0 ∧ field (s.x b) 15 13 = 0 ∧ 1 ≤ cnt ∧ cnt ≤ 64 ∧ 32 ≤ size ∧ size ≤ 4096 ∧ size % 32 = 0 ∧
        field base 63 17 = 0 ∧ base.toNat % 32 = 0
      (good → base.toNat + cnt * size ≤ 0x18000 → s.outsideShare s.q.k.lnum s.homeTile base.toNat (cnt * size) = none →
        ∃ t, exec (.chset a b c) s = .next t ∧ Steps s t 0#5 0#64 ∧
          channel t c = { base := base.toNat, size := size, count := cnt, filled := 0, free := cnt, pptr := 0, cptr := 0 }) ∧
      (HasHandler s → ¬ good → TrapsAt (.chset a b c) s 0x15#64 base) ∧
      (HasHandler s → good → 0x18000 < base.toNat + cnt * size → TrapsAt (.chset a b c) s 0x05#64 base) ∧
      (HasHandler s → good → base.toNat + cnt * size ≤ 0x18000 →
        (s.outsideShare s.q.k.lnum s.homeTile base.toNat (cnt * size)).isSome = true → TrapsAt (.chset a b c) s 0x0B#64 base))

/-- R225, R228, R229, R230, R233: a wait whose condition holds completes at once and changes nothing else.

R23, R225, R64: a wait whose condition does not hold has no effect but to hold the sequencer for WHOLD clk; with WHOLD 0 it suspends at
once, with the PC at the next instruction and its descriptor of KIND, OBJECT and THRESHOLD. So do WAITC, TKWAIT, CHWF, CHWE, BARW and XWT,
and XTLW in both its forms (27 R267). -/
def Obligations.WaitsCompleteOrHold : Prop :=
  (∀ (a b : BitVec 5) (n : BitVec 4) (c : BitVec 3) (l : BitVec 2) (s : State),
      (field (s.x a) 47 0 ≤ (counter s n).toNat → CompletesPlainly (.waitc a n) s) ∧
      (field (s.x b) 47 0 ≤ (nowServing s a).toNat → CompletesPlainly (.tkwait a b) s) ∧
      ((s.x a).toNat = 0 ∨ ((s.x a).toNat ≤ (channel s c).count ∧ (s.x a).toNat < 2 ^ 48 ∧ (s.x a).toNat ≤ (channel s c).filled) →
        CompletesPlainly (.chwf a c) s) ∧
      ((s.x a).toNat = 0 ∨ ((s.x a).toNat ≤ (channel s c).count ∧ (s.x a).toNat < 2 ^ 48 ∧ (s.x a).toNat ≤ (channel s c).free) →
        CompletesPlainly (.chwe a c) s) ∧
      (s.q.hold = none → (s.barOf s.q.k.lnum (s.lvOf l) s.grp).exch = false → CompletesPlainly (.xwt l) s)) ∧
  (∀ (s : State) (i : Instr) (kind object threshold : Nat), NotYet s i kind object threshold → s.q.hold = none → s.q.mode = .run →
      let desc := waitWord kind object threshold
      (field s.q.whold 15 0 ≠ 0 →
        exec i s = .next { s with q := { s.q with hold := some (.wait desc (s.clk + field s.q.whold 15 0)) } }) ∧
      (field s.q.whold 15 0 = 0 → ∃ t, exec i s = .next t ∧ t.q.mode = .writeBack desc ∧ t.pc = s.pc + 4 ∧
        (∀ r, t.x r = s.x r) ∧ (∀ k, look t.mem k = look s.mem k)))

/-- R227: MSGS, its checks passed and no access of its continuation held back, reads its payload and posts the message; nothing at the receiver
changes yet.

R227, R42: a message that is its sender's first to its tile is performed at the receiver, and then its counter counts it. -/
def Obligations.MessagesArePostedAndDelivered : Prop :=
  (∀ (a b : BitVec 5) (n : BitVec 4) (s : State),
      let len := 8 * (field (s.x b) 33 31 + 1)
      (msgFault s (s.x a) (s.x b) = none → NothingAhead s →
        ∃ t m, exec (.msgs a b n) s = .next t ∧ Steps s t 0#5 0#64 ∧ t.msgs = s.msgs ++ [m] ∧ m.mcn = n.toNat ∧ m.off = field (s.x b) 16 0 ∧
          m.toTile = field (s.x b) 30 28 * 2048 + field (s.x b) 27 21 * 16 + field (s.x b) 20 17 ∧
          m.data = (List.range len).map (fun i => look s.mem (tileKey s.tile ((s.x a).toNat + i)))) ∧
      (HasHandler s → 0x18000 < (s.x a).toNat + len → TrapsAt (.msgs a b n) s 0x05#64 (s.x a)) ∧
      (HasHandler s → (s.x a).toNat + len ≤ 0x18000 → field (s.x b) 16 0 + len ≤ 0x18000 →
        ((s.x a).toNat % 8 ≠ 0 → TrapsAt (.msgs a b n) s 0x04#64 (s.x a)) ∧
        ((s.x a).toNat % 8 = 0 → field (s.x b) 16 0 % 8 ≠ 0 → TrapsAt (.msgs a b n) s 0x04#64 (s.x b)))) ∧
  (∀ (m : Message) (s : State), s.msgs.find? (fun o => o.id == m.id) = some m →
      (∀ o ∈ s.msgs, o.sender = m.sender → o.toTile = m.toTile → m.id ≤ o.id) →
      s.frozenAt m.lnum (grpOf m.toTile) 0 m.off m.data.length = none → s.sourceHeld m.lnum (tileKey m.toTile m.off) m.data.length = false →
      ∃ t, exec (.messageDelivery m.id) s = .next t ∧
        (List.range m.data.length).map (fun i => look t.mem (tileKey m.toTile m.off + i)) = m.data ∧
        (∀ k, k < tileKey m.toTile m.off ∨ tileKey m.toTile m.off + m.data.length ≤ k → look t.mem k = look s.mem k) ∧
        (∀ o ∈ t.msgs, o.id ≠ m.id) ∧
        look (t.tileAt m.toTile).mc (m.mcn + if m.sec then 16 else 0) = look (s.tileAt m.toTile).mc (m.mcn + if m.sec then 16 else 0) + 1)

/-- R30, R34, R232: BARA, once its continuation's accesses are performed or staged and its earlier superstep is over, sends its arrival with
X(ra) and min(bits(X(rb), 7, 0), 0xEF) at its level, the identity and the same code at every level inside, and goes on; inside the containing
level of an escalation in force, it only discards what the continuation has staged since the release that escalated (03 R38). While a
drain of the continuation is open that nothing else holds back, BARA waits: that is how the model reads "no later than a plain store"
(21 R202, log 196).

R28, R232, R233: EXEND never waits and marks the continuation's member in an open exchange; BARW with no arrival standing completes at
once, and BARV holds the value of the latest release. -/
def Obligations.ArrivalsExendAndBarw : Prop :=
  (∀ (a b : BitVec 5) (l : BitVec 2) (s : State), s.drainsOpen = true → ∃ t, exec (.bara a b l) s = .next t ∧ t = { s with q := { s.q with hold := some .other } }) ∧
  (∀ (a b : BitVec 5) (l : BitVec 2) (s : State), s.vectorStores = false → s.stationHeld = false → s.drainsOpen = false →
      let lv := s.lvOf l
      let code := min (field (s.x b) 7 0) 0xEF
      (s.owes = none → s.insideEscaped lv = false → s.copiesBefore s.q.k.lnum s.homeTile s.q.k.role.toNat lv s.grp = false → s.baraWaits .group lv = false →
        ∃ t, exec (.bara a b l) s = .next t ∧ Steps s t 0#5 0#64 ∧
          (∃ x ∈ (t.barOf s.q.k.lnum lv s.grp).arrs, x.party = s.q.k.party ∧ x.value = s.x a ∧ x.code = code ∧ x.ended = false) ∧
          ∀ v ∈ levelsFrom .group lv, v ≠ lv → ∃ x ∈ (t.barAt s.q.k.lnum v (unitOf v s.grp)).arrs,
            x.party = s.q.k.party ∧ x.value = barIdentity (s.launch.opOf v) ∧ x.code = code) ∧
      (s.insideEscaped lv = true → ∃ t, exec (.bara a b l) s = .next t ∧ (∀ k, look t.mem k = look s.mem k) ∧
        t.pc = s.pc + 4 ∧ (∀ r, t.x r = s.x r) ∧ (∀ e ∈ t.staged, e ∈ s.staged) ∧
        ∀ e ∈ t.staged, e.party = s.q.k.party → e.lnum = s.q.k.lnum → e.lv ≠ .tile → e.deferred = none →
          ∀ p ∈ s.inForce, (State.stepOf e p.1).toNat < p.2.opened.toNat)) ∧
  (∀ (l : BitVec 2) (s : State),
      (∃ t, exec (.exend l) s = .next t ∧ Steps s t 0#5 0#64 ∧
        ((s.barAt s.q.k.lnum (s.lvOf l) (unitOf (s.lvOf l) s.grp)).exch = true →
          s.ownMember ∈ (t.barAt s.q.k.lnum (s.lvOf l) (unitOf (s.lvOf l) s.grp)).exend)) ∧
      (s.q.hold = none → s.owes = none → s.arrivedAt (s.lvOf l) = false →
        ∃ t, exec (.barw l) s = .next t ∧ t.pc = s.pc + 4 ∧ (∀ r, t.x r = s.x r) ∧ (∀ k, look t.mem k = look s.mem k) ∧
          t.csr 0x061 = (s.barOf s.q.k.lnum (s.lvOf l) s.grp).relValue ∧
          (∀ n, n ≠ 0x015 → n ≠ 0x060 → n ≠ 0x061 → t.csr n = s.csr n) ∧
          ((s.barOf s.q.k.lnum (s.lvOf l) s.grp).relCode = 0 → t.csr 0x060 = s.csr 0x060)))

/-- Node h, i of the fixed tree of R84: an absent leaf passes its sibling through. -/
def treeNode {α : Type} (join : α → α → α) (leaf : Nat → Option α) : Nat → Nat → Option α
  | 0, i => leaf i
  | h + 1, i =>
    match treeNode join leaf h (2 * i), treeNode join leaf h (2 * i + 1) with
    | some a, some b => some (join a b)
    | some a, none => some a
    | none, r => r

/-- The operators of R35, by their codes, and their identities. -/
def barrierJoin (op : Nat) (a b : Word) : Word :=
  [0#64, a + b, if a.toInt ≤ b.toInt then a else b, if a.toInt ≤ b.toInt then b else a, if a.toNat ≤ b.toNat then a else b,
   if a.toNat ≤ b.toNat then b else a, a &&& b, a ||| b, a ^^^ b, add64 a b].getD op 0#64
def barrierIdentity (op : Nat) : Word :=
  [0#64, 0#64, 0x7FFFFFFFFFFFFFFF#64, 0x8000000000000000#64, -1#64, 0#64, -1#64, 0#64, 0#64, 0#64].getD op 0#64

/-- TS order (05 R56), against a home group's superstep counter in deterministic mode: a is lower than b. -/
def TsLower (det : Bool) (ssc a b : Word) : Prop :=
  let distance (w : Word) : Nat := (field ssc 23 0 + 2 ^ 24 - field w 63 40) % 2 ^ 24
  if det then distance b < distance a ∨ distance a = distance b ∧ field a 39 0 < field b 39 0 else a.toNat < b.toNat

/-- The commit key of R348: the issuer's place (package, die, home group and tile, role), its TS, its program order. -/
def AppliedBefore (s : State) (l : Nat) (a b : Staged) : Prop :=
  let lower (x y : Word) : Prop := TsLower (s.launchAt l).det (s.barOf l .group (a.place / 64 % 1024)).count x y
  a.place < b.place ∨ a.place = b.place ∧ (lower a.ts b.ts ∨ (¬ lower a.ts b.ts ∧ ¬ lower b.ts a.ts) ∧ a.seqNo < b.seqNo)

def Covers (e : Staged) (k : Nat) : Prop := e.key ≤ k ∧ k < e.key + e.bytes.length

/-- What a byte holds once the stores that are due have been applied in an order: the byte of the last store that covers it, where that store is not of
one half of the byte (07 R78), else what it held. -/
def Commits (s : State) (mem : Memory) (due : Staged → Prop) (before : Staged → Staged → Prop) (k : Nat) : Prop :=
  (∀ e ∈ s.staged, due e → Covers e k → (∀ o ∈ s.staged, due o → Covers o k → o = e ∨ before o e) → e.nib = none → some (look mem k) = e.bytes[k - e.key]?) ∧
  ((∀ e ∈ s.staged, due e → ¬ Covers e k) → look mem k = look s.mem k)

/-- A key that a launch's end zeroes: of a record slot, of a block slot of one of its handles, of its parameter window (05 R54, 27 R272). -/
def ClearedAtEnd (s : State) (l k : Nat) : Prop :=
  (∃ g i, i < 256 ∧ recKey g i ≤ k ∧ k < recKey g i + 64) ∨ (paramKey l 0 ≤ k ∧ k < paramKey l 0 + 2 ^ 16) ∨
  ∃ d h b, d < dieCount s.form ∧ (h ∈ (s.dieAt d).handles.map (·.2) ∨ h ∈ (s.dieAt d).unbound) ∧ h.lnum = l ∧ b < h.blocks ∧
    h.key d b ≤ k ∧ k < h.key d b + h.slotSize

/-- R28, R34, R41, R48, R84, R204, R348, R357: the other steps of a barrier and the sweep. A member of this package whose continuations have all
arrived sends its arrival; a group member's value is the tree over its continuations' values in TS order (of two equal TS the earlier arrival
comes first, the model's choice, log 176, so the clause asks for different ones), its code the greatest. The compute phase begins when the exchange
has ended, and what waited for it commits, byte by byte in R348's order, where no open exchange reads. A launch that is idle with matching counts
in two sweeps ends: what it still has staged commits, from the inner levels outward, in R348's order at each barrier, and its completion record is
written. What becomes of the early writes that wait at that moment is the model's choice (log 46). That a store in error does not commit at
a deferred commit and at the end of a launch, while R36 speaks of a barrier's release alone, is the model's choice too (00 R4, log 189).

R28, R33, R35, R84, R204: a barrier whose members have all arrived, in its compute phase, completes: the next superstep opens in its exchange
phase with no arrivals; the release value is the tree over the members' values, a member outside the footprint holding the identity, and its code
the greatest of the arrivals', of the hardware's and of 0xF2 where an uncorrectable error struck a store that is due (03 R36). With code 0 every byte
of the stores staged to it commits in R348's order, or, where an outer exchange reads it, stays as it is, and is deferred (39 R357). -/
def Obligations.BarriersCompleteAndLaunchesEnd : Prop :=
  (∀ (l : BitVec 16) (f : BitVec 2) (u : BitVec 10) (m : BitVec 11) (v : Level) (s : State), s.barUnit l.toNat f u.toNat = some v →
      (v ≠ .pod ∨ m.toNat = s.index → m.toNat ∈ s.unitMembers l.toNat v u.toNat → find? (s.barAt l.toNat v u.toNat).members m.toNat = none →
        s.unitReady l.toNat v u.toNat m.toNat = true →
        ∃ t, exec (.barrierArrival l f u m none) s = .next t ∧
          (∃ c, find? (t.barAt l.toNat v u.toNat).members m.toNat = some ((s.unitValue l.toNat v u.toNat m.toNat).1, c)) ∧
          (∀ xs : List ContArr, v = .group → xs.Perm ((s.barAt l.toNat v u.toNat).arrs.filter (fun a => a.member == u.toNat * 48 + m.toNat)) →
            xs.Pairwise (fun a b => TsLower (s.launchAt l.toNat).det (s.barAt l.toNat v u.toNat).count a.ts b.ts) →
            ∀ h op, op = (s.launchAt l.toNat).barOps.getD 0 0 → op ≤ 9 → xs.length ≤ 2 ^ h → h = 0 ∨ 2 ^ (h - 1) < xs.length →
              ∃ c, find? (t.barAt l.toNat v u.toNat).members m.toNat = some
                ((treeNode (barrierJoin op) (fun i => (xs[i]?).bind (fun a => if a.ended then none else some a.value)) h 0).getD (barrierIdentity op), c) ∧
              (∀ a ∈ xs, a.code ≤ c) ∧ (c = 0 ∨ (∃ a ∈ xs, a.code = c) ∨ c = s.hwCode l.toNat v u.toNat (some m.toNat))) ∧
          t.mem = s.mem ∧ t.staged = s.staged ∧ t.q = s.q) ∧
      (s.computeReady l.toNat v u.toNat = true →
        ∃ t, exec (.computePhaseBegin l f u) s = .next t ∧ (t.barAt l.toNat v u.toNat).exch = false ∧
          (t.barAt l.toNat v u.toNat).count = (s.barAt l.toNat v u.toNat).count ∧
          ((∀ d ∈ s.dies, ∀ c ∈ d.2.copies, c.lnum ≠ l.toNat) → (∀ b ∈ s.bars, b.1 / 2048 / 5 = l.toNat → b.2.reads = []) →
            (∀ e ∈ s.staged, e.lnum = l.toNat → e.lv ≠ .tile → ∀ w, e.deferred = some w → w = v ∧ unitOf v e.grp = u.toNat) →
            (∀ e ∈ t.staged, e.lnum = l.toNat → e.lv ≠ .tile → e.deferred = some v → unitOf v e.grp ≠ u.toNat) ∧
            ∀ k, (∀ e ∈ s.staged, e.lnum = l.toNat → e.lv = .tile → e.deferred = some v → unitOf v e.grp = u.toNat → ¬ Covers e k) →
              Commits s t.mem (fun e => e.lnum = l.toNat ∧ e.lv ≠ .tile ∧ e.deferred = some v ∧ unitOf v e.grp = u.toNat ∧ e.bad = false)
                (AppliedBefore s l.toNat) k)) ∧
      (∀ x, s.launchAt? l.toNat = some x → x.halted = none → x.placed = true → x.pods = false → x.nextSweep ≤ s.clk → s.launchIdle l.toNat = true →
        s.sentSum l.toNat = s.receivedSum l.toNat →
        (x.sweep = none → ∃ t y, exec (.sweep l none) s = .next t ∧ t.launchAt? l.toNat = some y ∧
          y = { x with sweep := some (s.sentSum l.toNat, s.receivedSum l.toNat), nextSweep := s.clk + s.sweepGap }) ∧
        (x.sweep = some (s.sentSum l.toNat, s.receivedSum l.toNat) →
          ∃ (t w : State) (n : Nat) (d : BitVec 3) (a : Word), exec (.sweep l none) s = .next t ∧ t.launchAt? l.toNat = none ∧ (∀ e ∈ t.staged, e.lnum ≠ l.toNat) ∧
            t = w.report x.space x.compl (State.completion 0 n d a []) ∧
            ∀ k, ¬ ClearedAtEnd s l.toNat k →
              Commits s w.mem (fun e => e.lnum = l.toNat ∧ e.bad = false ∧ e.deferred ≠ some .tile)
                (fun a b => a.lv.num < b.lv.num ∨ a.lv = b.lv ∧ a.unit = b.unit ∧ AppliedBefore s l.toNat a b) k))) ∧
  (∀ (l : BitVec 16) (f : BitVec 2) (u : BitVec 10) (v : Level) (s : State), s.barUnit l.toNat f u.toNat = some v →
      s.completeReady l.toNat v u.toNat = true →
      ∃ t, exec (.barrierComplete l f u) s = .next t ∧
        let b := t.barAt l.toNat v u.toNat
        b.count = (s.barAt l.toNat v u.toNat).count + 1 ∧ b.exch = true ∧ b.arrs = [] ∧ b.members = [] ∧ b.exend = [] ∧
        (let old := s.barAt l.toNat v u.toNat
         let op := (s.launchAt l.toNat).barOps.getD (v.num - 1) 0
         let (n, h) : Nat × Nat := match v with
           | .group => (48, 6)
           | .die => (128, 7)
           | .package => (8, 3)
           | _ => (2048, 11)
         let leaf (i : Nat) : Option Word := if i < n then some (((find? old.members i).map (·.1)).getD (barrierIdentity op)) else none
         let due (e : Staged) : Prop := e.lnum = l.toNat ∧ e.lv = v ∧ e.unit = u.toNat ∧ e.deferred = none
         let readOutside (k : Nat) : Bool := (s.openReads l.toNat).any (fun r => decide (v.num < r.1.num) && overlaps r.2.1 r.2.2.1 k 1)
         (op = 0 → b.relValue = 0#64) ∧
         (op ≠ 0 → op ≤ 9 → some b.relValue = treeNode (barrierJoin op) leaf h 0) ∧
         (∀ p ∈ old.members, p.2.2 ≤ b.relCode) ∧ s.hwCode l.toNat v u.toNat none ≤ b.relCode ∧
         ((∃ e ∈ s.staged, due e ∧ e.bad = true) → 0xF2 ≤ b.relCode) ∧
         (b.relCode = 0 ∨ (∃ p ∈ old.members, p.2.2 = b.relCode) ∨ b.relCode = s.hwCode l.toNat v u.toNat none ∨
           b.relCode = 0xF2 ∧ ∃ e ∈ s.staged, due e ∧ e.bad = true) ∧
         (b.relCode = 0 → ∀ k,
           (readOutside k = false → Commits s t.mem due (AppliedBefore s l.toNat) k) ∧
           (readOutside k = true → look t.mem k = look s.mem k ∧ ∀ e ∈ s.staged, due e → Covers e k →
             ∃ x ∈ t.staged, x.lnum = l.toNat ∧ x.deferred.isSome = true ∧ Covers x k ∧ x.bytes[k - x.key]? = e.bytes[k - e.key]?))) ∧
        (b.relCode = 0 →
          ∀ e ∈ t.staged, e.lnum = l.toNat → e.lv = v → e.unit = u.toNat → e.deferred.isSome = true) ∧
        (b.relCode ≠ 0 →
          (∀ k, look t.mem k = look s.mem k) ∧
          ∀ e ∈ t.staged, e.lnum = l.toNat → e.lv ≠ .tile → e.deferred ≠ some .tile → unitOf v e.grp = u.toNat →
            State.stepOf e v ≠ (s.barAt l.toNat v u.toNat).count))

/-- R23, R234, R235: SPAWN makes one ready record in the issuer's group, and SUSP, YIELD and DONE leave their sequencer; the vector queue is empty
and no station holds an access. DONE frees its record slot, whose bytes become zero, and returns its spill area to its launch's pool, with
what the spill engine still buffers for it; no other byte of memory and no staged store changes. -/
def Obligations.ContinuationsSpawnSuspendAndEnd : Prop :=
  ∀ (a b : BitVec 5) (p : BitVec 1) (r : BitVec 2) (s : State), s.q.vq = [] → s.stationHeld = false →
    (∀ i slot, s.q.hold = none → field (s.x a) 1 0 = 0 → s.launch.freeArea = some i → (s.launch.det = true → s.spawnsNow ≠ 65536) →
      s.freeSlotOf s.grp = some slot → s.launchAt? s.q.k.lnum ≠ none → s.q.k.lnum < 65536 →
      ∃ t, exec (.spawn a b p r) s = .next t ∧ t.pc = s.pc + 4 ∧ (∀ x, t.x x = s.x x) ∧
        t.recState s.grp slot = 1 ∧ t.recLnum s.grp slot = s.q.k.lnum ∧ t.recRole s.grp slot = r.toNat ∧
        t.recDword s.grp slot 0 = s.x a ∧ t.recDword s.grp slot 56 = s.x b ∧ t.launch.areas = s.launch.areas ++ [i] ∧
        (∀ k, k < recKey s.grp slot ∨ recKey s.grp slot + 64 ≤ k → look t.mem k = look s.mem k) ∧
        ∀ n, n ≠ 0x015 → t.csr n = s.csr n) ∧
    (∃ t, exec .susp s = .next t ∧ t.q.mode = .writeBack 0 ∧ t.pc = s.pc + 4 ∧ ∀ x, t.x x = s.x x) ∧
    (s.yieldsTo = true → ∃ t, exec .yield s = .next t ∧ t.q.mode = .writeBack 0 ∧ t.pc = s.pc + 4 ∧ ∀ x, t.x x = s.x x) ∧
    (s.yieldsTo = false → CompletesPlainly .yield s) ∧
    (∃ t, exec .done s = .next t ∧ t.q.mode = .idle ∧ t.csr 0x015 = s.csr 0x015 + 1 ∧
      t.recState s.grp s.q.k.slot = 0 ∧ (∀ i, i < 64 → look t.mem (recKey s.grp s.q.k.slot + i) = 0#8) ∧
      (∀ k, k < recKey s.grp s.q.k.slot ∨ recKey s.grp s.q.k.slot + 64 ≤ k → look t.mem k = look s.mem k) ∧ t.staged = s.staged ∧
      (∀ x, s.launchAt? s.q.k.lnum = some x →
        t.launchAt? s.q.k.lnum = some { x with areas := x.areas.filter (fun i => decide (x.areaAddr i ≠ s.q.k.spill)) }) ∧
      find? (t.groupAt s.grp).side s.q.k.slot = none ∧
      (t.groupAt s.grp).spills = (s.groupAt s.grp).spills.filter (fun e => decide (e.party ≠ s.q.k.party)))

/-! ## Vector instructions (15) -/

/-- R148, R155, R167: an instruction that is pushed, to a queue with room, completes at once: its entry takes VL, FRM.RM, FTZ, the lens bindings
and its scalar operands; the random counter advances where it draws. VENC and VDEC name a lens with a binding. -/
def Obligations.VectorInstructionsArePushed : Prop :=
  (∀ i op draws, Pushes i op draws → ∀ s : State, s.q.vq.length < 16 →
    ∃ t e, exec i s = .next t ∧ e.op = op s ∧ Pushed s t e (draws s)) ∧
  (∀ (d a : BitVec 5) (n k : BitVec 3) (s : State), s.q.vq.length < 16 → (s.csr (0x08F + n.toNat)).setWidth 32 ≠ 0#32 →
    let l : BitVec 32 := (s.csr (0x08F + n.toNat)).setWidth 32
    (∃ t e, exec (.venc d a n k) s = .next t ∧ e.op = .enc d a l k ∧ Pushed s t e (dRnd l == 1)) ∧
    (∃ t e, exec (.vdec d a n k) s = .next t ∧ e.op = .dec d a l k ∧ Pushed s t e false)) ∧
  (∀ (d a : BitVec 5) (n k : BitVec 3) (s : State), HasHandler s → (s.csr (0x08F + n.toNat)).setWidth 32 = 0#32 →
    TrapsAt (.venc d a n k) s 0x05#64 (BitVec.ofNat 64 (n.toNat * 0x100000)) ∧
    TrapsAt (.vdec d a n k) s 0x05#64 (BitVec.ofNat 64 (n.toNat * 0x100000)))

/-- NaN and signalling NaN in binary32, and the order of the other words as integers, both zeros 0; under FTZ a subnormal is read as zero. -/
def nan (v : BitVec 32) : Bool := decide (v.toNat / 2 ^ 23 % 256 = 255) && decide (v.toNat % 2 ^ 23 ≠ 0)
def signalling (v : BitVec 32) : Bool := nan v && !v.getLsbD 22
def rank (ftz : Bool) (v : BitVec 32) : Int :=
  let m : Nat := if ftz = true ∧ v.toNat % 2 ^ 31 < 2 ^ 23 then 0 else v.toNat % 2 ^ 31
  if v.getLsbD 31 then -(m : Int) else m

/-- The conditions of the compares, and what raises NV (15 R154). -/
def condition (f : CmpFn) (ftz : Bool) (a b : BitVec 32) : Bool :=
  match f with
  | .eqF => !nan a && !nan b && decide (rank ftz a = rank ftz b)
  | .ltF => !nan a && !nan b && decide (rank ftz a < rank ftz b)
  | .leF => !nan a && !nan b && decide (rank ftz a ≤ rank ftz b)
  | .unF => nan a || nan b
  | .eqI => decide (a = b)
  | .ltI => decide (a.toInt < b.toInt)
  | .ltN => decide (a.toNat < b.toNat)
def invalid (f : CmpFn) (a b : BitVec 32) : Bool :=
  match f with
  | .eqF => signalling a || signalling b
  | .unF => signalling a || signalling b
  | .ltF => nan a || nan b
  | .leF => nan a || nan b
  | _ => false

/-- The nodes and identities of the reductions (15 R158). `rm`: FRM.RM at push, 4 acting as RNE. -/
def redJoin (f : RedFn) (rm : Nat) (ftz : Bool) (a b : BitVec 32) : BitVec 32 :=
  match f with
  | .addF => (add32 ([Rnd.rne, .rtz, .rup, .rdn].getD rm .rne) ftz a b).1
  | .minF => (min32 ftz a b).1
  | .maxF => (max32f ftz a b).1
  | .addI => a + b
  | .minI => if a.toInt ≤ b.toInt then a else b
  | .maxI => if a.toInt ≤ b.toInt then b else a
  | .minN => if a.toNat ≤ b.toNat then a else b
  | .maxN => if a.toNat ≤ b.toNat then b else a
  | .and => a &&& b
  | .or => a ||| b
  | .xor => a ^^^ b
def redZero (f : RedFn) : BitVec 32 :=
  match f with
  | .minF => 0x7F800000#32
  | .maxF => 0xFF800000#32
  | .minI => 0x7FFFFFFF#32
  | .maxI => 0x80000000#32
  | .minN => 0xFFFFFFFF#32
  | .and => 0xFFFFFFFF#32
  | _ => 0#32

/-- The inclusive scan over the first m leaves (07 R86): the nodes of the aligned blocks of m, from the left, without those that have no leaf. -/
def scanNode {α : Type} (join : α → α → α) (leaf : Nat → Option α) (m : Nat) : Option α :=
  (List.range 7).foldl (fun acc j =>
    let a := 6 - j
    if m / 2 ^ a % 2 = 1 then
      match acc, treeNode join leaf a (m / 2 ^ (a + 1) * 2) with
      | some x, some y => some (join x y)
      | some x, none => some x
      | none, r => r
    else acc) none

/-- philox (15 R165): the words of the block at a counter under a key. -/
def philoxRun : Nat → BitVec 32 → BitVec 32 → BitVec 32 → BitVec 32 → BitVec 32 → BitVec 32 → List (BitVec 32)
  | 0, c0, c1, c2, c3, _, _ => [c0, c1, c2, c3]
  | r + 1, c0, c1, c2, c3, k0, k1 =>
    let p : BitVec 64 := 0xD2511F53#64 * c0.setWidth 64
    let q : BitVec 64 := 0xCD9E8D57#64 * c2.setWidth 64
    philoxRun r (q.extractLsb' 32 32 ^^^ c1 ^^^ k0) (q.setWidth 32) (p.extractLsb' 32 32 ^^^ c3 ^^^ k1) (p.setWidth 32)
      (k0 + 0x9E3779B9#32) (k1 + 0xBB67AE85#32)
def philoxBlock (key : Word) (ctr : Nat) : List (BitVec 32) :=
  philoxRun 10 (BitVec.ofNat 32 ctr) (BitVec.ofNat 32 (ctr / 2 ^ 32)) (BitVec.ofNat 32 (ctr / 2 ^ 64)) (BitVec.ofNat 32 (ctr / 2 ^ 96))
    (key.setWidth 32) (key.extractLsb' 32 32)
/-- The random word of lane i of an instruction with its first block at a counter (07 R77). -/
def randomWord (key : Word) (ctr i : Nat) : BitVec 32 := (philoxBlock key (ctr + i / 4)).getD (i % 4) 0#32

/-- Of the lanes 0 to 63, those of V(d) that p names get a value, and no other lane of any vector register changes. -/
def LanesGet (s t : State) (d : BitVec 5) (p : Nat → Bool) (v : Nat → BitVec 32) : Prop :=
  ∀ n i, i < 64 → lane t n i = if n = d ∧ p i = true then v i else lane s n i
/-- M(d) gets its 64 bits, unless it is m0, and no other mask changes. -/
def MaskGets (s t : State) (d : BitVec 3) (v : Nat → Bool) : Prop :=
  t.q.k.vreg = s.q.k.vreg ∧ ∀ m i, i < 64 → selects t m i = if m = d ∧ d ≠ 0#3 then v i else selects s m i
/-- FFLAGS gains the flags of the active lanes. -/
def FlagsGained (s t : State) (active : Nat → Bool) (fl : Nat → BitVec 5) : Prop :=
  ∀ j, (t.csr 0x007).getLsbD j = true ↔ (s.csr 0x007).getLsbD j = true ∨ ∃ i, i < 64 ∧ active i = true ∧ ((fl i).setWidth 64).getLsbD j = true

/-- The effect of each operation that the arbiter binds, loads and stores apart (15 R150 to R160, R163, R165). -/
def VectorEffect (s t : State) (e : VEntry) : Prop :=
  let active (m : BitVec 3) (i : Nat) : Bool := decide (i < e.vl) && selects s m i
  let below (i : Nat) : Bool := decide (i < e.vl)
  let leaf (a : BitVec 5) (m : BitVec 3) (i : Nat) : Option (BitVec 32) := if active m i then some (lane s a i) else none
  let plain : Prop := t.q.k.mreg = s.q.k.mreg
  let noFlag : Prop := t.csr 0x007 = s.csr 0x007
  match e.op with
  | .lane f d a b m =>
    let r (i : Nat) := laneFn f (e.round i) e.ftz (lane s a i) (operand s b i) (lane s d i)
    LanesGet s t d (active m) (fun i => (r i).1) ∧ plain ∧ FlagsGained s t (active m) (fun i => (r i).2)
  | .cmp f d a b m =>
    MaskGets s t d (fun i => active m i && condition f e.ftz (lane s a i) (operand s b i)) ∧
      FlagsGained s t (active m) (fun i => if invalid f (lane s a i) (operand s b i) then 0x10#5 else 0#5)
  | .sel d a b m => LanesGet s t d below (fun i => if selects s m i then lane s a i else lane s b i) ∧ plain ∧ noFlag
  | .insl d n v => LanesGet s t d (fun i => decide (i = n.toNat)) (fun _ => v) ∧ plain ∧ noFlag
  | .red f d a m =>
    (∃ r, LanesGet s t d (fun i => decide (i = 0)) (fun _ => r) ∧
      ∀ h, e.vl ≤ 2 ^ h → h = 0 ∨ 2 ^ (h - 1) < e.vl → r = (treeNode (redJoin f e.rm e.ftz) (leaf a m) h 0).getD (redZero f)) ∧ plain ∧
      (f ∉ [.addF, .minF, .maxF] → noFlag) ∧ ∀ j, (s.csr 0x007).getLsbD j = true → (t.csr 0x007).getLsbD j = true
  | .scan d a m =>
    LanesGet s t d below (fun i => (scanNode (redJoin .addF e.rm e.ftz) (leaf a m) (i + 1)).getD 0#32) ∧ plain ∧
      ∀ j, (s.csr 0x007).getLsbD j = true → (t.csr 0x007).getLsbD j = true
  | .perm f d a b m =>
    let amount (i : Nat) : Nat := match b with
      | .vec n => (lane s n i).toNat
      | .sca v => v.toNat
    LanesGet s t d (active m) (fun i =>
      match f with
      | .perm => if amount i < 64 then lane s a (amount i) else 0#32
      | .sldu => if i + amount i < e.vl then lane s a (i + amount i) else 0#32
      | .sldd => if amount i ≤ i then lane s a (i - amount i) else 0#32
      | .rev => lane s a (e.vl - 1 - i)
      | .zip => if i % 2 = 0 then lane s a (i / 2) else operand s b ((i - 1) / 2)
      | .uzp => if 2 * i < e.vl then lane s a (2 * i) else operand s b (2 * i - e.vl)
      | .bcast => if amount i < 64 then lane s a (amount i) else 0#32) ∧ plain ∧ noFlag
  | .comp d a m =>
    LanesGet s t d below (fun i => ((((List.range e.vl).filter (selects s m))[i]?).map (lane s a)).getD 0#32) ∧ plain ∧ noFlag
  | .mask f d a b =>
    MaskGets s t d (fun i =>
      match f with
      | .and => selects s a i && selects s b i
      | .or => selects s a i || selects s b i
      | .xor => selects s a i != selects s b i
      | .not => !selects s a i) ∧ noFlag
  | .fromX d v => MaskGets s t d (fun i => v.getLsbD i) ∧ noFlag
  | .enc d a l m =>
    let r (i : Nat) := encode32 l 127 (if e.drawn then some ((randomWord e.key e.ctr i).toNat / 2 ^ 16) else none) (lane s a i)
    LanesGet s t d (active m) (fun i => BitVec.ofNat 32 (r i).1) ∧ plain ∧ FlagsGained s t (active m) (fun i => (r i).2)
  | .dec d a l m =>
    let r (i : Nat) := decode32 l ((lane s a i).toNat % 2 ^ dWidth l) 127
    LanesGet s t d (active m) (fun i => (r i).1) ∧ plain ∧ FlagsGained s t (active m) (fun i => (r i).2)
  | .gen d m => LanesGet s t d (active m) (fun i => randomWord e.key e.ctr i) ∧ plain ∧ noFlag
  | .load _ _ => True
  | .store _ _ => True

/-- An element of lens window w at an offset (07 R66, R68, R73): its descriptor, its bit offset in the raw tile SRAM, its scale byte and its
code, each byte being that of the continuation's own latest store to it while that is staged. -/
structure LensElement (s : State) (w off : Nat) (desc : BitVec 32) (b x code : Nat) : Prop where
  bound : desc = (s.csr (0x08F + w)).setWidth 32 ∧ desc ≠ 0#32
  place : b = off / 4 * dWidth desc
  scale :
    let eorg := field (s.csr (0x097 + w)) 48 32
    let run := [0, 32, 16].getD (dBlk desc) 0
    x = if dBlk desc = 0 ∨ b < 8 * eorg then 127
      else (s.viewByte (tileKey s.tile (field (s.csr (0x097 + w)) 16 0 + (b / dWidth desc - 8 * eorg / dWidth desc) / run))).toNat
  code :
    code = if dWidth desc = 4 then (s.viewByte (tileKey s.tile (b / 8))).toNat / 2 ^ (b % 8) % 16
      else leNat ((List.range (dWidth desc / 8)).map (fun i => s.viewByte (tileKey s.tile (b / 8) + i)))

/-- R150, R152, R153, R59: a lane operation at the head of its queue that the arbiter can bind is executed by VECTOR_BIND and leaves the queue: each
lane below VL that the mask selects gets its function of the operands, every other lane and every mask keeps its value; the integer and logical
functions set no flag.

R154, R155, R158 to R160, R163, R165, R86: the other operations that are bound, each with its whole effect (`VectorEffect`): the compares, selects,
insertions, reductions and the scan (the fixed tree of R84 over the present leaves), permutes, zips and compressions, masks, lens encodes and
decodes, and random words. No scalar register, no byte of memory, no staged store, no special register but FFLAGS, no other lane and no
other mask changes.

R68, R70 to R78: a scalar word access through a lens window. LDW and LDWZ decode the element, a block-scaled one with its scale byte; STW encodes
the low word of its register, in place at once, a 4-bit element without its neighbour, and a stochastic rounding takes word 0 of the block at
the counter, which advances by one. A window that is not bound raises cause 0x05, another size or a misaligned word cause 0x04. -/
def Obligations.VectorLanesGetTheirFunction : Prop :=
  (∀ (tile : BitVec 14) (s : State) (e : VEntry) (f : LaneFn) (d a : BitVec 5) (b : VSrc) (m : BitVec 3), Alone s tile e →
      e.op = .lane f d a b m →
      ∃ t, exec (.vectorBind tile) s = .next t ∧ t.q.vq = [] ∧ t.pc = s.pc ∧ t.q.hold = s.q.hold ∧
        (∀ r, t.x r = s.x r) ∧ (∀ k, look t.mem k = look s.mem k) ∧ t.q.k.mreg = s.q.k.mreg ∧
        (∀ n i, i < 64 → n ≠ d ∨ e.vl ≤ i ∨ selects s m i = false → lane t n i = lane s n i) ∧
        (∀ i, i < e.vl → selects s m i = true →
          lane t d i = (laneFn f (e.round i) e.ftz (lane s a i) (operand s b i) (lane s d i)).1) ∧
        (∀ g, integerLane f = some g → (∀ i, i < e.vl → selects s m i = true → lane t d i = g (lane s a i) (operand s b i)) ∧
          t.csr 0x007 = s.csr 0x007) ∧
        ∀ n, n ≠ 0x007 → t.csr n = s.csr n) ∧
  (∀ (tile : BitVec 14) (s : State) (e : VEntry), Alone s tile e →
      ∃ t, exec (.vectorBind tile) s = .next t ∧ VectorEffect s t e ∧
        ((∀ d ts, e.op ≠ .load d ts) → (∀ d ts, e.op ≠ .store d ts) →
          t.q.vq = [] ∧ t.pc = s.pc ∧ t.q.hold = s.q.hold ∧ (∀ r, t.x r = s.x r) ∧ (∀ k, look t.mem k = look s.mem k) ∧
          t.staged = s.staged ∧ ∀ n, n ≠ 0x007 → t.csr n = s.csr n)) ∧
  (∀ (d a : BitVec 5) (o : BitVec 14) (s s' : State) (g : Target) (w off : Nat) (desc : BitVec 32) (b x code : Nat),
      let p := address s a o 4
      let len := (dWidth desc + 7) / 8
      let key := tileKey s.tile (b / 8)
      regionOf p.toNat = .lens w off → LensElement s w off desc b x code → s.vectorStores = false →
      (s.locate .ld p 4 = .ok (g, s') → s.lensBad desc (s.csr (0x097 + w)) s.tile b = false →
        let r := decode32 desc code x
        let reads (i : Instr) (v : Word) : Prop := ∃ t, exec i s = .next t ∧ t.pc = s.pc + 4 ∧ (d ≠ 0#5 → t.x d = v) ∧
          (∀ n, n ≠ d → t.x n = s.x n) ∧ t.csr 0x007 = s.csr 0x007 ||| r.2.setWidth 64 ∧
          (∀ n, n ≠ 0x007 → n ≠ 0x015 → t.csr n = s.csr n) ∧ t.staged = s.staged ∧ ∀ k, look t.mem k = look s.mem k
        reads (.ldw d a o) (r.1.signExtend 64) ∧ reads (.ldwz d a o) (r.1.setWidth 64)) ∧
      (s.locate .st p 4 = .ok (g, s') → s.stationHeld = false → s.ownLevel key len = none → s.scaleBad desc (s.csr (0x097 + w)) s.tile b = false →
        let drawn := dRnd desc = 1
        let q := if dRnd desc = 1 then some (((philoxBlock s.rngKey s.rngCtr).getD 0 0#32).toNat / 2 ^ 16) else none
        let r := encode32 desc x q ((s.x d).setWidth 32)
        ∃ t, exec (.stw d a o) s = .next t ∧ t.pc = s.pc + 4 ∧ (∀ n, t.x n = s.x n) ∧ t.staged = s.staged ∧
          t.csr 0x007 = s.csr 0x007 ||| r.2.setWidth 64 ∧ t.rngCtr = (if drawn then s.rngCtr + 1 else s.rngCtr) % 2 ^ 128 ∧
          (∀ n, n ≠ 0x007 → n ≠ 0x015 → ¬ drawn ∨ n < 0x050 ∨ 0x053 < n → t.csr n = s.csr n) ∧
          (dWidth desc ≠ 4 → leNat ((List.range len).map (fun i => look t.mem (key + i))) = r.1 % 2 ^ dWidth desc) ∧
          (dWidth desc = 4 → (look t.mem key).toNat / 2 ^ (b % 8) % 16 = r.1 % 16 ∧
            (look t.mem key).toNat / 2 ^ (4 - b % 8) % 16 = (look s.mem key).toNat / 2 ^ (4 - b % 8) % 16) ∧
          ∀ k, k < key ∨ key + len ≤ k → look t.mem k = look s.mem k)) ∧
  (∀ (s : State) (a : BitVec 5) (w off n : Nat), HasHandler s → s.vectorStores = false →
      let desc : BitVec 32 := (s.csr (0x08F + w)).setWidth 32
      let traps (code : Word) (o : BitVec 14) : Prop :=
        (∀ i e, LoadForm i n e → ∀ d, TrapsAt (i d a o) s code (address s a o n)) ∧
        ∀ i, StoreForm i n → ∀ d, TrapsAt (i d a o) s code (address s a o n)
      ∀ o, regionOf (address s a o n).toNat = .lens w off →
        (desc = 0#32 → traps 0x05#64 o) ∧
        (desc ≠ 0#32 → dBlk desc = 0 → off + n ≤ 4 * (786432 / dWidth desc) → 1 ≤ n → n ≠ 4 ∨ (address s a o n).toNat % 4 ≠ 0 → traps 0x04#64 o))

/-- R149, R156: a vector load with its queue empty and every selected lane's element in the tile SRAM, the group or the peers, unframed by a
lens, is pushed and holds its sequencer; VECTOR_BIND then gives each lane its four bytes of memory and completes it. -/
def Obligations.VectorLoadsFillTheirLanes : Prop :=
  ∀ (d a b : BitVec 5) (k : BitVec 3) (tile : BitVec 14) (s : State) (i : Instr) (addr : Nat → Word) (g : Nat → Target),
    (i = .vld d a k ∧ addr = (fun j => s.x a + BitVec.ofNat 64 (4 * j))) ∨
    (i = .vlds d a b k ∧ addr = (fun j => s.x a + BitVec.ofNat 64 j * s.x b)) ∨
    (i = .vldg d a b k ∧ addr = (fun j => s.x a + (lane s b j).setWidth 64)) ∨
    (i = .vldb d a k ∧ addr = (fun _ => s.x a)) →
    s.q.vq = [] → s.q.hold ≠ some .vectorLoad → 0 < field (s.csr 0x020) 6 0 → field (s.csr 0x020) 6 0 ≤ 64 →
    (∀ j, j < field (s.csr 0x020) 6 0 → selects s k j = true → regionOf (addr j).toNat ≠ .xlat ∧ s.locate .ld (addr j) 4 = .ok (g j, s) ∧
      (g j).lens = 0 ∧ (g j).path = .now ∧ (∀ o, regionOf (g j).addr.toNat ≠ .param o) ∧ s.viewBad (g j).key 4 = false) →
    ∃ t e, exec i s = .next t ∧ t.q.hold = some .vectorLoad ∧ t.pc = s.pc ∧ t.q.vq = [e] ∧ (∀ n, look t.mem n = look s.mem n) ∧
      (Alone t tile e → ∃ u, exec (.vectorBind tile) t = .next u ∧ u.pc = s.pc + 4 ∧ u.q.hold = none ∧ u.q.vq = [] ∧
        (∀ j, j < field (s.csr 0x020) 6 0 → selects s k j = true →
          lane u d j = BitVec.ofNat 32 (leNat ((List.range 4).map (fun n => s.viewByte ((g j).key + n))))) ∧
        (∀ n j, j < 64 → n ≠ d ∨ field (s.csr 0x020) 6 0 ≤ j ∨ selects s k j = false → lane u n j = lane s n j) ∧
        (∀ r, u.x r = s.x r) ∧ ∀ n, look u.mem n = look s.mem n)

/-- R156, R157: a vector store with its queue empty and every selected lane's element outside translated memory is pushed and completes; no byte
of memory changes until it is bound.

R149: a vector access whose lowest failing lane fails a check, or lies in translated memory, traps with that lane's cause and address and
pushes nothing. -/
def Obligations.VectorStoresAndFaultingLanes : Prop :=
  (∀ (d a b : BitVec 5) (k : BitVec 3) (s : State) (i : Instr) (addr : Nat → Word) (g : Nat → Target),
      (i = .vst d a k ∧ addr = (fun j => s.x a + BitVec.ofNat 64 (4 * j))) ∨
      (i = .vsts d a b k ∧ addr = (fun j => s.x a + BitVec.ofNat 64 j * s.x b)) ∨
      (i = .vstsc d a b k ∧ addr = (fun j => s.x a + (lane s b j).setWidth 64)) →
      s.q.vq = [] → field (s.csr 0x020) 6 0 ≤ 64 →
      (∀ j, j < field (s.csr 0x020) 6 0 → selects s k j = true → regionOf (addr j).toNat ≠ .xlat ∧ s.locate .st (addr j) 4 = .ok (g j, s) ∧
        s.storeBad (g j) = false) →
      ∃ t e draws, exec i s = .next t ∧ Pushed s t e draws ∧
        e.op = .store d (((List.range (field (s.csr 0x020) 6 0)).filter (selects s k)).map (fun j => (j, g j)))) ∧
  (∀ (d a : BitVec 5) (k : BitVec 3) (j : Nat) (s : State), HasHandler s → s.q.vq = [] → s.q.hold = none →
      j < field (s.csr 0x020) 6 0 → field (s.csr 0x020) 6 0 ≤ 64 → selects s k j = true →
      (∀ i, i < j → selects s k i = true → regionOf (s.x a + BitVec.ofNat 64 (4 * i)).toNat ≠ .xlat ∧
        (∃ g, s.locate .ld (s.x a + BitVec.ofNat 64 (4 * i)) 4 = .ok (g, s)) ∧ ∃ g, s.locate .st (s.x a + BitVec.ofNat 64 (4 * i)) 4 = .ok (g, s)) →
      let bad := s.x a + BitVec.ofNat 64 (4 * j)
      (regionOf bad.toNat = .xlat → TrapsAt (.vld d a k) s 0x05#64 bad ∧ TrapsAt (.vst d a k) s 0x05#64 bad) ∧
      (regionOf bad.toNat = .none → TrapsAt (.vld d a k) s 0x05#64 bad ∧ TrapsAt (.vst d a k) s 0x05#64 bad) ∧
      (bad.toNat + 4 ≤ 0x18000 → bad.toNat % 4 ≠ 0 → TrapsAt (.vld d a k) s 0x04#64 bad ∧ TrapsAt (.vst d a k) s 0x04#64 bad))

/-- R146, R148, R161: with its queue empty the sequencer reads lanes and masks itself; VSETVL sets VL to at most 64. -/
def Obligations.VectorStateReadsAndVsetvl : Prop :=
  ∀ (d a b : BitVec 5) (m : BitVec 3) (s : State),
    let active := (List.range (field (s.csr 0x020) 6 0)).filter (selects s m)
    (s.q.vq = [] → field (s.csr 0x020) 6 0 ≤ 64 →
      (∃ t, exec (.vextl d a b) s = .next t ∧
        WritesOnly s t d (if (s.x b).toNat < 64 then (lane s a (s.x b).toNat).signExtend 64 else 0#64) (s.pc + 4)) ∧
      (∃ t, exec (.vmpopc d m) s = .next t ∧ WritesOnly s t d (BitVec.ofNat 64 active.length) (s.pc + 4)) ∧
      (∃ t, exec (.vmffs d m) s = .next t ∧ WritesOnly s t d (BitVec.ofNat 64 (active.headD 64)) (s.pc + 4)) ∧
      (∃ t, exec (.vmtox d m) s = .next t ∧
        WritesOnly s t d (if m = 0#3 then -1#64 else look s.q.k.mreg m.toNat) (s.pc + 4))) ∧
    (∃ t, exec (.vsetvl d a) s = .next t ∧ t.csr 0x020 = BitVec.ofNat 64 (min (s.x a).toNat 64) ∧
      (d ≠ 0#5 → t.x d = BitVec.ofNat 64 (min (s.x a).toNat 64)) ∧ (∀ r, r ≠ d → t.x r = s.x r) ∧ t.pc = s.pc + 4 ∧
      (∀ n, n ≠ 0x015 → n ≠ 0x020 → t.csr n = s.csr n) ∧ ∀ k, look t.mem k = look s.mem k)

/-- R164, R166: RGKEY and RGCTR load the stream's key and counter, RGSKIP advances the counter modulo 2^128; RGST stores both in 32 bytes of the
tile SRAM, and RGLD loads what RGST stores, as the continuation's own loads find it. -/
def Obligations.RandomStreamStateMoves : Prop :=
  ∀ (a b : BitVec 5) (s : State),
    let keeps (t : State) : Prop := (∀ r, t.x r = s.x r) ∧ t.pc = s.pc + 4 ∧ ∀ n, n ≠ 0x015 → n < 0x050 ∨ 0x055 < n → t.csr n = s.csr n
    (∃ t, exec (.rgkey a) s = .next t ∧ t.rngKey = s.x a ∧ t.rngCtr = s.rngCtr ∧ keeps t ∧ ∀ k, look t.mem k = look s.mem k) ∧
    (∃ t, exec (.rgctr a b) s = .next t ∧ t.rngCtr = (s.x b).toNat * 2 ^ 64 + (s.x a).toNat ∧ t.rngKey = s.rngKey ∧ keeps t ∧
      ∀ k, look t.mem k = look s.mem k) ∧
    (∃ t, exec (.rgskip a b) s = .next t ∧ t.rngCtr = (s.rngCtr + (s.x b).toNat * 2 ^ 64 + (s.x a).toNat) % 2 ^ 128 ∧
      t.rngKey = s.rngKey ∧ keeps t ∧ ∀ k, look t.mem k = look s.mem k) ∧
    (s.vectorStores = false → (s.x a).toNat % 32 = 0 → (s.x a).toNat + 32 ≤ 0x18000 →
      s.outsideShare s.q.k.lnum s.tile (s.x a).toNat 32 = none → s.frozenAt s.q.k.lnum s.grp 0 (s.x a).toNat 32 = none →
      let key := tileKey s.tile (s.x a).toNat
      (s.ownLevel key 32 = none → ∃ t, exec (.rgst a) s = .next t ∧ keeps t ∧ t.peekNat key 16 = s.rngCtr ∧ t.peekNat (key + 16) 16 = s.rngKey.toNat ∧
        ∀ k, k < key ∨ key + 32 ≤ k → look t.mem k = look s.mem k) ∧
      (s.viewBad key 24 = false →
        ∃ t, exec (.rgld a) s = .next t ∧ keeps t ∧ t.rngCtr = s.viewNat key 16 ∧ t.rngKey.toNat = s.viewNat (key + 16) 8 ∧
          ∀ k, look t.mem k = look s.mem k))

/-! ## System instructions (35) -/

/-- R266, R340, R346: PBINVA empties the block cache of its die; WFE waits (i + 1) times 64 clk, completes once it is woken or they have passed,
and its timeout completes it too; DIAG adds one periscope record of its value and its immediate where the host asked for them, which goes to the
buffer while it has room, and completes (the record's layout of 40 bytes is the model's choice, log 128). -/
def Obligations.WfePbinvaAndDiag : Prop :=
  ∀ (i : BitVec 10) (a : BitVec 5) (sq : BitVec 16) (s : State),
    (∃ t, exec .pbinva s = .next t ∧ Steps s t 0#5 0#64 ∧ (t.dieAt s.die).cache = []) ∧
    (∀ d woken, s.q.hold = some (.wfe d woken) → woken = true ∨ d ≤ s.clk → CompletesPlainly (.wfe i) s) ∧
    ((∀ d woken, s.q.hold ≠ some (.wfe d woken)) →
      exec (.wfe i) s = .next { s with q := { s.q with hold := some (.wfe (s.clk + (i.toNat + 1) * 64) false) } }) ∧
    (∀ d woken, (s.seqAt sq.toNat).mode = .run → (s.seqAt sq.toNat).hold = some (.wfe d woken) → d ≤ s.clk →
      ∃ t, exec (.wfeTimeout sq) s = .next t ∧ t.cur = sq.toNat ∧ t.q.hold = none ∧ t.q.mode = .run ∧
        t.pc = (s.seqAt sq.toNat).k.pc + 4 ∧ t.q.k.gpr = (s.seqAt sq.toNat).k.gpr ∧ t.mem = s.mem) ∧
    (∃ t, exec (.diag a i) s = .next t ∧ Steps s t 0#5 0#64 ∧
      (s.launch.scope = none → t.scopeLog = s.scopeLog) ∧
      (∀ buf size, s.launch.scope = some (buf, size) → s.launch.scopeFrom ≤ s.scopeLog.length →
        let used := s.scopeUsed s.q.k.lnum
        t.scopeLog = s.scopeLog ++ [{ lnum := s.q.k.lnum, clk := BitVec.ofNat 64 s.clk, coord := s.coordOf s.cur, kind := 4, v := s.x a,
                                      w := i.setWidth 64, function := s.launch.function,
                                      addr := if used + 40 ≤ size then some (buf + BitVec.ofNat 64 used) else none }]))

/-! ## The matrix engine (17) -/

/-- R170, R173, R176: MCLM makes a free unit the issuer's; a queued command that passes its checks, with room in the buffer, is accepted and
completes; a fill leaves its slot's acceptance tag at its descriptor.

R174, R176: a command that names a unit its issuer may not use raises cause 0x10, and so does MCLM of a held unit; a multiply that reads a
slot with no tag raises cause 0x15, and a pair of tags that the engine does not implement cause 0x02. Nothing else changes. -/
def Obligations.MatrixCommandsAreAcceptedOrTrap : Prop :=
  (∀ (u : BitVec 5) (w : BitVec 8) (e : BitVec 1) (z n x y : BitVec 3) (c : BitVec 2) (b : BitVec 5) (s : State),
      (find? (s.tileAt s.tile).owner u.toNat = none → ∃ t, exec (.mclm u) s = .next t ∧ Steps s t 0#5 0#64 ∧
        (find? (t.tileAt s.tile).owner u.toNat).map (·.party) = some s.q.k.party) ∧
      (s.mFull = false →
        (s.mayRelease u.toNat = true → ∃ t, exec (.mrel w e z u) s = .next t ∧ Accepted s t (.rel u.toNat) w e z ∧
          (find? (t.tileAt s.tile).owner u.toNat).map (·.releasing) = some true) ∧
        (s.mayName (8 + c.toNat) = true → ∃ t, exec (.mza w e z c) s = .next t ∧ Accepted s t (.mza c.toNat) w e z) ∧
        (∀ win, s.mayName (8 + c.toNat) = true → s.rowFault (s.x b) (strideOf (look s.q.k.bank 0x01)) false = .ok win →
          ∃ t, exec (.mdrn w e z c b) s = .next t ∧ Accepted s t (.drn c.toNat (s.x b)) w e z) ∧
        (∀ win, s.vectorStores = false → s.mayName n.toNat = true → s.rowFault (s.x b) (strideOf (look s.q.k.bank 0x00)) true = .ok win →
          dClass win.desc < 4 → ∃ t, exec (.mfil w e z n b) s = .next t ∧ Accepted s t (.fil n.toNat (s.x b)) w e z ∧
            look (t.tileAt s.tile).accTag n.toNat = win.desc) ∧
        (∀ h, s.mayName n.toNat = true → s.launch.zones = [] → s.handleOf (fetchHandle (s.x b)) = some h → dClass h.desc < 4 →
          ∃ t, exec (.mfts w e z n b) s = .next t ∧ Accepted s t (.fts n.toNat (s.x b)) w e z ∧
            look (t.tileAt s.tile).accTag n.toNat = h.desc) ∧
        (s.mayName (8 + c.toNat) = true → s.mayName x.toNat = true → s.mayName y.toNat = true → s.accTagOf x.toNat ≠ 0#32 →
          s.accTagOf y.toNat ≠ 0#32 → typesOk (s.accTagOf x.toNat) (s.accTagOf y.toNat) = true →
          (dBlk (s.accTagOf y.toNat) = 0 → ∃ t, exec (.mma w e z c x y) s = .next t ∧ Accepted s t (.mma c.toNat x.toNat y.toNat) w e z) ∧
          (∃ t, exec (.mmat w e z c x y) s = .next t ∧ Accepted s t (.mmat c.toNat x.toNat y.toNat) w e z) ∧
          (∃ t, exec (.mopr w e z c x y) s = .next t ∧ Accepted s t (.mopr c.toNat x.toNat y.toNat) w e z)))) ∧
  (∀ s : State, HasHandler s →
      (∀ u : BitVec 5, find? (s.tileAt s.tile).owner u.toNat ≠ none → TrapsPlain (.mclm u) s 0x10#64) ∧
      (s.mFull = false → s.vectorStores = false →
        (∀ i us, Names i us → us.all s.mayName = false → TrapsPlain i s 0x10#64) ∧
        (∀ w e z (u : BitVec 5), s.mayRelease u.toNat = false → TrapsPlain (.mrel w e z u) s 0x10#64) ∧
        ∀ w e z (c : BitVec 2) (x y : BitVec 3), s.mayName (8 + c.toNat) = true → s.mayName x.toNat = true → s.mayName y.toNat = true →
          (s.accTagOf x.toNat = 0#32 ∨ s.accTagOf y.toNat = 0#32 →
            TrapsPlain (.mma w e z c x y) s 0x15#64 ∧ TrapsPlain (.mmat w e z c x y) s 0x15#64 ∧ TrapsPlain (.mopr w e z c x y) s 0x15#64) ∧
          (s.accTagOf x.toNat ≠ 0#32 → s.accTagOf y.toNat ≠ 0#32 → dClass (s.accTagOf x.toNat) ≠ dClass (s.accTagOf y.toNat) →
            TrapsPlain (.mma w e z c x y) s 0x02#64 ∧ TrapsPlain (.mmat w e z c x y) s 0x02#64 ∧ TrapsPlain (.mopr w e z c x y) s 0x02#64) ∧
          (s.accTagOf x.toNat ≠ 0#32 → dBlk (s.accTagOf y.toNat) ≠ 0 → TrapsPlain (.mma w e z c x y) s 0x02#64)))

/-- R182 to R184: MSET writes, reads, and reads and clears an engine register; a read stores it as 8 bytes in the tile SRAM once the matrix
buffer is empty, no vector store is queued and no open exchange's read holds the bytes (21 R205); a wrong selector or reserved bit raises cause
0x15, an address outside the raw window cause 0x05, and then a misaligned one cause 0x04. MWAIT completes once its slots are set, and waits until then.

The clauses of MSET's reads and of its traps rest in part on log 24, which is the model's choice: cause 0x05 comes before cause 0x04 for an
address that is both misaligned and outside the raw window. MWAIT waits for the same slots that MSET reads and writes, by R184. -/
def Obligations.EngineRegistersAndMwait : Prop :=
  ∀ (a b : BitVec 5) (w : BitVec 8) (s : State),
    (∀ r m, (r, m) ∈ bankReserved → s.x a = BitVec.ofNat 64 r → s.x b &&& m = 0#64 →
      ∃ t, exec (.msetWrite a b) s = .next t ∧ Steps s t 0#5 0#64 ∧ look t.q.k.bank r = s.x b ∧
        ∀ n, n ≠ r → look t.q.k.bank n = look s.q.k.bank n) ∧
    (s.x a = 0x10#64 → s.x b &&& 0xFFFFFFFFFFFFFF00#64 = 0#64 →
      ∃ t, exec (.msetWrite a b) s = .next t ∧ Steps s t 0#5 0#64 ∧ (t.tileAt s.tile).slots s.q.k.sec = (s.x b).setWidth 8) ∧
    (s.q.mq = [] → s.vectorStores = false → s.ownLevel (tileKey s.tile (s.x b).toNat) 8 = none → field (s.x b) 2 0 = 0 →
      (s.x b).toNat + 8 ≤ 0x18000 →
      s.outsideShare s.q.k.lnum s.tile (s.x b).toNat 8 = none → s.frozenAt s.q.k.lnum s.grp 0 (s.x b).toNat 8 = none →
      (∀ r, r < 8 ∨ r = 0x12 → s.x a = BitVec.ofNat 64 (0x100 + r) →
        ∃ t, exec (.msetRead a b) s = .next t ∧ Stores s t (tileKey s.tile (s.x b).toNat) 8 (look s.q.k.bank r).toNat 0#5 0#64) ∧
      (s.x a = 0x110#64 → ∃ t, exec (.msetRead a b) s = .next t ∧
        Stores s t (tileKey s.tile (s.x b).toNat) 8 ((s.tileAt s.tile).slots s.q.k.sec).toNat 0#5 0#64) ∧
      ∀ r, r < 4 → s.x a = BitVec.ofNat 64 (0x214 + r) →
        ∃ t, exec (.msetReadClear a b) s = .next t ∧ Stores s t (tileKey s.tile (s.x b).toNat) 8 (look (s.tileAt s.tile).aflg r).toNat 0#5 0#64 ∧
          look (t.tileAt s.tile).aflg r = 0#8) ∧
    (HasHandler s →
      ((field (s.x a) 9 8 = 0 ∧ field (s.x a) 63 10 ≠ 0) ∨ field (s.x a) 9 8 = 3 → TrapsPlain (.msetWrite a b) s 0x15#64) ∧
      (field (s.x a) 9 8 = 1 → 0x18000 ≤ (s.x b).toNat → TrapsAt (.msetRead a b) s 0x05#64 (s.x b)) ∧
      (field (s.x a) 9 8 = 1 → (s.x b).toNat < 0x18000 → field (s.x b) 2 0 ≠ 0 → TrapsAt (.msetRead a b) s 0x04#64 (s.x b))) ∧
    ((s.tileAt s.tile).slots s.q.k.sec &&& w = w → CompletesPlainly (.mwait w) s) ∧
    ((s.tileAt s.tile).slots s.q.k.sec &&& w ≠ w → exec (.mwait w) s = .next { s with q := { s.q with hold := some .other } })

/-- R82, R83, R169, R173, R177 to R179, R181: the command that the engine picks is dispatched and takes effect: MZA zeroes its accumulator and its flags, MREL
scrubs and frees its unit. MMA, MMAT and MOPR add the products of 32 pairs, or of one, to every element: of narrow integers modulo 2^32, with
WRAP where an exact sum leaves the range; of floats the exact sum, rounded once. MFIL takes its rows' codes and scale bytes from the tile
SRAM, and MFTS from the tensor store. MDRN writes its accumulator's rows to the tile SRAM, as words or through a lens. The oldest command of a
buffer, once its unit's clk have passed, retires: it leaves the buffer, and its set slot is set again.

The moment at which a command reads and writes is the model's choice (log 27): the dispatch clauses let it act at dispatch, and the
retirement clause leaves only its flags, releases and slot for then. So are what a mark of an error on a slot covers (log 123) and, where
a fetch's run straddles two runs of the tensor, its scale byte (log 186), of which nothing is stated here. -/
def Obligations.MatrixDispatchAndRetire : Prop :=
  (∀ (tile : BitVec 14) (s : State) (r : Nat) (e : MEntry), s.mPick tile.toNat = some (r, e) →
    let n := tile.toNat
    let acts (p : State → Prop) : Prop := ∃ t, exec (.matrixDispatch tile) s = .next t ∧ Apart s t ∧ p t
    let all := List.range 32
    let sound (c a b : Nat) (ra rb : List Nat) : Prop := 512 + c ∉ (s.tileAt n).badUnit ∧ Clean s n a e.tagA ra ∧ Clean s n b e.tagB rb
    let adds (c : Nat) (ints : Nat → Nat → List (Int × Int)) (floats : Nat → Nat → List (FVal × FVal)) : Prop :=
      (dClass e.tagA = 1 → acts (fun t => Accumulates s t n c (fun i j => BitVec.ofInt 32 (dotI (accAt s n c i j) (ints i j))) ∧
        ((look (t.tileAt n).aflg c).getLsbD 5 = true ↔ (look (s.tileAt n).aflg c).getLsbD 5 = true ∨ ∃ i j, i < 32 ∧ j < 32 ∧
          (dotI (accAt s n c i j) (ints i j) < -2147483648 ∨ 2147483647 < dotI (accAt s n c i j) (ints i j))))) ∧
      (dClass e.tagA ≠ 1 → acts (fun t => Accumulates s t n c (fun i j => dotF (accAt s n c i j) (floats i j))))
    let ia (a i k : Nat) : Int := intNarrow e.tagA (slotCode s n a i k)
    let ib (b k j : Nat) : Int := intNarrow e.tagB (slotCode s n b k j)
    (∀ c, e.op = .mza c → acts (fun t => look (t.tileAt n).aflg c = 0#8 ∧ Accumulates s t n c (fun _ _ => 0#32))) ∧
    (∀ u, e.op = .rel u → u < 12 → acts (fun t => find? (t.tileAt n).owner u = none ∧
      (u < 8 → look (t.tileAt n).tag u = 0#32 ∧ look (t.tileAt n).accTag u = 0#32 ∧ ∀ i j, i < 32 → j < 32 → slotCode t n u i j = 0) ∧
      (8 ≤ u → ∀ i j, i < 32 → j < 32 → accAt t n (u - 8) i j = 0#32))) ∧
    (∀ c a b, e.op = .mma c a b → c < 4 → sound c a b all all →
      adds c (fun i j => all.map (fun k => (ia a i k, ib b k j)))
        (fun i j => all.map (fun k => (slotValue s n e.tagA a i k, slotValue s n e.tagB b k j)))) ∧
    (∀ c a b, e.op = .mmat c a b → c < 4 → sound c a b all all →
      adds c (fun i j => all.map (fun k => (ia a i k, ib b j k)))
        (fun i j => all.map (fun k => (slotValue s n e.tagA a i k, slotValue s n e.tagB b j k)))) ∧
    (let ra := field e.orws 4 0
     let rb := field e.orws 9 5
     ∀ c a b, e.op = .mopr c a b → c < 4 → sound c a b [ra] [rb] →
      adds c (fun i j => [(ia a ra i, ib b rb j)]) (fun i j => [(slotValue s n e.tagA a ra i, slotValue s n e.tagB b rb j)])) ∧
    (let w := dWidth e.desc
     let code (a : Word) (i j : Nat) : Nat :=
       leNat ((List.range (4 * w)).map (fun o => fillSees s n e (rowBit e a i 0 / 8 + o))) / 2 ^ (w * j) % 2 ^ w
     let scale (a : Word) (i g : Nat) : Nat :=
       match scaleOff e.desc e.scale (rowBit e a i (g * dRun e.desc)) with
       | none => 127
       | some o => (fillSees s n e o).toNat
     ∀ m a, e.op = .fil m a → m < 8 → w ≤ 16 → s.bad = [] → e.shadowBad = [] → acts (fun t => Fills s t n m e.desc (code a) (scale a))) ∧
    (∀ m word h, e.op = .fts m word → m < 8 → e.hdl = some h → dWidth h.desc ≤ 16 → s.bad = [] →
      (∀ p, (s.dieAt (n / 2048)).serves p = true) →
      let row := field word 63 38
      let col := field word 37 12
      acts (fun t => Fills s t n m h.desc
        (fun i j => if row + i < h.rows ∧ col + j < h.cols then s.tensorCode (n / 2048) h (row + i) (col + j) else 0)
        (fun i g => if ∀ j, j < dRun h.desc → row + i < h.rows ∧ col + g * dRun h.desc + j < h.cols
          then (look s.mem (h.scaleKey (n / 2048) (row + i) (col + g * dRun h.desc))).toNat else 127))) ∧
    (let raw (a : Word) : Bool := match regionOf a.toNat with
       | .lens _ _ => false
       | _ => true
     let w := dWidth e.desc
     let code (c : Nat) (a : Word) (i j : Nat) : Nat :=
       if raw a then (accAt s n c i j).toNat % 2 ^ w
       else (encode32 e.desc
         (match scaleOff e.desc e.scale (rowBit e a i j) with
           | none => 127
           | some o => (look s.mem (tileKey n o)).toNat)
         (if dRnd e.desc = 1 then some (philoxWord e.dkey (e.dctr + (32 * i + j) / 4) ((32 * i + j) % 4) / 2 ^ 16) else none)
         (accAt s n c i j)).1 % 2 ^ w
     let start (a : Word) (i : Nat) : Nat := tileKey n (rowBit e a i 0 / 8)
     ∀ c a, e.op = .drn c a → 512 + c ∉ (s.tileAt n).badUnit → s.bad = [] → (raw a = true → w = 32) →
       ∃ t, exec (.matrixDispatch tile) s = .next t ∧ t.pc = s.pc ∧ (∀ r, t.x r = s.x r) ∧ (∀ r, t.csr r = s.csr r) ∧ t.staged = s.staged ∧
         (∀ k, (∀ i, i < 32 → k < start a i ∨ start a i + 4 * w ≤ k) → look t.mem k = look s.mem k) ∧
         (∀ i, i < 32 → (∀ m, i < m → m < 32 → start a m + 4 * w ≤ start a i ∨ start a i + 4 * w ≤ start a m) →
           ∀ j, j < 32 → t.peekNat (start a i) (4 * w) / 2 ^ (w * j) % 2 ^ w = code c a i j) ∧
         (t.tileAt n).acc = (s.tileAt n).acc)) ∧
  (∀ (sq : BitVec 16) (s : State) (e : MEntry) (rest : List MEntry), (s.seqAt sq.toNat).mq = e :: rest → e.running = true →
    e.until_ ≤ s.clk → ∃ t, exec (.matrixRetire sq) s = .next t ∧ (t.seqAt sq.toNat).mq = rest ∧ t.pc = s.pc ∧ (∀ r, t.x r = s.x r) ∧
      (∀ d, e.set = some d → d < 8 → ((t.tileAt (tileOf sq.toNat)).slots e.sec).getLsbD d = true) ∧
      (∀ n, n < 8 → e.set ≠ some n →
        ((t.tileAt (tileOf sq.toNat)).slots e.sec).getLsbD n = ((s.tileAt (tileOf sq.toNat)).slots e.sec).getLsbD n) ∧
      (e.flags = 0#5 → Apart s t))

/-! ## Copies and the tensor store (27) -/

/-- R254, R255, R265: XCP, XMC, XRED and XAT of a block that passes its checks post one copy: it is numbered, it waits at the end of the engine's
queue, and its token rises by one. A block address that is no multiple of 64, one outside the regions of a block, and a block that breaks a rule
trap.

Of the rules of a block that `blockOk` tests, these are the model's choices: masks in a block of another kind than MCAST break one (log 42), so
does DKIND 1 where the launch has no job (log 68), and a LOCAL range is tested by its first address (log 125). -/
def Obligations.CopiesArePosted : Prop :=
  ∀ (f : BitVec 4 → BitVec 3 → BitVec 5 → Instr) (kind : Nat) (e : BitVec 4) (k : BitVec 3) (a : BitVec 5) (s : State), PostsKind f kind →
    (HasHandler s → field (s.x a) 5 0 ≠ 0 → TrapsAt (f e k a) s 0x04#64 (s.x a)) ∧
    (HasHandler s → field (s.x a) 5 0 = 0 → ¬ blockRegion (s.x a).toNat → TrapsAt (f e k a) s 0x05#64 (s.x a)) ∧
    (field (s.x a) 5 0 = 0 → blockRegion (s.x a).toNat → look s.q.k.tok k.toNat ≠ 0xFF#8 → HasRoom s e.toNat 1 →
      ∀ bs s', s.readBlock e.toNat (s.x a) = .ok (bs, s') →
        (HasHandler s → s'.blockOk (parseBlock bs) bs kind = false → TrapsAt (f e k a) s 0x15#64 (s.x a)) ∧
        (s'.blockOk (parseBlock bs) bs kind = true → s'.elementFault (parseBlock bs) (field (s.csr 0x081) 16 0) = none →
          ∃ t c, exec (f e k a) s = .next t ∧ Posted s t (parseBlock bs).tls ∧
            (t.dieAt s.die).copies = (s.dieAt s.die).copies ++ [c] ∧ c.op = .block (parseBlock bs) ∧ c.eng = e.toNat ∧
            c.num = nextNumber s (parseBlock bs).tls ∧ c.tok = some k.toNat ∧ c.st = .waiting ∧
            look t.q.k.tok k.toNat = look s.q.k.tok k.toNat + 1))

/-- R266 to R269: XTLW and its token form complete once their condition holds; PBINV drops its block from the engine's cache; XADV posts the blocks
of the stages up to its target, as the launch image lists them when it runs, and a step of more than 256 raises cause 0x15; XFEN waits for the context and then writes and clears its status
record.

The clauses of XADV rest on choices of the model: the layout of a stage's list in the launch image (log 84), room for the token and the queue entry
of every block before any is posted (log 54), and the blocks that placement found where a list or a block can no longer be read (log 166). -/
def Obligations.CopyControl : Prop :=
  ∀ (e : BitVec 4) (k : BitVec 3) (a : BitVec 5) (s : State),
    (field (s.x a) 47 0 ≤ field (look (s.dieAt s.die).timeline (context s k.toNat)) 47 0 → CompletesPlainly (.xtlw k a) s) ∧
    ((∀ i, i < 8 → (s.x a).getLsbD i = true → look s.q.k.tok i = 0#8) → CompletesPlainly (.xtlwTk a) s) ∧
    (∃ t, exec (.pbinv e a) s = .next t ∧ Steps s t 0#5 0#64 ∧
      ∀ c ∈ (t.dieAt s.die).cache, ¬ (c.eng = e.toNat ∧ c.space = s.launch.space ∧ c.addr = s.x a)) ∧
    (let now := (look s.launch.stageCtr s.die).toNat
     let blocks := (s.stageLists e.toNat (range (now + 1) (field (s.x a) 47 0 - now))).1
     (field (s.x a) 47 0 ≤ now → CompletesPlainly (.xadv e k a) s) ∧
     (HasHandler s → now + 256 < field (s.x a) 47 0 → TrapsPlain (.xadv e k a) s 0x15#64) ∧
     (now < field (s.x a) 47 0 → field (s.x a) 47 0 ≤ now + 256 → s.launchAt? s.q.k.lnum ≠ none →
       (look s.q.k.tok k.toNat).toNat + blocks.length ≤ 255 → HasRoom s e.toNat blocks.length →
       ∃ t cs, exec (.xadv e k a) s = .next t ∧ t.pc = s.pc + 4 ∧ (∀ r, t.x r = s.x r) ∧ (∀ n, look t.mem n = look s.mem n) ∧
         (t.dieAt s.die).copies = (s.dieAt s.die).copies ++ cs ∧ cs.map (·.op) = blocks.map (fun b => .block (parseBlock b.1)) ∧
         (look t.launch.stageCtr s.die).toNat = field (s.x a) 47 0)) ∧
    (let posted := look (s.dieAt s.die).posted (context s k.toNat)
     let done := posted.toNat ≤ (look (s.dieAt s.die).timeline (context s k.toNat)).toNat
     let key := tileKey s.tile (s.x a).toNat
     (∀ n again, s.q.hold ≠ some (.fence n again)) → s.vectorStores = false → s.stationHeld = false →
     (a = 0#5 → done → CompletesPlainly (.xfen k a) s) ∧
     (a = 0#5 → ¬ done → exec (.xfen k a) s = .next { s with q := { s.q with hold := some (.fence posted false) } }) ∧
     (a ≠ 0#5 → done → field (s.x a) 4 0 = 0 → (s.x a).toNat + 32 ≤ 0x18000 → s.outsideShare s.q.k.lnum s.tile (s.x a).toNat 32 = none →
       s.frozenAt s.q.k.lnum s.grp 0 (s.x a).toNat 32 = none → s.sourceHeld s.q.k.lnum key 32 = false →
       ∃ t, exec (.xfen k a) s = .next t ∧ t.pc = s.pc + 4 ∧ (∀ r, t.x r = s.x r) ∧ (∀ n, n ≠ 0x015 → t.csr n = s.csr n) ∧
         t.peekNat key 8 = (s.ctxStatus s.die (context s k.toNat)).first.toNat ∧
         t.peekNat (key + 8) 2 = (s.ctxStatus s.die (context s k.toNat)).code % 65536 ∧
         t.peekNat (key + 16) 8 = (s.ctxStatus s.die (context s k.toNat)).cmp.toNat ∧
         t.ctxStatus s.die (context s k.toNat) = CtxStatus.clear ∧
         ∀ n, n < key ∨ key + 32 ≤ n → look t.mem n = look s.mem n))

/-- R272 to R274: THB binds a handle to the record in the tile SRAM and THU unbinds one; TSZ, TSC and TSCMP of ranges within their handles post one
numbered operation with no token; a range that is not within its handle raises cause 0x15; TSF completes once no tensor-store access is open. -/
def Obligations.TensorStoreCommands : Prop :=
  ∀ (e : BitVec 4) (k : BitVec 3) (a b : BitVec 5) (s : State),
    let first (w : Word) : Nat := field w 37 12
    let count (w : Word) : Nat := field w 63 38
    let posts (i : Instr) (op : CopyOp) : Prop := ∃ t c, exec i s = .next t ∧ Posted s t k.toNat ∧
      (t.dieAt s.die).copies = (s.dieAt s.die).copies ++ [c] ∧ c.op = op ∧ c.tok = none ∧ c.num = nextNumber s k.toNat ∧ t.q.k.tok = s.q.k.tok
    (HasRoom s e.toNat 1 → ∀ h h2, s.handleOf (field (s.x a) 11 0) = some h → 1 ≤ count (s.x a) → first (s.x a) + count (s.x a) ≤ h.blocks →
      posts (.tsz e k a) (.tsz h (first (s.x a)) (count (s.x a))) ∧
      (s.handleOf (field (s.x b) 11 0) = some h2 → count (s.x b) = 0 → first (s.x b) + count (s.x a) ≤ h2.blocks →
        posts (.tsc e k a b) (.tsc h (first (s.x a)) (count (s.x a)) h2 (first (s.x b))) ∧
        posts (.tscmp e k a b) (.tscmp h (first (s.x a)) (count (s.x a)) h2 (first (s.x b)) (field (s.x a) 11 0)))) ∧
    (HasHandler s → (∀ h, s.handleOf (field (s.x a) 11 0) = some h → count (s.x a) = 0 ∨ h.blocks < first (s.x a) + count (s.x a)) →
      TrapsPlain (.tsz e k a) s 0x15#64 ∧ TrapsPlain (.tsc e k a b) s 0x15#64 ∧ TrapsPlain (.tscmp e k a b) s 0x15#64) ∧
    (s.tensorOpen = false → CompletesPlainly .tsf s) ∧
    (∀ h, s.handleOf (field (s.x b) 11 0) = some h →
      ∃ t, exec (.thu b) s = .next t ∧ Steps s t 0#5 0#64 ∧ find? (t.dieAt s.die).handles (field (s.x b) 11 0) = none) ∧
    (HasHandler s → s.handleOf (field (s.x b) 11 0) = none → TrapsPlain (.thu b) s 0x15#64) ∧
    (let bs := s.peek (tileKey s.tile (s.x a).toNat) 32
     let h := parseHandle bs s.q.k.lnum
     field (s.x a) 4 0 = 0 → (s.x a).toNat + 32 ≤ 0x18000 → s.outsideShare s.q.k.lnum s.tile (s.x a).toNat 32 = none →
     s.vectorStores = false → s.stationHeld = false → s.isBad (tileKey s.tile (s.x a).toNat) 32 = false → handleFieldsOk bs h = true →
     find? (s.dieAt s.die).handles (field (s.x b) 11 0) = none →
     ∀ sp, find? s.spaces s.launch.space = some sp → sp.bytes ≤ 0x1800000 → h.fits sp.bytes (fun p => sp.parts.getLsbD p) = true →
       ∃ t, exec (.thb a b) s = .next t ∧ Steps s t 0#5 0#64 ∧ find? (t.dieAt s.die).handles (field (s.x b) 11 0) = some h)

/-- Where the local accesses of a copy place n bytes at an address: LOCAL, or the tile word of another tile (27 R258, R260). -/
def Sys2Proof.Spec.Lands (s : State) (c : Copy) (b : Block) (a : Word) (key : Nat) : Prop :=
  (b.dk = 0 ∧ s.localKey c.lnum c.tile c.psz false a b.bytes = .ok key) ∨ (b.dk = 3 ∧ s.tileWordKey c.lnum a b.bytes = .ok key)

/-- R254, R263, R269, R270, R273: a waiting copy that may start reads its source; its token falls once its source may be reused; one whose accesses are
done is performed, where no frozen zone and no other open exchange holds its destination (03 R32, 21 R205): a COPY in this package writes the bytes
of its elements in ascending order and nothing else, and leaves its queue.

TSZ writes the blocks of a range with zeros, TSC copies the blocks of one range to another, each as it was before any was written, and TSCMP counts the
blocks that differ in its context's status record, with the first of them, and writes nothing; each of handles that are still bound and, where it
writes, in no frozen landing zone. TSC and TSCMP of unequal slot sizes write nothing, and their context records an error. -/
def Obligations.CopiesStartAndArePerformed : Prop :=
  ∀ (die : BitVec 3) (id : Nat) (s : State) (c : Copy), s.copyAt die.toNat id = some c →
    (∀ b, c.op = .block b →
      (s.mayStart die.toNat c b = true → c.status = 0 → b.rdir = 0 → ∃ t d, exec (.copyStart die id) s = .next t ∧ t.copyAt die.toNat id = some d ∧
        d.st = .started (State.readSource die.toNat c b (List.range b.count) [] 0 (s.markReads die.toNat c)).1 [] ∧ t.pc = s.pc ∧
        ∀ r, t.x r = s.x r) ∧
      (∀ n, c.sourceDone = true → c.tok = some n → ∃ t, exec (.tokenComplete die id) s = .next t ∧
        (t.copyAt die.toNat id).map (·.tok) = some none ∧ t.mem = s.mem ∧ (∀ r, t.x r = s.x r) ∧
        (s.q.mode ≠ .idle → s.q.k.party = c.party → s.grp = grpOf c.tile → look t.q.k.tok n = look s.q.k.tok n - 1)) ∧
      (∀ (data : List (Nat × List Byte)) (key : Nat → Nat), c.st = .started data [] → c.unsent = [] → c.status = 0 → b.kind = 0 → b.rdir = 0 → b.of = false →
        s.writesHeld die.toNat c b = false → s.copyFrozen c b = false →
        (∀ p ∈ data, p.2.length = b.bytes ∧ Lands s c b (b.dstAt p.1) (key p.1)) →
        let apart (p q : Nat × List Byte) : Prop := key q.1 + b.bytes ≤ key p.1 ∨ key p.1 + b.bytes ≤ key q.1
        ∃ t, exec (.copyPerformed die id) s = .next t ∧
          (∀ before p later, data = before ++ p :: later → (∀ q ∈ later, apart p q) → ∀ i, i < b.bytes → some (look t.mem (key p.1 + i)) = p.2[i]?) ∧
          (∀ k, (∀ p ∈ data, k < key p.1 ∨ key p.1 + b.bytes ≤ k) → look t.mem k = look s.mem k) ∧
          t.copyAt die.toNat id = none ∧ t.pc = s.pc ∧ ∀ r, t.x r = s.x r)) ∧
    (let ends (p : State → Prop) : Prop :=
       ∃ t, exec (.tsOpComplete die id) s = .next t ∧ t.copyAt die.toNat id = none ∧ t.pc = s.pc ∧ (∀ r, t.x r = s.x r) ∧ p t
     let size (h : Handle) : Nat := h.slotSize
     let at_ (h : Handle) (b : Nat) : Nat := h.key die.toNat b
     let online (h : Handle) (first count : Nat) : Prop := s.stillBound die.toNat h = true ∧ s.rangeOffline die.toNat h first count = false
     let record (x : State) : CtxStatus := x.ctxStatus die.toNat c.ctx
     c.status = 0 → s.opWaits die.toNat c = false →
     (∀ h first count, c.op = .tsz h first count → online h first count → ends (fun t =>
       (∀ b i, first ≤ b → b < first + count → i < size h → look t.mem (at_ h b + i) = 0#8) ∧
       ∀ k, (∀ b, first ≤ b → b < first + count → k < at_ h b ∨ at_ h b + size h ≤ k) → look t.mem k = look s.mem k)) ∧
     (∀ h first count h2 first2, c.op = .tsc h first count h2 first2 → size h = size h2 → online h first count → online h2 first2 count →
       s.rangeBad die.toNat h first count = false → ends (fun t =>
         (∀ j, j < count → (∀ m, j < m → m < count → at_ h2 (first2 + m) + size h ≤ at_ h2 (first2 + j) ∨ at_ h2 (first2 + j) + size h ≤ at_ h2 (first2 + m)) →
           ∀ i, i < size h → look t.mem (at_ h2 (first2 + j) + i) = look s.mem (at_ h (first + j) + i)) ∧
         ∀ k, (∀ j, j < count → k < at_ h2 (first2 + j) ∨ at_ h2 (first2 + j) + size h ≤ k) → look t.mem k = look s.mem k)) ∧
     (∀ h first count h2 first2 hid, c.op = .tscmp h first count h2 first2 hid → size h = size h2 → online h first count → online h2 first2 count →
       s.rangeBad die.toNat h first count = false → s.rangeBad die.toNat h2 first2 count = false → ends (fun t =>
         (∀ k, look t.mem k = look s.mem k) ∧
         ∀ ds : List Nat, ds.Pairwise (· < ·) →
           (∀ j, j ∈ ds ↔ j < count ∧ ∃ i, i < size h ∧ look s.mem (at_ h (first + j) + i) ≠ look s.mem (at_ h2 (first2 + j) + i)) →
           (record t).cmp = (record s).cmp + BitVec.ofNat 64 ds.length ∧
           (record t).cmpf = (match ds.head? with
             | some j => if (record s).cmpf = -1#64 then BitVec.ofNat 64 ((first + j) * 4096 + hid) else (record s).cmpf
             | none => (record s).cmpf) ∧
           (record t).errs = (record s).errs)) ∧
     (∀ h h2, s.stillBound die.toNat h = true → s.stillBound die.toNat h2 = true → size h ≠ size h2 →
       (∃ first count first2, c.op = .tsc h first count h2 first2 ∨ ∃ hid, c.op = .tscmp h first count h2 first2 hid) →
       ends (fun t => (∀ k, look t.mem k = look s.mem k) ∧ (record t).errs = min 65535 ((record s).errs + 1))))

/-! ## The sum-tree engine (29) -/

/-- R277, R282, R284, R285, R288: a numbered command on a tree of the launch, its records in the tile's share, with room in the engine's queue, is
queued last in its tree; PRCFG gives a held tree its new exponent and key, or holds a free one with every leaf 0; PRCLR marks its tree. A tree that
is not the launch's raises cause 0x15.

R299 to R301: a numbered command that the issuer's accumulator may take is queued; SGCFG holds a free accumulator in the identity state of its shape,
and one with M = 0 frees a held one that is idle; a launch that does not hold the accumulator gets cause 0x15.

R310 to R313, R319, R320: a numbered command on a meeting of the launch is queued; QMOPEN opens a member meeting at its descriptor's first round;
QMWAIT of a closed round completes, and of an open one of a member meeting whose home sends no results it raises cause 0x15; QMEXCL excludes a member where enough remain; QMCLOSE of a meeting with no command outstanding frees it. -/
def Obligations.TreeSignatureAndMeetingCommands : Prop :=
  ((∀ i p k a len al op (s : State), TreeCommand i p k a len al op →
      (HasHandler s → s.treeOf p.toNat = none → TrapsPlain i s 0x15#64) ∧
      (∀ x, s.treeOf p.toNat = some x → 1 ≤ len s → len s ≤ treeLimit (op s) → InTile s (s.x a) (len s) al → s.prFull = false →
        s.vectorStores = false → s.stationHeld = false → ∃ t y c, exec i s = .next t ∧ Posted s t k.toNat ∧
          find? (t.dieAt s.die).trees p.toNat = some y ∧ y = { x with queue := x.queue ++ [c] } ∧ c.op = op s ∧ c.addr = s.x a ∧
          c.num = nextNumber s k.toNat)) ∧
    (∀ (p : BitVec 2) (k : BitVec 3) (a b : BitVec 5) (s : State) (x : Tree),
      let key := tileKey s.tile (s.x a).toNat
      let n := s.peekNat key 2
      s.treeOf p.toNat = some x → InTile s (s.x a) 32 32 → s.vectorStores = false → s.stationHeld = false → s.prFull = false →
      s.isBad key 32 = false → drawOk (s.peek key 32) = true → s.peekNat (key + 2) 1 = 0 → InTile s (s.x b) (16 * n) 16 →
      ∃ t y c, exec (.prdraw p k a b) s = .next t ∧ Posted s t k.toNat ∧ find? (t.dieAt s.die).trees p.toNat = some y ∧
        y = { x with queue := x.queue ++ [c] } ∧ c.op = .draw n 0 (s.peekNat (key + 8) 4) (s.peekNat (key + 16) 16) (s.x b) ∧
        c.beta = x.beta ∧ c.key = x.key) ∧
    (∀ (p : BitVec 2) (a : BitVec 5) (s : State),
      let key := tileKey s.tile (s.x a).toNat
      InTile s (s.x a) 32 32 → s.vectorStores = false → s.stationHeld = false → s.isBad key 32 = false → treeConfigOk (s.peek key 32) = true →
      (∀ x, find? (s.dieAt s.die).trees p.toNat = some x → x.lnum = s.q.k.lnum → x.hid = s.peekNat key 2 → x.nleaf = s.peekNat (key + 4) 4 →
        ∃ t y, exec (.prcfg p a) s = .next t ∧ Steps s t 0#5 0#64 ∧ find? (t.dieAt s.die).trees p.toNat = some y ∧
          y = { x with beta := BitVec.ofNat 32 (s.peekNat (key + 8) 4), key := BitVec.ofNat 64 (s.peekNat (key + 16) 8) }) ∧
      (∀ h, find? (s.dieAt s.die).trees p.toNat = none → s.handleOf (s.peekNat key 2) = some h → h.desc = 0x04000000#32 →
        4 * 2 ^ log2up (s.peekNat (key + 4) 4) ≤ h.rows * h.cols → s.handleBusy h = false →
        ∃ t y, exec (.prcfg p a) s = .next t ∧ Steps s t 0#5 0#64 ∧ find? (t.dieAt s.die).trees p.toNat = some y ∧ y.lnum = s.q.k.lnum ∧
          y.nleaf = s.peekNat (key + 4) 4 ∧ (∀ i, look y.prio i = 0#32) ∧
          (find? (t.dieAt s.die).handles (s.peekNat key 2)).map (·.tree) = some (some p.toNat))) ∧
    (∀ (p : BitVec 2) (s : State) (x : Tree), s.treeOf p.toNat = some x → s.vectorStores = false → s.stationHeld = false →
      ∃ t, exec (.prclr p) s = .next t ∧ Steps s t 0#5 0#64 ∧ find? (t.dieAt s.die).trees p.toNat =
        some { x with clrBy := x.clrBy ++ [(s.q.k.home.toNat * 4 + s.q.k.role.toNat, s.q.k.ts)] })) ∧
  ((∀ i k addr len al ok op (s : State), SigCommand i k addr len al ok op →
      (HasHandler s → s.sigOf = none → TrapsPlain i s 0x15#64) ∧
      (∀ x, s.sigOf = some x → ok s → 0 < len s x → InTile s (addr s) (len s x) al → x.queue.length < (s.dieAt s.die).sgQlim → s.vectorStores = false →
        s.stationHeld = false → ∃ t c, exec i s = .next t ∧ Posted s t k.toNat ∧
          (t.groupAt s.grp).sig = { x with queue := x.queue ++ [c] } ∧ c.op = op s ∧ c.addr = addr s ∧ c.num = nextNumber s k.toNat)) ∧
    (∀ (k : BitVec 3) (s : State) (x : Sig), s.sigOf = some x → x.queue.length < (s.dieAt s.die).sgQlim → s.vectorStores = false →
      s.stationHeld = false → ∃ t c, exec (.sgclr k) s = .next t ∧ Posted s t k.toNat ∧
        (t.groupAt s.grp).sig = { x with queue := x.queue ++ [c] } ∧ c.op = .clr) ∧
    (∀ (a : BitVec 5) (s : State), s.launch.secondary = false →
      (let d := field (s.x a) 4 0
       let m := field (s.x a) 10 8
       (s.groupAt s.grp).sig.held = none → s.x a &&& 0xFFFFFFFFFFFFF8E0#64 = 0#64 → shapeOk d m false = true →
       (∃ x ∈ s.footOf s.q.k.lnum, x / 16 = s.grp) → (s.groupAt s.grp).sig.queue = [] →
       ∃ t, exec (.sgcfg a) s = .next t ∧ Steps s t 0#5 0#64 ∧
         (t.groupAt s.grp).sig = { Sig.reset with held := some s.q.k.lnum, lead := s.grp, d := d, m := m }) ∧
      ((s.groupAt s.grp).sig.held = some s.q.k.lnum → (s.groupAt s.grp).sig.team = false → (s.groupAt s.grp).sig.queue = [] →
       s.x a = 0#64 → ∃ t, exec (.sgcfgRelease a) s = .next t ∧ Steps s t 0#5 0#64 ∧ (t.groupAt s.grp).sig = Sig.reset))) ∧
  ((∀ i m k a len ok op (s : State), MeetCommand i m k a len ok op →
      (HasHandler s → s.meetOf m.toNat = none → TrapsPlain i s 0x15#64) ∧
      (∀ x, s.meetOf m.toNat = some x → ok s x → InTile s (s.x a) (len x) 32 → s.qmFull = false → s.vectorStores = false →
        s.stationHeld = false → ∃ t c, exec i s = .next t ∧ Posted s t k.toNat ∧
          t.meetAt s.grp m.toNat = some { x with queue := x.queue ++ [c] } ∧ c.op = op s ∧ c.addr = s.x a ∧ c.sent = false)) ∧
    (∀ (m : BitVec 4) (a b : BitVec 5) (s : State),
      (∀ x, s.meetOf m.toNat = some x → field (s.x a) 31 0 < x.open_ → CompletesPlainly (.qmwait m a) s) ∧
      (∀ x, s.meetOf m.toNat = some x → HasHandler s → x.home = false → x.open_ ≤ field (s.x a) 31 0 → s.homeSilent x = true →
        TrapsPlain (.qmwait m a) s 0x15#64) ∧
      (∀ x, s.meetOf m.toNat = some x → x.home = true → (s.x b).toNat < x.n → (s.x b).toNat < 2048 → (s.x b).toNat ∉ x.excluded →
        x.quorum + x.excluded.length < x.n → ∃ t y, exec (.qmexcl m b) s = .next t ∧ Steps s t 0#5 0#64 ∧ t.meetAt s.grp m.toNat = some y ∧
          y.excluded = x.excluded ++ [(s.x b).toNat] ∧ (∀ c ∈ y.onTime, c.1 ≠ (s.x b).toNat) ∧ y.open_ = x.open_) ∧
      (∀ x, s.meetOf m.toNat = some x → x.queue = [] → find? s.seqs s.cur = none → (∀ d u, s.q.hold ≠ some (.wait d u)) →
        ∃ t, exec (.qmclose m) s = .next t ∧ t.pc = s.pc + 4 ∧ (∀ r, t.x r = s.x r) ∧ t.meetAt s.grp m.toNat = none) ∧
      (let key := tileKey s.tile (s.x a).toNat
       let res : Word := BitVec.ofNat 64 (s.peekNat (key + 16) 8)
       let len := s.peekNat (key + 2) 2
       s.launch.secondary = false → InTile s (s.x a) 64 32 → s.vectorStores = false → s.stationHeld = false → s.isBad key 64 = false → s.meetAt s.grp m.toNat = none →
       s.peekNat key 1 = 1 → meetingFieldsOk (s.peek key 64) (parseMeeting (s.peek key 64)) = true → InTile s res (4 * len) 32 →
       ∃ t y, exec (.qmopen m a) s = .next t ∧ Steps s t 0#5 0#64 ∧ t.meetAt s.grp m.toNat = some y ∧ y.lnum = s.q.k.lnum ∧ y.home = false ∧
         y.len = len ∧ y.open_ = s.peekNat (key + 12) 4 ∧ y.resKey = tileKey s.tile res.toNat ∧ y.queue = [])))



/-- The packets of a contribution from another package have all arrived and wait for its decision (33 R314). -/
def Arrived (s : State) (g m : Nat) (c : Contribution) : Prop :=
  s.pieces g m c ≠ [] ∧ (s.pieces g m c).flatMap (·.payload) = c.vals.flatMap (fun v => leBytes 4 v.toNat)

/-- R283, R286, R290, R300, R303, R314, R315, R317, R318: the engines run the oldest command of a queue and it leaves the queue: a tree command leaves
every priority as it is (records are staged), PRSUM of a tree whose handle it holds bound, online and sound, writes its record; SGCLR gives the identity, and one increment of a one-level accumulator adds to each
element; a contribution on time, whose packets have all arrived, is held until the quorum is there; a result reaches a member meeting's buffer and closes its round. -/
def Obligations.EngineCommandsExecute : Prop :=
  (∀ (die : BitVec 3) (tree : BitVec 2) (s : State) (x : Tree) (c : PrCmd) (rest : List PrCmd), s.treeToRun die.toNat tree.toNat = some (x, false) →
    x.queue = c :: rest → (s.barOf x.lnum .die (grpOf c.tile)).exch = true →
    c.step.toNat ≤ (s.barOf x.lnum .die (grpOf c.tile)).count.toNat → s.prFrozen x.lnum c = false →
    ∃ t y, exec (.prCommandExecute die tree) s = .next t ∧ find? (t.dieAt die.toNat).trees tree.toNat = some y ∧ y.queue = rest ∧
      y.prio = x.prio ∧ y.gen = x.gen ∧ (∀ r, t.x r = s.x r) ∧ t.pc = s.pc ∧
      (c.op = .sum → x.failed = false → x.badStore = false → ∀ h, x.hdl = some h → find? (s.dieAt die.toNat).handles x.hid = some { h with tree := some tree.toNat } →
        s.rangeOffline die.toNat h 0 h.blocks = false → s.rangeBad die.toNat h 0 h.blocks = false →
        let at_ (i : Nat) : Nat := t.peekNat (tileKey c.tile c.addr.toNat + i) 4
        at_ 0 = x.total.toNat ∧ at_ 4 = x.minPrio.toNat ∧ at_ 8 = x.nleaf % 2 ^ 32 ∧ at_ 12 = x.prio.length % 2 ^ 32 ∧
          ∀ k, k < tileKey c.tile c.addr.toNat ∨ tileKey c.tile c.addr.toNat + 32 ≤ k → look t.mem k = look s.mem k)) ∧
  (∀ (grp : BitVec 10) (s : State) (l : Nat) (c : SgCmd) (rest : List SgCmd),
    let x := (s.groupAt grp.toNat).sig
    x.held = some l → x.queue = c :: rest → x.failed = false → x.team = false → x.badStore = false → c.step = none →
    s.sgFrozen l grp.toNat x c = false → s.waitingOf l c.party = [] →
    (c.op = .clr → ∃ t, exec (.sgCommandExecute grp) s = .next t ∧ (t.groupAt grp.toNat).sig =
      { x with queue := rest, lev := [], flags := 0#5, mismatch := false, count := 0#64 } ∧ (∀ r, t.x r = s.x r) ∧ t.mem = s.mem) ∧
    (c.op = .inc 1 → x.m = 1 →
      s.isBad (State.sgKey grp.toNat c) (4 * 1 * x.d) = false →
      ∃ t, exec (.sgCommandExecute grp) s = .next t ∧ (t.groupAt grp.toNat).sig.queue = rest ∧
        (t.groupAt grp.toNat).sig.count = x.count + 1 ∧ t.mem = s.mem ∧
        ∀ j, j < x.d → Levels.elem (t.groupAt grp.toNat).sig.lev 1 j =
          (add32 .rne false (Levels.elem x.lev 1 j) (BitVec.ofNat 32 (s.peekNat (State.sgKey grp.toNat c + 4 * j) 4))).1)) ∧
  (∀ (grp : BitVec 10) (meeting : BitVec 4) (s : State) (x : Meeting), s.meetAt grp.toNat meeting.toNat = some x →
    (∀ (c : QmCmd) (rest : List QmCmd) tag, x.queue = c :: rest → c.sent = false → c.op = .recRead tag → x.badWork = false →
      s.qmFrozen x.lnum grp.toNat c.addr.toNat 2336 = false →
      ∃ t, exec (.qmCommandExecute grp meeting) s = .next t ∧ (t.meetAt grp.toNat meeting.toNat).map (·.queue) = some rest ∧
        t.peekNat (tileKey c.tile c.addr.toNat) 4 = tag.toNat) ∧
    (∀ c : Contribution, Arrived s grp.toNat meeting.toNat c → x.len = c.vals.length → x.home = true → x.replay = false → x.open_ = c.tag.toNat → c.member.toNat < x.n → c.member.toNat ∉ x.excluded →
      field ((x.members.getD c.member.toNat 0).setWidth 64) 10 0 = c.pkg.toNat → x.known c.member.toNat c.tag.toNat = false →
      x.onTime.length + 1 < x.quorum →
      ∃ t y, exec (.qmContributionArrival grp meeting c) s = .next t ∧ t.meetAt grp.toNat meeting.toNat = some y ∧
        y.onTime = x.onTime ++ [(c.member.toNat, c.tag.toNat, c.vals)] ∧ y.open_ = x.open_ ∧ t.mem = s.mem) ∧
    (∀ (tag : BitVec 32) (vs : List (BitVec 32)), x.home = false → x.open_ = tag.toNat → vs.length = x.len →
      ∃ t y, exec (.qmResultArrival grp meeting tag vs) s = .next t ∧ t.meetAt grp.toNat meeting.toNat = some y ∧
        y.open_ = tag.toNat + 1 ∧ (∀ i, i < x.len → some (BitVec.ofNat 32 (t.peekNat (x.resKey + 4 * i) 4)) = vs[i]?) ∧
        ∀ k, k < x.resKey ∨ x.resKey + 4 * x.len ≤ k → look t.mem k = look s.mem k))

/-- R283, R296, R314, R315, R317: an engine's event completes whatever its command is, and no register, no hold and no PC of a continuation
changes. PR_COMMAND_EXECUTE, of a held tree or of a freed one that still has commands (29 R285): in the exchange of its die, not frozen.
SG_COMMAND_EXECUTE: in the exchange of its group where the command waits for one, not frozen. QM_COMMAND_EXECUTE: the first command that has not
been sent, not frozen, and a QMJOIN to a home in another package once its launch is known there and its context's window has room (25 R243).
QM_CONTRIBUTION_ARRIVAL: all the packets are there; they are acknowledged, and leave the buffer. QM_RESULT_ARRIVAL: a member meeting whose open
round is not past the result's.

The model's choices among these clauses: a freed tree runs the commands that it accepted in the superstep of its PRCLR (log 173), and
QM_CONTRIBUTION_ARRIVAL takes the held packets that agree with its operands and acknowledges them (log 148). -/
def Obligations.EngineEventsComplete : Prop :=
  ∀ s : State,
    let completes (i : Instr) : Prop := ∃ t, exec i s = .next t ∧ t.pc = s.pc ∧ (∀ r, t.x r = s.x r) ∧ t.q.hold = s.q.hold
    (∀ (die : BitVec 3) (tree : BitVec 2) (x : Tree) (leaving : Bool) (c : PrCmd) (rest : List PrCmd),
      s.treeToRun die.toNat tree.toNat = some (x, leaving) → x.queue = c :: rest →
      (s.barOf x.lnum .die (grpOf c.tile)).exch = true → c.step.toNat ≤ (s.barOf x.lnum .die (grpOf c.tile)).count.toNat →
      s.prFrozen x.lnum c = false → completes (.prCommandExecute die tree)) ∧
    (∀ (grp : BitVec 10) (l : Nat) (c : SgCmd) (rest : List SgCmd),
      let x := (s.groupAt grp.toNat).sig
      let bar := s.barOf l .group grp.toNat
      x.held = some l → x.queue = c :: rest → (∀ n, c.step = some n → bar.exch = true ∧ n.toNat ≤ bar.count.toNat) →
      s.sgFrozen l grp.toNat x c = false → completes (.sgCommandExecute grp)) ∧
    (∀ (grp : BitVec 10) (meeting : BitVec 4),
      (∀ (x : Meeting) (c : QmCmd), s.meetAt grp.toNat meeting.toNat = some x → x.queue.find? (fun c => !c.sent) = some c →
        ((∃ tag, c.op = .recRead tag ∨ c.op = .recForce tag) → s.qmFrozen x.lnum grp.toNat c.addr.toNat 2336 = false →
          completes (.qmCommandExecute grp meeting)) ∧
        (∀ tag i, c.op = .join tag i → s.qmFrozen x.lnum grp.toNat c.addr.toNat (4 * x.len) = false →
          (x.home = false → field x.link 10 0 ≠ s.index → s.remote x.lnum (field x.link 10 0) ≠ .waits ∧
            s.unacked (grp.toNat / 128) c.ctx (field x.link 10 0) + (4 * x.len + 255) / 256 ≤ 4096) →
          completes (.qmCommandExecute grp meeting))) ∧
      (∀ c : Contribution, Arrived s grp.toNat meeting.toNat c → completes (.qmContributionArrival grp meeting c)) ∧
      (∀ (x : Meeting) (tag : BitVec 32) (vs : List (BitVec 32)), s.meetAt grp.toNat meeting.toNat = some x → x.home = false →
        x.open_ ≤ tag.toNat → completes (.qmResultArrival grp meeting tag vs)))

/-! ## The schedule (03, 05, 35) -/

/-- R22, R23, R56, R198, R332, R340 to R342: a free sequencer takes the record that its turn gives and runs it from its PC; a waiting record whose condition
holds becomes ready; a hold ends when its condition holds, and suspends when WHOLD has passed; a stop and a suspension leave a record that holds the
continuation; a station's fault becomes pending, and a pending cause is taken as an asynchronous trap. That such a trap abandons a hold and saves
the held instruction's own address in EPC is the model's reading of the boundary (log 94). -/
def Obligations.SchedulingSteps : Prop :=
  ∀ (sq : BitVec 16) (s : State),
    let n := sq.toNat
    let g := grpOf (tileOf n)
    let q := s.seqAt n
    (∀ slot, s.seqFree n = true → s.pickTurn n = true → s.pickSlot n = some slot → (s.loadCont n slot).1.pend = none →
      (s.loadCont n slot).1.pendMore = [] → ∃ t, exec (.pick sq) s = .next t ∧ (t.seqAt n).mode = .run ∧
        (t.seqAt n).k.pc = s.recDword g slot 0 ∧ (t.seqAt n).k.lnum = s.recLnum g slot ∧ (t.seqAt n).lwgt = [2#64, 4#64, 8#64].getD (n % 3) 0#64 ∧
        t.recState g slot = 2) ∧
    (∀ (grp : BitVec 10) (slot : BitVec 8), s.recordDue grp.toNat slot.toNat = true →
      ∃ t, exec (.recordReady grp slot) s = .next t ∧ t.recState grp.toNat slot.toNat = 1 ∧
        ∀ k, k ≠ recKey grp.toNat slot.toNat + 18 → look t.mem k = look s.mem k) ∧
    (∀ d u, q.mode = .run → q.hold = some (.wait d u) → u ≤ s.clk → (s.focusOn n).waitHolds d = false →
      ∃ t, exec (.waitHoldExpiry sq) s = .next t ∧ t.cur = n ∧ t.q.mode = .writeBack d ∧ t.q.hold = none ∧ t.pc = q.k.pc + 4) ∧
    (q.mode = .run →
      (∀ d u, q.hold = some (.wait d u) → (s.focusOn n).waitHolds d = true →
        ∃ t, exec (.holdRelease sq) s = .next t ∧ t.cur = n ∧ t.q.mode = .run ∧ t.q.hold = none ∧ t.pc = q.k.pc + 4) ∧
      (∀ d, q.hold = some (.wfe d true) → ∃ t, exec (.holdRelease sq) s = .next t ∧ t.q.hold = none ∧ t.pc = q.k.pc + 4) ∧
      (q.hold = some .other → ∃ t, exec (.holdRelease sq) s = .next t ∧ t.cur = n ∧ t.q = { q with hold := none }) ∧
      (q.stop = true → q.k.pend = none → ∃ t, exec (.preemptStop sq) s = .next t ∧ t.cur = n ∧ t.q.mode = .writeBack 0 ∧ t.q.stop = false ∧ t.q.k = q.k) ∧
      (∀ c a, q.k.fault = some (c, a) → q.k.pend = none → ∃ t, exec (.stationFault sq) s = .next t ∧
        (t.seqAt n).k = { q.k with fault := none, pend := some (c, a) } ∧ t.mem = s.mem) ∧
      (∀ c a, q.k.pend = some (c, a) → HasHandler (s.focusOn n) → ∃ t, exec (.asyncTrapEntry sq) s = .next t ∧ t.cur = n ∧
        t.csr 0x001 = BitVec.ofNat 64 (0x100 + c.toNat) ∧ t.csr 0x002 = q.k.pc ∧ t.csr 0x004 = a ∧ t.csr 0x201 = look q.k.csr 0x000 ∧
        t.csr 0x000 = look q.k.csr 0x000 ||| 9#64 ∧ t.pc = 4 * BitVec.ofNat 64 (field (look q.k.csr 0x005) 55 2) ∧ t.q.hold = none)) ∧
    (∀ d, q.mode = .writeBack d → q.vq = [] → s.underWay q.k.lnum q.k.party = false → q.k.fault = none → q.k.lnum < 65536 → (s.groupAt g).spilled + q.k.saveSize ≤ 0xC000 →
      ∃ t, exec (.recordWriteBack sq) s = .next t ∧ (t.seqAt n).mode = .idle ∧
        t.recState g q.k.slot = (if field d 63 60 = 0 then 1 else 3) ∧ t.recDword g q.k.slot 0 = q.k.pc ∧ t.recDword g q.k.slot 32 = d ∧
        t.recDword g q.k.slot 40 = look q.k.csr 0x000 ∧ t.recLnum g q.k.slot = q.k.lnum ∧
        ∀ k, k < recKey g q.k.slot ∨ recKey g q.k.slot + 64 ≤ k → look t.mem k = look s.mem k) ∧
    (∀ (grp : BitVec 10) x rest, (s.groupAt grp.toNat).spills = x :: rest → ∃ t, exec (.spillWriteOut grp) s = .next t ∧
      (t.groupAt grp.toNat).spills = rest ∧
      ∀ w leaf pa s', x.data = [w] → s.translate (grp.toNat / 128) x.space x.addr.toNat = .ok (leaf, pa, s') → permits leaf .st = true →
        s.inText x.space x.addr.toNat = false →
        physKind s.form pa ≠ some .dev → t.peekNat pa 8 = w.toNat ∧ ∀ k, k < pa ∨ pa + 8 ≤ k → look t.mem k = look s.mem k)

/-! ## Launches and device registers (05, 41) -/

/-- R49, R52 to R54, R364: the entry that the command processor serves is read and reported: an unknown operation gives report 2, a command that passes its
checks is accepted, and an entry of an unmapped host page gives report 3 and stops its queue (41 R368); a launch whose turn it is is placed on the
footprint that it can have; the first that has waited longer than PLWAIT halts the others.

The model's choices among these clauses: an entry with an unknown operation gets report 2 and no completion (log 82); what fails a check
that no list names gets status 1 (logs 80 and 153); of several launches that have waited longer than PLWAIT the first in acceptance order
halts the others (log 171). -/
def Obligations.LaunchesAreAcceptedAndPlaced : Prop :=
  (∀ (n : BitVec 6) (e : BitVec 512) (s : State) (x : Queue), s.nextQueue = some n.toNat → find? s.queues n.toNat = some x → x.hbm = false →
    let y : Queue := { x with read := x.read + 1 }
    let read := State.headReport { s with queues := ins s.queues n.toNat y, turn := put s.turn x.cls (BitVec.ofNat 8 (n.toNat + 1)) } y 0
    (operandAt e 0 1 ≠ 1 → ∃ t, exec (.launchCommand n (some e)) s = .next t ∧ (find? t.queues n.toNat).map (·.read) = some (x.read + 1) ∧
      t.hostOut = s.hostOut ++ [(x.head, leBytes 4 ((x.read + 1) % 2 ^ 32) ++ leBytes 1 2 ++ [0, 0, 0])] ∧ t.launches = s.launches) ∧
    (operandAt e 0 1 = 1 → ∀ r u, read.checkLaunch n.toNat x (entryBytes e) = some (r, u) →
      ∃ t, exec (.launchCommand n (some e)) s = .next t ∧ t.launchAt? (operandAt e 2 2) = some r ∧
        t.accepted = u.accepted ++ [operandAt e 2 2]) ∧
    (operandAt e 0 1 = 1 → read.checkLaunch n.toNat x (entryBytes e) = none →
      ∃ t, exec (.launchCommand n (some e)) s = .next t ∧ t.launches = s.launches ∧
        t.hostOut.getLast? = some (BitVec.ofNat 64 (operandAt e 40 8), State.completion 1 0 0 0 [])) ∧
    (∃ t, exec (.launchCommand n none) s = .next t ∧ (find? t.queues n.toNat).map (·.stopped) = some true ∧ t.launches = s.launches ∧
      t.hostOut = s.hostOut ++ [(x.head, leBytes 4 ((x.read + 1) % 2 ^ 32) ++ leBytes 1 3 ++ [0, 0, 0])])) ∧
  (∀ (l : BitVec 16) (s : State) (x : Launch) (foot : List Nat), s.launchAt? l.toNat = some x → s.placeTurn l.toNat x = true →
    s.chooseFoot x = some foot →
    (s.readParts x = none → ∃ t, exec (.placement l) s = .next t ∧ t.launchAt? l.toNat = none) ∧
    (∀ r, s.readParts x = some r → ∃ t y, exec (.placement l) s = .next t ∧ t.launchAt? l.toNat = some y ∧ y.placed = true ∧ y.foot = foot ∧
      y.zones = r.2.1 ∧ y.sched = r.2.2.1 ∧ l.toNat ∉ t.accepted)) ∧
  (∀ (l : BitVec 16) (s : State) (x : Launch) (before after : List Nat), s.accepted = before ++ l.toNat :: after → s.launchAt? l.toNat = some x →
    s.plHalt = none → field (look s.dev 0x100008) 31 0 ≠ 0 → x.acceptedAt + field (look s.dev 0x100008) 31 0 * 1050 < s.clk →
    (∀ m ∈ before, s.clk ≤ (s.launchAt m).acceptedAt + field (look s.dev 0x100008) 31 0 * 1050) →
    exec (.plwaitExpiry l) s = .next { s with plHalt := some l.toNat } ∧ ∀ m y, m ≠ l.toNat → s.placeTurn m y = false)

/-- R65, R251, R292, R308, R363, R375, R376: what a host write leaves in each register: limits act on the value, sticky bits clear where the write has
ones, a doorbell needs its queue, which a virtual function's write names only where the queue is its own (41 R362), and an unassigned offset takes nothing.

The model's choices among these clauses: a register with a limit keeps the value written and the capped value acts (log 111); an unassigned
offset takes nothing (log 12); a doorbell that a virtual function writes for a queue of another function is dropped (log 172). -/
def Obligations.DeviceRegistersTakeTheirValue : Prop :=
  ∀ (s : State) (v : BitVec 64) (w : BitVec 32) (die : BitVec 3) (n : BitVec 6) (off : BitVec 32) (size : DevSize),
    let word (o : Nat) (x : Nat) : Word := BitVec.ofNat 64 (field (look s.dev o) 63 32 * 2 ^ 32 + x)
    let writes (i : Instr) (o : Nat) (x : Word) : Prop := ∃ t, exec i s = .next t ∧ Sets s t o x
    let err := 0x300000 + 0x1000 * die.toNat
    (find? s.queues n.toNat ≠ none → writes (.launchDoorbell ⟨0, n⟩ w) (0x1000 * n.toNat) (word (0x1000 * n.toNat) w.toNat)) ∧
    (∀ (fn : BitVec 4) x, find? s.queues n.toNat = some x → x.function = fn.toNat →
      writes (.launchDoorbell ⟨fn, n⟩ w) (0x1000 * n.toNat) (word (0x1000 * n.toNat) w.toNat)) ∧
    (∀ (fn : BitVec 4) x, find? s.queues n.toNat = some x → fn ≠ 0#4 → x.function ≠ fn.toNat → exec (.launchDoorbell ⟨fn, n⟩ w) s = .next s) ∧
    (∀ fn : BitVec 4, find? s.queues n.toNat = none → exec (.launchDoorbell ⟨fn, n⟩ w) s = .next s) ∧
    writes (.adminDoorbell w) 0x40000 (word 0x40000 w.toNat) ∧
    writes (.swpintWrite w) 0x100000 (word 0x100000 w.toNat) ∧
    writes (.plwaitWrite w) 0x100008 (word 0x100008 w.toNat) ∧
    (field (look s.dev 0x200008) 31 0 < w.toNat → writes (.fgapWrite w) 0x200000 (word 0x200000 w.toNat)) ∧
    (w.toNat ≤ field (look s.dev 0x200008) 31 0 → field (look s.dev 0x200008) 31 0 + 1 < 2 ^ 32 →
      writes (.fgapWrite w) 0x200000 (BitVec.ofNat 64 (field (look s.dev 0x200008) 31 0 + 1))) ∧
    writes (.fstatClear v) 0x200010 (look s.dev 0x200010 &&& ~~~(v &&& 7#64)) ∧
    writes (.plimitWrite v) 0x308000 ((look s.dev 0x308000 &&& ~~~0x1FFF#64) ||| (v &&& 0x1FFF#64)) ∧
    (die.toNat < dieCount s.form →
      (∃ t, exec (.prQlimWrite die v) s = .next t ∧ (t.dieAt die.toNat).prQlim = min 256 (max 16 (field v 8 0)) ∧ t.dev = s.dev ∧ t.q = s.q) ∧
      (∃ t, exec (.sgQlimWrite die v) s = .next t ∧ (t.dieAt die.toNat).sgQlim = min 64 (max 4 (field v 6 0)) ∧ t.dev = s.dev ∧ t.q = s.q) ∧
      writes (.reliabilityStickyClear die v) (err + 0x10) (look s.dev (err + 0x10) &&& ~~~(v &&& 7#64)) ∧
      (∃ t, exec (.ceConfigWrite die v) s = .next t ∧ field (look t.dev err) 3 0 = max 2 (field v 3 0) ∧
        1 ≤ field (look t.dev err) 63 32 ∧ field (look t.dev err) 63 32 ≤ 3600 ∧
        (1 ≤ field v 63 32 → field v 63 32 ≤ 3600 → field (look t.dev err) 63 32 = field v 63 32) ∧
        ∀ o, o ≠ err → look t.dev o = look s.dev o)) ∧
    (dieCount s.form ≤ die.toNat → exec (.prQlimWrite die v) s = .next s ∧ exec (.sgQlimWrite die v) s = .next s) ∧
    (devMask (off.toNat / 8 * 8) = none → exec (.deviceRegisterWrite off size v) s = .next s) ∧
    (off = 0x40018#32 → writes (.deviceRegisterWrite off .dword v) 0x40018 v)

/-- R362, R368 to R370, R199, R200, R342, R346: the commands of the admin queue for queues, spaces, jobs and launches, each with its operands in order, take
effect and are completed with status 0; one that names a queue, a space or a launch that does not exist is completed with status 1, an operation
outside the table with status 3. The functions of the package lock, run and fail.

The model's choices among these clauses: MAP_SPACE of a mapped space and JOB_DECLARE of a declared tag replace the old one (log 106);
enabling the periscope starts a new count of records (`scopeFrom`, log 128). -/
def Obligations.AdminQueueCommands : Prop :=
  ∀ (e : BitVec 512) (s : State),
    let n := operandAt e 8 2
    let q := operandAt e 8 1
    (AdminReady s e 0x01 [(8, 5), (14, 18)] → q < 64 → operandAt e 9 1 ≤ 3 → 4 ≤ operandAt e 10 1 → operandAt e 10 1 ≤ 16 → operandAt e 11 1 ≤ 1 →
      operandAt e 12 1 ≤ 15 → find? s.spaces (operandAt e 14 2) ≠ none →
      (find? s.queues q = none → s.tdiOf (operandAt e 12 1) = .unlocked → ∃ t x, exec (.createQueue e) s = .next t ∧ Answers s t 0 0 ∧
        find? t.queues q = some x ∧ x.cls = operandAt e 9 1 ∧ x.n = operandAt e 10 1 ∧ x.base = BitVec.ofNat 64 (operandAt e 16 8) ∧
        x.head = BitVec.ofNat 64 (operandAt e 24 8) ∧ x.read = 0 ∧ look t.dev (0x1000 * q) = 0#64) ∧
      (find? s.queues q ≠ none → ∃ t, exec (.createQueue e) s = .next t ∧ Answers s t 2 0 ∧ t.queues = s.queues)) ∧
    (AdminReady s e 0x01 [(8, 5), (14, 18)] → find? s.spaces (operandAt e 14 2) = none →
      ∃ t, exec (.createQueue e) s = .next t ∧ Answers s t 1 0 ∧ t.queues = s.queues) ∧
    (AdminReady s e 0x02 [(8, 1)] →
      (find? s.queues q = none → ∃ t, exec (.destroyQueue e) s = .next t ∧ Answers s t 1 0) ∧
      (∀ x, find? s.queues q = some x → s.fnFrozen x.function = false → ∃ t, exec (.destroyQueue e) s = .next t ∧ find? t.queues q = none ∧
        Answers s t 0 (BitVec.ofNat 64 (s.accepted.filter (fun l => (s.launchAt l).queue == q)).length))) ∧
    (AdminReady s e 0x03 [(8, 2), (16, 20)] → operandAt e 16 8 % 2 ^ 20 = 0 → operandAt e 32 4 % 512 = 0 → operandAt e 32 4 ≤ 0x1800000 →
      s.spaceFrozen n = false → ∃ t, exec (.mapSpace e) s = .next t ∧ Answers s t 0 0 ∧
        find? t.spaces n = some { root := operandAt e 16 8, parts := BitVec.ofNat 64 (operandAt e 24 8), bytes := operandAt e 32 4 }) ∧
    (AdminReady s e 0x04 [(8, 2)] → find? s.spaces n ≠ none → (∀ p ∈ s.launches, p.2.space ≠ n) → s.spaceFrozen n = false →
      ∃ t, exec (.unmapSpace e) s = .next t ∧ Answers s t 0 0 ∧ find? t.spaces n = none) ∧
    (AdminReady s e 0x04 [(8, 2)] → find? s.spaces n = none → ∃ t, exec (.unmapSpace e) s = .next t ∧ Answers s t 1 0) ∧
    (AdminReady s e 0x05 [(8, 2)] →
      (find? s.spaces n ≠ none → ∃ t, exec (.invalidate e) s = .next t ∧ Answers s t 0 s.epoch ∧ ∀ d ∈ t.dies, ∀ x ∈ d.2.tlb, x.space ≠ n) ∧
      (find? s.spaces n = none → ∃ t, exec (.invalidate e) s = .next t ∧ Answers s t 1 0)) ∧
    (∀ xs, AdminReady s e 0x06 [(8, 6), (16, 8)] → operandAt e 8 4 ≠ 0 → 1 ≤ xs.length → xs.length = operandAt e 12 2 → xs.length ≤ 2048 →
      (∀ x ∈ xs, x < 2048) → s.jobFrozen (operandAt e 8 4) = false →
      ∃ t, exec (.jobDeclare e (.list xs)) s = .next t ∧ Answers s t 0 0 ∧ find? t.jobs (operandAt e 8 4) = some xs) ∧
    (s.launchAt? n = none →
      (AdminReady s e 0x07 [(8, 2)] → ∃ t, exec (.suspend e) s = .next t ∧ Answers s t 1 0) ∧
      (AdminReady s e 0x08 [(8, 2)] → ∃ t, exec (.resume e) s = .next t ∧ Answers s t 1 0) ∧
      (AdminReady s e 0x11 [(8, 2), (16, 12)] → ∃ t, exec (.periscope e) s = .next t ∧ Answers s t 1 0)) ∧
    (∀ x, s.launchAt? n = some x →
      (AdminReady s e 0x07 [(8, 2)] → x.suspended = false → ∃ t, exec (.suspend e) s = .next t ∧ Answers s t 0 0 ∧
        t.launchAt? n = some { x with suspended := true } ∧ (s.q.mode = .run → s.q.k.lnum = n → t.q.stop = true)) ∧
      (AdminReady s e 0x08 [(8, 2)] → x.suspended = true → ∃ t, exec (.resume e) s = .next t ∧ Answers s t 0 0 ∧
        t.launchAt? n = some { x with suspended := false }) ∧
      (AdminReady s e 0x11 [(8, 2), (16, 12)] → ∃ t, exec (.periscope e) s = .next t ∧ Answers s t 0 0 ∧
        t.launchAt? n = some { x with scope := some (BitVec.ofNat 64 (operandAt e 16 8), operandAt e 24 4), scopeFrom := s.scopeLog.length })) ∧
    (s.adminWaits = true → s.bootStep = 8 → s.adminOut = [] → operandAt e 0 1 = 0 ∨ 0x11 < operandAt e 0 1 →
      ∃ t, exec (.adminUnknownOp e) s = .next t ∧ Answers s t 3 0) ∧
    (∀ fn : BitVec 4, fn ≠ 0#4 →
      (s.tdiOf fn.toNat = .unlocked → ∃ t, exec (.tdispLock fn) s = .next t ∧ t.tdiOf fn.toNat = .locked ∧ t = { s with tdi := t.tdi }) ∧
      (s.tdiOf fn.toNat = .locked → ∃ t, exec (.tdispRun fn) s = .next t ∧ t.tdiOf fn.toNat = .run ∧ t = { s with tdi := t.tdi }) ∧
      (∃ t, exec (.tdiError fn) s = .next t ∧ t.tdiOf fn.toNat = .error ∧ ∀ m x, find? t.queues m = some x → x.function ≠ fn.toNat))

/-- A repair log of a partition as R371 lays it out: kind (1 row, 2 column, 3 lane, 4 no spare left), layer, partition and index of each entry, no
more repairs than 16 rows and 16 columns a layer and one lane in 32. -/
def RepairLog (part : Nat) (log : List (BitVec 128)) : Prop :=
  (∀ x ∈ log, 1 ≤ x.toNat % 2 ^ 8 ∧ x.toNat % 2 ^ 8 ≤ 4 ∧ x.toNat / 2 ^ 8 % 2 ^ 8 ≤ 1 ∧ x.toNat / 2 ^ 16 % 2 ^ 8 = part ∧
    x.toNat / 2 ^ 24 % 2 ^ 8 = 0 ∧ x.toNat / 2 ^ 64 = 0) ∧
  (∀ kind ∈ [1, 2], ∀ layer ∈ [0, 1], (log.filter (fun x => x.toNat % 2 ^ 8 == kind && x.toNat / 2 ^ 8 % 2 ^ 8 == layer)).length ≤ 16) ∧
  ((log.filter (fun x => x.toNat % 2 ^ 8 == 3)).map (fun x => x.toNat / 2 ^ 32 % 2 ^ 32 / 32)).Nodup

/-- R371, R323, R325, R327, R247: the admin commands of partitions, attestation, enclaves and windows. A drained partition is offline once no access remains; a
repaired one is zeroed, with any log that R371's layout and its spares allow. An enclave forms where every member's answer is good: it accepts, and its eight measurements are each zero or in the list of
accepted values (that a register which no stage extends passes, log 169, is the model's choice); another member than the leader takes the secret that
the leader has sent.

Two more clauses are the model's choice: ATTEST completes with status 0 whatever the size of the buffer, its report cut there (log 102); and
what FORM_ENCLAVE takes as operands (log 169). That lanes are numbered through both layers is its choice too (log 101). -/
def Obligations.AdminPartitionAndEnclaveCommands : Prop :=
  ∀ (e : BitVec 512) (s : State),
    let d := operandAt e 8 1
    let p := operandAt e 9 1
    (d < dieCount s.form → p < 64 →
      (AdminReady s e 0x09 [(8, 2)] → s.partAt d p = .online → ∃ t, exec (.drain e) s = .next t ∧ t.partAt d p = .draining ∧
        t.hostOut = s.hostOut ∧ t.adminOut = [{ index := s.adminRead + 1, job := .drain d p, done := none }]) ∧
      (AdminReady s e 0x0A [(8, 2), (16, 12)] → s.partAt d p = .offline → ∃ t, exec (.testRepair e) s = .next t ∧ t.partAt d p = .testing ∧
        t.hostOut = s.hostOut) ∧
      (AdminReady s e 0x0B [(8, 2)] → s.partAt d p = .offline → ∃ t, exec (.resumePart e) s = .next t ∧ Answers s t 0 0 ∧ t.partAt d p = .online) ∧
      (AdminReady s e 0x0B [(8, 2)] → s.partAt d p = .online → ∃ t, exec (.resumePart e) s = .next t ∧ Answers s t 2 0)) ∧
    (∀ (die : BitVec 3) (part : BitVec 6) (i : Nat), s.partAt die.toNat part.toNat = .draining →
      (∀ c ∈ (s.dieAt die.toNat).copies, State.touches part.toNat c = false) → s.adminOut = [{ index := i, job := .drain die.toNat part.toNat, done := none }] →
      ∃ t, exec (.drainComplete die part) s = .next t ∧ t.partAt die.toNat part.toNat = .offline ∧ t.adminOut = []) ∧
    (∀ (die : BitVec 3) (part : BitVec 6) (usable : Bool) (log : List (BitVec 128)) (i : Nat) a cap, s.partAt die.toNat part.toNat = .testing →
      RepairLog part.toNat log → usable = !log.any (fun x => field (x.setWidth 64) 7 0 == 4) →
      s.adminOut = [{ index := i, job := .test die.toNat part.toNat a cap, done := none }] →
      ∃ t, exec (.testRepairComplete die part usable log) s = .next t ∧
        t.partAt die.toNat part.toNat = (if usable then .offline else .failed) ∧ t.adminOut = [] ∧
        ∀ k, look t.mem k = if tsKey die.toNat part.toNat 0 ≤ k ∧ k < tsKey die.toNat part.toNat 0 + 0x1800000 then 0#8 else look s.mem k) ∧
    (AdminReady s e 0x0C [(16, 12), (32, 32)] →
      ∃ t r, exec (.attest e) s = .next t ∧ Answers s t 0 (BitVec.ofNat 64 r) ∧ t.mem = s.mem ∧ t.meas = s.meas) ∧
    (∀ ms vs f, AdminReady s e 0x0D [(8, 4), (16, 18)] → Admin.fits (.list ms) (operandAt e 10 2) 2 = true →
      Admin.fits (.list vs) (operandAt e 32 2) 48 = true → operandAt e 8 2 ≠ 0 → ms ≠ [] → s.index ∈ ms → (∀ m ∈ ms, m < 2048) →
      find? s.enclaves (operandAt e 8 2) = none →
      let forms := exec (.formEnclave e (.list ms) (.list vs) f) s
      let good (p : Nat) : Prop := ∃ a ∈ f.answers, a.pkg.toNat = p ∧ a.accepts = true ∧ a.meas.length = 8 ∧
        ∀ m ∈ a.meas, m = 0#384 ∨ m ∈ vs.map (BitVec.ofNat 384)
      let formed (more : Enclave → Prop) : Prop := ∃ t x, forms = .next t ∧ Answers s t 0 1 ∧ find? t.enclaves (operandAt e 8 2) = some x ∧
        x.members = ms ∧ x.gen = 1 ∧ x.excluded = [] ∧ more x
      let refused : Prop := ∃ t, forms = .next t ∧ Answers s t 2 0 ∧ t.enclaves = s.enclaves
      (ms.min? = some s.index →
        ((∀ p ∈ ms, p ≠ s.index → good p) → formed (fun _ => True)) ∧ ((∃ p ∈ ms, p ≠ s.index ∧ ¬ good p) → refused)) ∧
      (∀ lead, ms.min? = some lead → lead ≠ s.index →
        (∀ g, good lead → f.secret = some g → formed (fun x => x.secret = g)) ∧ (¬ good lead ∨ f.secret = none → refused))) ∧
    (∀ x, AdminReady s e 0x0E [(8, 4)] → find? s.enclaves (operandAt e 8 2) = some x → operandAt e 10 2 ∈ x.members → operandAt e 10 2 ∉ x.excluded →
      operandAt e 10 2 ∉ x.waiting → (∀ g ∈ s.groups, g.2.meet = []) →
      (operandAt e 10 2 = s.index → ∃ t, exec (.revoke e) s = .next t ∧ t.hostOut = s.hostOut ∧
        (find? t.enclaves (operandAt e 8 2)).map (·.excluded) = some (x.excluded ++ [s.index])) ∧
      (operandAt e 10 2 ≠ s.index → x.oldGen = none → s.leads x [operandAt e 10 2] = true → ∃ t y, exec (.revoke e) s = .next t ∧
        Answers s t 0 (BitVec.ofNat 64 (if x.gen = 255 then 1 else x.gen + 1)) ∧ find? t.enclaves (operandAt e 8 2) = some y ∧
        y.gen = (if x.gen = 255 then 1 else x.gen + 1) ∧ operandAt e 10 2 ∉ y.members ∧ operandAt e 10 2 ∈ y.excluded ∧
        y.oldGen = some (x.gen, x.secret, x.members))) ∧
    (∀ ms, AdminReady s e 0x0F [(8, 20), (28, 12)] → operandAt e 8 1 ≤ 15 → operandAt e 9 1 ≤ 5 → operandAt e 10 2 < 2048 → ms.length = operandAt e 12 2 →
      1 ≤ ms.length → ms.length ≤ 2048 → (∀ m ∈ ms, m < 2048) → operandAt e 16 8 % 256 = 0 → operandAt e 24 8 % 256 = 0 → operandAt e 24 8 ≤ 2 ^ 30 →
      (operandAt e 10 2 = s.index → find? s.spaces (operandAt e 14 2) ≠ none) → find? s.windows (operandAt e 8 1) = none →
      ∃ t w, exec (.window e (.list ms)) s = .next t ∧ Answers s t 0 0 ∧ find? t.windows (operandAt e 8 1) = some w ∧ w.members = ms ∧
        w.op = operandAt e 9 1 ∧ w.base = BitVec.ofNat 64 (operandAt e 16 8) ∧ w.size = operandAt e 24 8) ∧
    (AdminReady s e 0x10 [(8, 1)] →
      (find? s.windows (operandAt e 8 1) ≠ none → ∃ t, exec (.unwindow e) s = .next t ∧ Answers s t 0 0 ∧ find? t.windows (operandAt e 8 1) = none) ∧
      (find? s.windows (operandAt e 8 1) = none → ∃ t, exec (.unwindow e) s = .next t ∧ Answers s t 1 0))

/-! ## Packets (25) -/

/-- R238, R241 to R245: a write, an atomic add and a read request that arrive at their package reach the bytes that they name and are answered, a
read with what the pod's exchange reads (39 R358); an ordered flag, which is a flagged write of 4 or 8 bytes, is held until its counts are met and is
performed then; a packet that has been accepted before is only acknowledged again; one whose bytes no launch of its job has is answered with
outcome 2. An answer leaves where a path does. A control packet is numbered and acknowledged as any other; one that announces a job's space enters
the job table, and one that signals a copy's completion (27 R263) counts at its tile.

The model's choices among these clauses: a write with OF that is not of 4 or 8 bytes is a plain write (log 135); the place of an outcome, and of a
read's length, in a packet (log 21); the path of an answer, and none where every path is down (log 162); the job of a packet's issuer travels with
it (log 161); that OP tells control packets apart, and that they are acknowledged (log 147). -/
def Obligations.PacketsReachTheirTarget : Prop :=
  ∀ (p : Packet) (s : State) (k : Nat),
    let n := p.payload.length
    (Arrives s p 0 → Sequenced s p false →
      (p.of = false ∨ (n ≠ 4 ∧ n ≠ 8) → Located s p true n k → ∃ t, exec (.packetWrite p) s = .next t ∧ Holds s t k p.payload ∧ answers s t p 6 0 [] ∧
        (t.srcAt p).seen p.oseq.toNat = true) ∧
      (p.of = false → Nowhere s p n → ∃ t, exec (.packetWrite p) s = .next t ∧ t.mem = s.mem ∧ answers s t p 6 2 []) ∧
      (p.of = true → n = 4 ∨ n = 8 → ∃ t, exec (.packetWrite p) s = .next t ∧ t.mem = s.mem ∧ t.sentPkts = s.sentPkts ∧
        (t.srcAt p).flags = (s.srcAt p).flags ++ [(s.epoch, p)])) ∧
    (Arrives s p 0 → Sequenced s p true → (∀ f ∈ (s.srcAt p).flags, f.2.oseq ≠ p.oseq) →
      (∀ w ∈ s.windows, ∀ c ∈ w.2.contribs, c.2.oseq ≠ p.oseq) → find? (s.srcAt p).outcomes p.oseq.toNat = none →
      ∃ t, exec (.packetWrite p) s = .next t ∧ t.mem = s.mem ∧ answers s t p 6 0 []) ∧
    (∀ x at_, find? s.srcs (State.srcKey p) = some x → x.flags = [(at_, p)] → p.kind = 0#8 → p.of = true → n = 4 ∨ n = 8 →
      (x.ready p = false → exec (.orderedFlagPerform p.src p.ctx) s = .fault .notEnabled) ∧
      (x.ready p = true → s.earlierContribution p = false → p.enc = false → Located s p true n k → ∃ t, exec (.orderedFlagPerform p.src p.ctx) s = .next t ∧ Holds s t k p.payload ∧
        (t.srcAt p).flags = [] ∧ answers s t p 6 0 [])) ∧
    (Arrives s p 1 → (∃ b, Sequenced s p b) →
      (∀ l g, Located s p false n k → s.packetLaunch p n = some (l, g) → ∃ t, exec (.packetReadRequest p) s = .next t ∧ t.mem = s.mem ∧
        answers s t p 2 0 ((range k n).map (podByte s l g))) ∧
      (Nowhere s p n → ∃ t, exec (.packetReadRequest p) s = .next t ∧ t.mem = s.mem ∧ answers s t p 6 2 [])) ∧
    (Arrives s p 3 → Sequenced s p false → n = 4 ∨ n = 8 → p.op = 0#8 → s.windowAt s.index (p.addr.setWidth 64) = none →
      (Located s p true n k → ∃ t bs, exec (.packetAtomic p) s = .next t ∧ Holds s t k bs ∧ bs.length = n ∧
        leNat bs = (s.peekNat k n + leNat p.payload) % 2 ^ (8 * n) ∧ answers s t p 4 0 ((range k n).map (look s.mem))) ∧
      (Nowhere s p n → ∃ t, exec (.packetAtomic p) s = .next t ∧ t.mem = s.mem ∧ answers s t p 6 2 [])) ∧
    (Arrives s p 7 → Sequenced s p false →
      (p.op.toNat ∉ [0, 1, 7, 8] → ∃ t, exec (.packetControl p) s = .next t ∧ t.mem = s.mem ∧ answers s t p 6 0 []) ∧
      (p.op = 0#8 → ∃ t, exec (.packetControl p) s = .next t ∧ t.mem = s.mem ∧ answers s t p 6 0 [] ∧
        t.jobSpaces.find? (fun x => x.1 == leNat (p.payload.take 4) && x.2.1 == p.src.toNat) =
          some (leNat (p.payload.take 4), p.src.toNat, leNat ((p.payload.drop 4).take 2))) ∧
      (∀ l g, p.op = 1#8 → s.packetLaunch p 0 = some (l, g) → p.dkind = 1#8 →
        let tile := tileWordTile (p.addr.setWidth 64)
        let i := p.cidx.toNat + (if (s.launchAt l).secondary then 16 else 0)
        ∃ t, exec (.packetControl p) s = .next t ∧ t.mem = s.mem ∧ answers s t p 6 0 [] ∧
          look (t.tileAt tile).mc i = look (s.tileAt tile).mc i + 1 ∧
          look (t.seqAt (3 * tile)).received l = look (s.seqAt (3 * tile)).received l + 1))

/-- R243, R244, R263: an answer that nothing awaits changes nothing but its link's counts (`State.arrive`); a busy one asks for the packet again; any other ends the operation that awaits it,
with read data joining what its copy has read. A packet that stays unacknowledged for AKTO is sent again, at most RTRY times, and then ends with
outcome 1, a read with outcome 5; one toward a package that its enclave has excluded, or from one, ends with outcome 4 (R250).

That a signal which fails after another of its copy has been counted leaves the copy's status is the model's choice (log 204), and so is that a
packet keeps its domain, by which it is revoked (log 138). -/
def Obligations.AnswersEndTheirOperation : Prop :=
  ∀ (p : Packet) (busy : Bool) (outcome : BitVec 3) (s : State),
    (s.awaited p = none →
      (Arrives s p 2 → exec (.packetReadData p) s = .next (s.arrive p)) ∧ (Arrives s p 4 → exec (.packetAtomicReturn p) s = .next (s.arrive p)) ∧
      (Arrives s p 6 → exec (.packetAcknowledgement p busy outcome) s = .next (s.arrive p))) ∧
    (∀ o, s.awaited p = some o →
      (Arrives s p 6 → busy = true → ∃ t, exec (.packetAcknowledgement p busy outcome) s = .next t ∧ { o with busy := true } ∈ t.out ∧
        t = { s.arrive p with out := t.out }) ∧
      ∀ id c data out, o.copy = some id → s.copyAt o.die id = some c → c.st = .started data out →
        (∀ x ∈ (s.dieAt o.die).copies, x.unsent = []) →
        (Arrives s p 6 → busy = false → ∃ t, exec (.packetAcknowledgement p busy outcome) s = .next t ∧ t.mem = s.mem ∧
          EndsWith s t o id outcome.toNat c data out) ∧
        (Arrives s p 2 → ∀ e, o.elems = [e] → ∃ t, exec (.packetReadData p) s = .next t ∧ t.mem = s.mem ∧
          EndsWith s t o id 0 c (data ++ [(e, p.payload)]) out) ∧
        (Arrives s p 4 → (∀ b, c.block = some b → b.ret = false) → ∃ t, exec (.packetAtomicReturn p) s = .next t ∧ t.mem = s.mem ∧
          EndsWith s t o id 0 c data out) ∧
        (Arrives s p 4 → ∀ b e k, c.block = some b → b.ret = true → o.elems = [e] →
          s.localKey c.lnum c.tile c.psz true (b.srcAt e) b.bytes = .ok k → ∃ t, exec (.packetAtomicReturn p) s = .next t ∧ Holds s t k p.payload ∧
          EndsWith s t o id 0 c data out)) ∧
    (∀ (die : BitVec 3) (ctx : BitVec 12) (dst : BitVec 11) (oseq : BitVec 32) o,
      s.out.find? (fun o => o.die == die.toNat && o.packet.ctx.toNat % 4096 == ctx.toNat && o.packet.dst.toNat == dst.toNat && o.packet.oseq == oseq)
        = some o → o.at_ + field (look s.dev 0x200108) 31 0 ≤ s.clk →
      let gone := s.domainRevoked o.packet.domain.toNat o.packet.dst.toNat
      (∀ id c data out, gone = true → o.copy = some id → s.copyAt o.die id = some c → c.st = .started data out →
        (∀ x ∈ (s.dieAt o.die).copies, x.unsent = []) →
        ∃ t, exec (.ackTimeout die ctx dst oseq) s = .next t ∧ t.mem = s.mem ∧ EndsWith s t o id 4 c data out) ∧
      (gone = false → o.busy = true ∨ o.tries < field (look s.dev 0x200110) 7 0 → ∃ t x, exec (.ackTimeout die ctx dst oseq) s = .next t ∧ x ∈ t.out ∧
        x.packet.oseq = oseq ∧ x.tries = (if o.busy then o.tries else o.tries + 1) ∧ x.busy = false ∧ x.at_ = s.clk ∧ t.mem = s.mem) ∧
      (∀ id c data out, gone = false → o.busy = false → field (look s.dev 0x200110) 7 0 ≤ o.tries → o.copy = some id → s.copyAt o.die id = some c →
        c.st = .started data out → (∀ x ∈ (s.dieAt o.die).copies, x.unsent = []) →
        ∃ t, exec (.ackTimeout die ctx dst oseq) s = .next t ∧ t.mem = s.mem ∧ EndsWith s t o id (if o.packet.kind = 1#8 then 5 else 1) c data out))

/-- R247, R248: a reduction contribution that its window accepts waits for its round, one of a window that does not exist is answered with outcome 3, one with
a faulting element with outcome 2, and one for a meeting waits for its home's decision (33 R314); a round whose one contribution is there adds its element to the home's memory and acknowledges it, and is over when the pod barrier closes it.

R237, R245, R246: an announcement enters the job table; a beat that arrives gives a link its totals, a link idle for 256 clk sends its own, and a credit
return takes its total; a flit with a bad CRC is replayed, and a link that stays silent for 1,024 clk or fails 16 replays of a flit goes down, which
FSTAT keeps, its buffer discarded.

The model's choices among these clauses: a contribution that names no window and no meeting is refused (log 131); the elements of a round
are performed in one step and in ascending order (log 133); a meeting's contribution waits in the context's buffer until its home decides it
(log 148); one that comes to fault after it was accepted ends with outcome 2 (log 163); how a meeting's word, a piece and an outcome travel
in a packet (log 21). -/
def Obligations.WindowsLinksAndAnnouncements : Prop :=
  (∀ (p : Packet) (s : State),
      (Arrives s p 5 → Sequenced s p false →
        (p.win = 0xFF#8 → ∃ t, exec (.packetReductionContribution p) s = .next t ∧ t.mem = s.mem ∧
          (regionOf p.addr.toNat = .xlat → answers s t p 6 3 []) ∧
          (regionOf p.addr.toNat ≠ .xlat → s.meetingHere p = false → answers s t p 6 2 []) ∧
          (regionOf p.addr.toNat ≠ .xlat → s.meetingHere p = true → t.sentPkts = s.sentPkts ∧
            (t.srcAt p).flags = (s.srcAt p).flags ++ [(s.epoch, decodedPacket p)])) ∧
        (p.win ≠ 0xFF#8 → find? s.windows p.win.toNat = none →
          ∃ t, exec (.packetReductionContribution p) s = .next t ∧ t.mem = s.mem ∧ answers s t p 6 3 []) ∧
        (∀ w, p.win ≠ 0xFF#8 → find? s.windows p.win.toNat = some w → w.homePkg = s.index →
          w.accepts (decodedPacket p) p.op.toNat (windowSize p.op.toNat) = true →
          ((∀ srcs links, State.contributionFaults { s with srcs := srcs, links := links } w (decodedPacket p) = false) →
            ∃ t, exec (.packetReductionContribution p) s = .next t ∧ t.mem = s.mem ∧ t.sentPkts = s.sentPkts ∧
              find? t.windows p.win.toNat = some { w with contribs := w.contribs ++ [(s.epoch, decodedPacket p)] }) ∧
          ((∀ srcs links, State.contributionFaults { s with srcs := srcs, links := links } w (decodedPacket p) = true) →
            ∃ t, exec (.packetReductionContribution p) s = .next t ∧ t.mem = s.mem ∧ answers s t p 6 2 [] ∧ t.windows = s.windows))) ∧
      (∀ (win : BitVec 4) (closed : Bool) (w : Window) (at_ : Word) (k : Nat) (d : Tab Die) (f : Nat), find? s.windows win.toNat = some w → w.homePkg = s.index →
        (closed = true → s.roundClosed w p.rnd.toNat = true) → w.n = 1 → w.op = 0 → w.delivered = [] → w.done = [] → w.contribs = [(at_, p)] → p.enc = false → p.cidx = 0#16 → p.payload.length = 4 →
        s.virtKeys 0 w.space true (p.addr.setWidth 64) 4 = .ok (range k 4, { s with dies := d, free := f }) → s.isBad k 4 = false →
        ∃ t bs, exec (.windowDelivery win p.rnd closed) s = .next t ∧ Holds s t k bs ∧ bs.length = 4 ∧
          leNat bs = (s.peekNat k 4 + leNat p.payload) % 2 ^ 32 ∧ answers s t p 6 0 [] ∧
          ∃ v, find? t.windows win.toNat = some v ∧ v.contribs = [] ∧
            (closed = true → v.delivered = [p.rnd.toNat]) ∧
            (closed = false → v.delivered = [] ∧ v.done = [(p.rnd.toNat, p.addr.toNat)]))) ∧
  ((∀ (pkg : BitVec 11) (job : BitVec 32) (space : BitVec 16) (s : State), ∃ t, exec (.jobAnnounce pkg job space) s = .next t ∧
      t = { s with jobSpaces := t.jobSpaces } ∧
      t.jobSpaces.find? (fun x => x.1 == job.toNat && x.2.1 == pkg.toNat) = some (job.toNat, pkg.toNat, space.toNat)) ∧
    ∀ (port : BitVec 7) (s : State) (l : Link), find? s.links port.toNat = some l → l.up = true →
      let only (t : State) (ok : Link → Prop) : Prop := (∃ l', find? t.links port.toNat = some l' ∧ l'.up = true ∧ ok l') ∧
        (∀ n, n ≠ port.toNat → find? t.links n = find? s.links n) ∧ t = { s with links := t.links }
      let down (t : State) : Prop := (find? t.links port.toNat).map (·.up) = some false ∧ look t.dev 0x200010 = look s.dev 0x200010 ||| 2#64 ∧
        t.mem = s.mem ∧ (s.out = [] → (find? t.links port.toNat).map (·.buf) = some [] ∧
          (∀ n, n ≠ port.toNat → find? t.links n = find? s.links n) ∧ t = { s with links := t.links, dev := t.dev })
      (∀ totals : List (BitVec 16), totals.length = 16 → ∃ t, exec (.keepAlive ⟨port, some totals⟩) s = .next t ∧
        only t (fun l' => l'.last = s.clk ∧ ∀ c, c < 16 → some (look l'.freed c) = totals[c]?)) ∧
      (l.sentAt + 256 ≤ s.clk → ∃ t, exec (.keepAlive ⟨port, none⟩) s = .next t ∧ only t (· = { l with sentAt := s.clk, told := l.mine })) ∧
      (s.clk < l.sentAt + 256 → exec (.keepAlive ⟨port, none⟩) s = .fault .notEnabled) ∧
      (∀ (vc hop : BitVec 2) total, ∃ t, exec (.creditReturn port vc hop total) s = .next t ∧
        only t (fun l' => l'.last = s.clk ∧ l'.freed = put l.freed (vc.toNat * 4 + hop.toNat) total)) ∧
      (∀ seq : BitVec 16,
        let failures := if l.failSeq = seq then l.replays + 1 else 1
        (failures ≤ 16 → ∃ t, exec (.flitCrcError ⟨port, seq⟩) s = .next t ∧ only t (· = { l with failSeq := seq, replays := failures })) ∧
        (16 < failures → ∃ t, exec (.flitCrcError ⟨port, seq⟩) s = .next t ∧ down t)) ∧
      (l.last + 1024 ≤ s.clk → ∃ t, exec (.linkDown port) s = .next t ∧ down t) ∧
      (s.clk < l.last + 1024 → exec (.linkDown port) s = .fault .notEnabled))

/-! ## Security, reliability and power (33, 41, 43) -/

/-- R323, R324, R362: each SPDM request is answered; the ones that need negotiated algorithms, an open handshake or an open session are answered so only
then, and with ERROR otherwise; algorithms are negotiated when all four supported ones are offered; a session opens by KEY_EXCHANGE and FINISH, takes a fresh key with
KEY_UPDATE and closes, its key gone, by END_SESSION; IDE_KM sets a stream's key inside a session and nothing outside one.

Which requests need which earlier ones is the model's choice (log 98, PRESUMED), and so is the session's key as a free value that
KEY_EXCHANGE and KEY_UPDATE draw (log 168, PRESUMED). -/
def Obligations.SpdmRequestsAreAnswered : Prop :=
  ∀ (r : SpdmRequest) (s : State),
    let replies (i : Instr) (name : String) (session : Option (BitVec 32)) (more : State → Prop) : Prop := ∃ t x, exec i s = .next t ∧
      t.spdmOut = s.spdmOut ++ [x] ∧ x.name = name ∧ x.session = session ∧ t.mem = s.mem ∧ t.q = s.q ∧ more t
    let plain (_ : State) : Prop := True
    let ready := s.algorithms = true ∧ ∀ id, r.session = some id → id ∈ s.sessions
    replies (.getVersion r) "VERSION" r.session (fun t => t.algorithms = false) ∧
    replies (.getCapabilities r) "CAPABILITIES" r.session plain ∧
    replies (.negotiateAlgorithms r) "ALGORITHMS" r.session (fun t => t.algorithms = true ↔
      ∀ a ∈ [SpdmAlgorithm.ecdsaP384, .sha384, .secp384r1, .aes256Gcm], a ∈ r.offer) ∧
    (ready → replies (.getDigests r) "DIGESTS" r.session plain ∧ replies (.getCertificate r) "CERTIFICATE" r.session plain ∧
      replies (.challenge r) "CHALLENGE_AUTH" r.session plain ∧ replies (.getMeasurements r) "MEASUREMENTS" r.session plain ∧
      ∃ id, replies (.keyExchange r) "KEY_EXCHANGE_RSP" (some id) (fun t => id ∈ t.handshakes)) ∧
    (¬ ready → replies (.getDigests r) "ERROR" r.session plain ∧ replies (.getCertificate r) "ERROR" r.session plain ∧
      replies (.challenge r) "ERROR" r.session plain ∧ replies (.getMeasurements r) "ERROR" r.session plain ∧
      replies (.keyExchange r) "ERROR" r.session (fun t => t.handshakes = s.handshakes)) ∧
    (∀ id, r.session = some id →
      (id ∈ s.handshakes → replies (.finish r) "FINISH_RSP" (some id) (fun t => id ∈ t.sessions)) ∧
      (id ∉ s.handshakes → replies (.finish r) "ERROR" (some id) (fun t => t.sessions = s.sessions)) ∧
      (id ∈ s.sessions → replies (.keyUpdate r) "KEY_UPDATE_ACK" (some id) (fun t => ∃ k, find? t.sessionKeys id.toNat = some (k, 0)) ∧
        replies (.endSession r) "END_SESSION_ACK" (some id) (fun t => t.sessions = s.sessions.erase id ∧ find? t.sessionKeys id.toNat = none)) ∧
      (id ∉ s.sessions → replies (.keyUpdate r) "ERROR" (some id) plain ∧ replies (.endSession r) "ERROR" (some id) plain)) ∧
    (r.session = none → replies (.finish r) "ERROR" none (fun t => t.sessions = s.sessions) ∧ replies (.keyUpdate r) "ERROR" none plain ∧
      replies (.endSession r) "ERROR" none plain) ∧
    replies (.unsupportedRequest r) "ERROR" r.session plain ∧
    (∀ (stream : BitVec 4) (session : BitVec 32) (key : BitVec 256),
      (session ∈ s.sessions → stream.toNat ≤ 8 → ∃ t, exec (.ideKm stream session key) s = .next t ∧ find? t.ide stream.toNat = some key ∧
        t = { s with ide := t.ide }) ∧
      (session ∉ s.sessions → exec (.ideKm stream session key) s = .next s))

/-- R250, R326 to R328: a member that an announcement leaves in takes the next generation and its secret, the one before staying accepted until it retires,
which every member's acknowledgement and 2 · FGAP have to precede; on a revoked package every launch of the domain ends.

The model's readings among these clauses: the 2 · FGAP count from this package's own rotation (log 203); a launch of the domain that is accepted and
not yet placed ends too (log 141), and what a revoked launch leaves behind is as log 97 says. -/
def Obligations.GenerationsRotateRetireAndHalt : Prop :=
  ∀ (domain : BitVec 16) (s : State) (e : Enclave), find? s.enclaves domain.toNat = some e →
    (∀ (gen : BitVec 8) (excluded : List (BitVec 11)) (secret : BitVec 384), gen.toNat = (if e.gen = 255 then 1 else e.gen + 1) →
      s.index ∉ excluded.map (·.toNat) → s.index ∉ e.excluded → (∀ g ∈ s.groups, g.2.meet = []) →
      ∃ t x, exec (.keyRotation domain gen excluded secret) s = .next t ∧ find? t.enclaves domain.toNat = some x ∧ x.gen = gen.toNat ∧
        x.secret = secret ∧ x.oldGen = some (e.gen, e.secret, e.members) ∧ (∀ m, m ∈ x.members ↔ m ∈ e.members ∧ m ∉ excluded.map (·.toNat)) ∧
        x.excluded = e.excluded ++ excluded.map (·.toNat) ∧ t.mem = s.mem) ∧
    (e.oldGen ≠ none → (∃ p ∈ e.members, 2048 * e.gen + p ∉ e.acked) ∨ s.clk < e.rotatedAt + 2 * field (look s.dev 0x200000) 31 0 →
      exec (.generationRetire domain) s = .fault .notEnabled) ∧
    (e.oldGen ≠ none → (∀ p ∈ e.members, 2048 * e.gen + p ∈ e.acked) → e.rotatedAt + 2 * field (look s.dev 0x200000) 31 0 ≤ s.clk →
      e.waiting = [] → ∃ t, exec (.generationRetire domain) s = .next t ∧
      find? t.enclaves domain.toNat = some { e with oldGen := none } ∧ t = { s with enclaves := t.enclaves }) ∧
    (∃ t, exec (.revokeHalt domain) s = .next t ∧ (∀ p ∈ t.launches, p.2.domain ≠ domain.toNat) ∧
      (find? t.enclaves domain.toNat).any (fun x => x.excluded.contains s.index) = true)

/-- R322, R373 to R378: power-on zeroes all SRAM, the tensor store and HBM4, keeps the host's memory (keys from 2^51 to 2^52) and measures its images, a
bad signature stops the package; the second part of bring-up gives the package its place, on a V8D one that its wiring has (01 R19), and its links;
the epoch ticks once in 1,024 clk; the issue duty follows the power; a junction at its limit suspends every launch, and one that has not cooled
100 ms (105,000,000 clk) after it was first there powers the module off, no earlier, while one that has cooled by then does not; a corrected error
is counted, and a location whose errors fall within CEWIN seconds is retired where a spare is left; a patrol read changes no value.

The model's choices among these clauses: POWER_ON is taken twice, once for each part of bring-up (log 100); the timestamp of an error is its clk,
and its operand the second of the clock in which that lies (log 193); whether a spare is left is the event's operand (log 194); the bytes of a
measurement are in the order that log 104 states. -/
def Obligations.PowerAndReliability : Prop :=
  ∀ (s : State),
    (∀ b : Boot,
      (s.bootStep = 0 → b.signed = false → ∃ t, exec (.powerOn b) s = .next t ∧ step t = .fault .powerOff) ∧
      (s.bootStep = 0 → b.signed = true → 3 ≤ b.digests.length → b.digests.length ≤ 7 → ∃ t, exec (.powerOn b) s = .next t ∧ t.bootStep = 6 ∧
        (∀ k, k < 2 ^ 51 ∨ 2 ^ 52 ≤ k → look t.mem k = 0#8) ∧ (∀ k, 2 ^ 51 ≤ k → k < 2 ^ 52 → look t.mem k = look s.mem k) ∧ t.bad = [] ∧
        ∀ i d, b.digests[i]? = some d → find? t.meas (if i < 3 then i else i + 1) = some (Config.sha384 (leBytes 48 0 ++ leBytes 48 d.toNat))) ∧
      (s.bootStep = 6 → s.form = .v8d → b.dgrp ≠ 0 ∨ 8 < b.pkg.toNat → exec (.powerOn b) s = .fault .notEnabled) ∧
      (∀ d, s.bootStep = 6 → b.digests = [d] → (s.form = .v8d → b.dgrp = 0 ∧ b.pkg.toNat ≤ 8) → ∃ t, exec (.powerOn b) s = .next t ∧ t.bootStep = 8 ∧ t.dgrp = b.dgrp ∧ t.pkg = b.pkg ∧
        look t.dev 0x200008 = b.fskew.setWidth 64 ∧ 
        (∀ p ∈ b.linksUp, State.hasPort s.form b.pkg.toNat p.toNat = true → t.portUp p.toNat = true) ∧ t.mem = s.mem)) ∧
    (s.epoch.toNat < s.clk / 1024 → ∃ t, exec .epochTick s = .next t ∧ t.epoch = s.epoch + 1 ∧ t = { s with epoch := t.epoch }) ∧
    (∀ mw : BitVec 32, ∃ t, exec (.powerMeasure mw) s = .next t ∧ t = { s with duty := t.duty } ∧
      (1000 * powerLimit s < mw.toNat → t.duty = max 4 (s.duty - 1)) ∧
      (mw.toNat * 100 < 95 * (1000 * powerLimit s) → t.duty = min 16 (s.duty + 1)) ∧
      (mw.toNat ≤ 1000 * powerLimit s → 95 * (1000 * powerLimit s) ≤ mw.toNat * 100 → t.duty = s.duty)) ∧
    (∃ t, exec .junctionOvertemp s = .next t ∧ t.hot = some (s.hot.getD s.clk) ∧ (∀ l x, t.launchAt? l = some x → x.suspended = true) ∧ t.mem = s.mem) ∧
    (∀ since, s.hot = some since →
      (s.clk < since + 105000000 → exec (.thermalPowerOff true) s = .next { s with hot := none }) ∧
      (since + 105000000 ≤ s.clk → exec (.thermalPowerOff true) s = .fault .notEnabled) ∧
      (s.clk < since + 105000000 → exec (.thermalPowerOff false) s = .fault .notEnabled) ∧
      (since + 105000000 ≤ s.clk → ∃ t, exec (.thermalPowerOff false) s = .next t ∧ step t = .fault .powerOff)) ∧
    (∀ (die : BitVec 3) (loc : BitVec 64) (second : BitVec 32) (spare : Bool), die.toNat < dieCount s.form → second.toNat = s.clk / 1050000000 →
      let cecnt (x : State) : Word := look x.dev (0x300008 + 0x1000 * die.toNat)
      let mine := (List.range 64).filterMap (fun i => (find? s.tracks (64 * die.toNat + i)).map (fun t => (i, t)))
      ∃ t, exec (.correctedError die loc second spare) s = .next t ∧ t.mem = s.mem ∧
        field (cecnt t) 31 0 = min (field (cecnt s) 31 0 + 1) (2 ^ 32 - 1) ∧
        ((∀ p ∈ mine, p.2.loc ≠ loc.toNat) → ∃ i, i < 64 ∧ find? t.tracks (64 * die.toNat + i) = some { loc := loc.toNat, stamps := [s.clk] }) ∧
        (∀ i x, mine.find? (fun p => p.2.loc == loc.toNat) = some (i, x) → field (look s.dev (0x300000 + 0x1000 * die.toNat)) 3 0 = x.stamps.length + 1 →
          s.clk ≤ x.stamps.headD s.clk + 1050000000 * field (look s.dev (0x300000 + 0x1000 * die.toNat)) 63 32 → spare = true →
          find? t.tracks (64 * die.toNat + i) = none ∧ field (cecnt t) 63 32 = (field (cecnt s) 63 32 + 1) % 2 ^ 32)) ∧
    (∀ u, patrolDie s.form (8 * u) ≠ none → ∃ t, exec (.patrolRead u) s = .next t ∧ t.mem = s.mem ∧ t.q = s.q ∧ t.seqs = s.seqs ∧
      (u ∉ s.bad → t = s))

/-! ## The machine as a whole (11, 19, 43) -/

/-- R106, R107, R119, R120, R332, R345: a step in which the focused sequencer goes on fetches the word at its PC from the translated range, the word
that its launch's text had at placement or else what memory holds (where the host has rewritten one of its bytes, one of the two), decodes it and
executes the instruction that it is, or the trap of a reserved word; a fetch outside the range or without permission and an enabled breakpoint trap.
An asynchronous cause that is pending at this boundary is taken instead, and a sequencer that is asked to stop does so there. A step that the
schedule names is executed as it is.

The model's readings among these clauses: the pages of a launch's text may be executed whatever their leaf says, and a word that the host has
rewritten is read as the old or the new one, by a free choice (log 164); a pending cause abandons a hold (log 94); the schedule of events is the
state's agenda (log 1). -/
def Obligations.StepRunsTheDecodedInstruction : Prop :=
  ∀ (s u : State) (rest : List Ev), s.powered = true →
    (s.agenda = .run :: rest ∧ u = tick { s with agenda := rest } ∨ s.agenda = [] ∧ autoStep (tick s) = none ∧ u = tick s) → u.q.mode = .run →
    (u.q.k.pend ≠ none → step s = .next u.abandon.takePending) ∧
    (u.q.k.pend = none → u.q.stop = true → step s = .next u.stopNow) ∧
    (u.q.k.pend = none → u.q.stop = false →
      (∀ leaf pa s', regionOf u.pc.toNat = .xlat → u.translate u.die u.launch.space u.pc.toNat = .ok (leaf, pa, s') →
        u.inText u.launch.space u.pc.toNat = true ∨ permits leaf .fetch = true →
        physKind u.form pa ≠ some .dev → s'.isBad pa 4 = false →
        let now : BitVec 32 := BitVec.ofNat 32 (s'.peekNat pa 4)
        ∃ (word : BitVec 32) (v : State),
          (u.launch.textWord u.pc = none → word = now ∧ v = s') ∧
          (∀ old, u.launch.textWord u.pc = some old → (∀ k ∈ u.rewritten, k < pa ∨ pa + 4 ≤ k) → word = old ∧ v = s') ∧
          (∀ old, u.launch.textWord u.pc = some old → (∃ k ∈ u.rewritten, pa ≤ k ∧ k < pa + 4) →
            (word = old ∨ word = now) ∧ v = { s' with free := s'.free + 1 }) ∧
          (breakpoint v = none →
            (∀ i, decode word = .ok i → step s = exec i v) ∧ ((∀ i, decode word ≠ .ok i) → step s = exec (.illegalInstruction word) v)) ∧
          (∀ n, breakpoint v = some n → step s = .next (v.enterTrap { code := 0x12, info := n, hwbp := true }))) ∧
      (regionOf u.pc.toNat ≠ .xlat → step s = .next (u.enterTrap { code := 0x05, addr := some u.pc, inst := some 0#32 })) ∧
      (∀ leaf pa s', regionOf u.pc.toNat = .xlat → u.translate u.die u.launch.space u.pc.toNat = .ok (leaf, pa, s') → permits leaf .fetch = false →
        u.inText u.launch.space u.pc.toNat = false → step s = .next (u.enterTrap { code := 0x0B, addr := some u.pc, inst := some 0#32 }))) ∧
    ∀ (v : State) (i : Instr), v.powered = true → v.agenda = .ev i :: rest → step v = exec i (tick { v with agenda := rest })

/-- R108 to R118: words written out from the formats, and the instructions that they are. -/
def Obligations.DecodeWords : Prop :=
  -- opcode 000001, d = 3, a = 1, b = 2, fn = 1
  decode 0b000001_00011_00001_00010_00000000001#32 = .ok (.sub 3#5 1#5 2#5) ∧
  -- opcode 000010, d = 5, a = 6, imm16 = -2
  decode 0b000010_00101_00110_1111111111111110#32 = .ok (.addi 5#5 6#5 0xFFFE#16) ∧
  -- opcode 010001, d = 7, a = 2, width 11, offset14 = 4
  decode 0b010001_00111_00010_11_00000000000100#32 = .ok (.ldd 7#5 2#5 4#14) ∧
  -- opcode 000000: the word of zeros is reserved, and the word of ones
  decode 0#32 = .error .reservedOpcode ∧ decode 0xFFFFFFFF#32 = .error .reservedOpcode

/-- R107 to R118: the decoder reads back every operand that the encoder writes, for every well-formed instruction that is a word; a few rows share
their words (MSET, SGCFG, QMREC), which a register tells apart when the word executes: they decode to the first of them. -/
def Obligations.DecodeOfEncode : Prop :=
  ∀ (i : Instr) (w : BitVec 32), i.wellFormed = true → encode i = some w → decode w = .ok i.canon

/-- R107, R119: a word that decodes is the encoding of its instruction, which is well formed: no bit of it is ignored. -/
def Obligations.EncodeOfDecode : Prop :=
  ∀ (i : Instr) (w : BitVec 32), decode w = .ok i → i.wellFormed = true ∧ encode i = some w

/-- R61, R65, R251, R375, R376, R378: what reset leaves: bring-up has not begun; the registers have the values that their tables give for reset, and memory
lists nothing, which is its canonical form.

That memory reads as zero before anything is written is the model's choice for what R378 does not zero (log 4), and so is the form of the
package after reset, on which the reset value of PLIMIT rests (log 144). -/
def Obligations.ResetState : Prop :=
  State.reset.bootStep = 0 ∧ State.reset.powered = true ∧ Memory.wf State.reset.mem = true ∧ (∀ a, look State.reset.mem a = 0#8) ∧
  look State.reset.dev 0x100000 = 4096#64 ∧ look State.reset.dev 0x100008 = 100#64 ∧ look State.reset.dev 0x200000 = 1575#64 ∧
  look State.reset.dev 0x200108 = 21000#64 ∧ look State.reset.dev 0x200110 = 8#64 ∧ look State.reset.dev 0x308000 = 4000#64 ∧
  (∀ d, d < 8 → look State.reset.dev (0x300000 + 0x1000 * d) = 0x0000003C00000003#64) ∧
  (∀ n, (State.reset.seqAt n).lwgt = [2#64, 4#64, 8#64].getD (n % 3) 0#64) ∧ State.reset.duty = 16

/-- Every step keeps memory in its canonical form: addresses rise, and no listed byte is the one that an unlisted address reads as. -/
def Obligations.StepKeepsMemoryCanonical : Prop :=
  ∀ s t : State, Memory.wf s.mem = true → step s = .next t → Memory.wf t.mem = true
end

