-- ==== Sys2Proof/Laws/State.lean ====
section
/-! SUPPORT. The small lemmas of State: what each update leaves in each field (one lemma per field per update), and the accessors of
the focused continuation after an update. -/

namespace Sys2Proof.Machine.State

/-! ## A change of the focused continuation -/

@[simp] theorem setK_q (s : State) (k : Cont) : (s.setK k).q = { s.q with k := k } := rfl
@[simp] theorem setK_cur (s : State) (k : Cont) : (s.setK k).cur = s.cur := rfl
@[simp] theorem setK_seqs (s : State) (k : Cont) : (s.setK k).seqs = s.seqs := rfl
@[simp] theorem setK_tiles (s : State) (k : Cont) : (s.setK k).tiles = s.tiles := rfl
@[simp] theorem setK_groups (s : State) (k : Cont) : (s.setK k).groups = s.groups := rfl
@[simp] theorem setK_dies (s : State) (k : Cont) : (s.setK k).dies = s.dies := rfl
@[simp] theorem setK_mem (s : State) (k : Cont) : (s.setK k).mem = s.mem := rfl
@[simp] theorem setK_bad (s : State) (k : Cont) : (s.setK k).bad = s.bad := rfl
@[simp] theorem setK_staged (s : State) (k : Cont) : (s.setK k).staged = s.staged := rfl
@[simp] theorem setK_early (s : State) (k : Cont) : (s.setK k).early = s.early := rfl
@[simp] theorem setK_launches (s : State) (k : Cont) : (s.setK k).launches = s.launches := rfl
@[simp] theorem setK_accepted (s : State) (k : Cont) : (s.setK k).accepted = s.accepted := rfl
@[simp] theorem setK_plHalt (s : State) (k : Cont) : (s.setK k).plHalt = s.plHalt := rfl
@[simp] theorem setK_bars (s : State) (k : Cont) : (s.setK k).bars = s.bars := rfl
@[simp] theorem setK_msgs (s : State) (k : Cont) : (s.setK k).msgs = s.msgs := rfl
@[simp] theorem setK_queued (s : State) (k : Cont) : (s.setK k).queued = s.queued := rfl
@[simp] theorem setK_nextMsg (s : State) (k : Cont) : (s.setK k).nextMsg = s.nextMsg := rfl
@[simp] theorem setK_nextParty (s : State) (k : Cont) : (s.setK k).nextParty = s.nextParty := rfl
@[simp] theorem setK_nextOrder (s : State) (k : Cont) : (s.setK k).nextOrder = s.nextOrder := rfl
@[simp] theorem setK_queues (s : State) (k : Cont) : (s.setK k).queues = s.queues := rfl
@[simp] theorem setK_turn (s : State) (k : Cont) : (s.setK k).turn = s.turn := rfl
@[simp] theorem setK_spaces (s : State) (k : Cont) : (s.setK k).spaces = s.spaces := rfl
@[simp] theorem setK_jobs (s : State) (k : Cont) : (s.setK k).jobs = s.jobs := rfl
@[simp] theorem setK_jobSpaces (s : State) (k : Cont) : (s.setK k).jobSpaces = s.jobSpaces := rfl
@[simp] theorem setK_adminRead (s : State) (k : Cont) : (s.setK k).adminRead = s.adminRead := rfl
@[simp] theorem setK_adminOut (s : State) (k : Cont) : (s.setK k).adminOut = s.adminOut := rfl
@[simp] theorem setK_hostOut (s : State) (k : Cont) : (s.setK k).hostOut = s.hostOut := rfl
@[simp] theorem setK_dev (s : State) (k : Cont) : (s.setK k).dev = s.dev := rfl
@[simp] theorem setK_form (s : State) (k : Cont) : (s.setK k).form = s.form := rfl
@[simp] theorem setK_dgrp (s : State) (k : Cont) : (s.setK k).dgrp = s.dgrp := rfl
@[simp] theorem setK_pkg (s : State) (k : Cont) : (s.setK k).pkg = s.pkg := rfl
@[simp] theorem setK_bootStep (s : State) (k : Cont) : (s.setK k).bootStep = s.bootStep := rfl
@[simp] theorem setK_powered (s : State) (k : Cont) : (s.setK k).powered = s.powered := rfl
@[simp] theorem setK_out (s : State) (k : Cont) : (s.setK k).out = s.out := rfl
@[simp] theorem setK_sentPkts (s : State) (k : Cont) : (s.setK k).sentPkts = s.sentPkts := rfl
@[simp] theorem setK_oseq (s : State) (k : Cont) : (s.setK k).oseq = s.oseq := rfl
@[simp] theorem setK_laneSeq (s : State) (k : Cont) : (s.setK k).laneSeq = s.laneSeq := rfl
@[simp] theorem setK_laneCnt (s : State) (k : Cont) : (s.setK k).laneCnt = s.laneCnt := rfl
@[simp] theorem setK_srcs (s : State) (k : Cont) : (s.setK k).srcs = s.srcs := rfl
@[simp] theorem setK_windows (s : State) (k : Cont) : (s.setK k).windows = s.windows := rfl
@[simp] theorem setK_links (s : State) (k : Cont) : (s.setK k).links = s.links := rfl
@[simp] theorem setK_fabricMap (s : State) (k : Cont) : (s.setK k).fabricMap = s.fabricMap := rfl
@[simp] theorem setK_paths (s : State) (k : Cont) : (s.setK k).paths = s.paths := rfl
@[simp] theorem setK_enclaves (s : State) (k : Cont) : (s.setK k).enclaves = s.enclaves := rfl
@[simp] theorem setK_meas (s : State) (k : Cont) : (s.setK k).meas = s.meas := rfl
@[simp] theorem setK_sessions (s : State) (k : Cont) : (s.setK k).sessions = s.sessions := rfl
@[simp] theorem setK_handshakes (s : State) (k : Cont) : (s.setK k).handshakes = s.handshakes := rfl
@[simp] theorem setK_sessionKeys (s : State) (k : Cont) : (s.setK k).sessionKeys = s.sessionKeys := rfl
@[simp] theorem setK_asked (s : State) (k : Cont) : (s.setK k).asked = s.asked := rfl
@[simp] theorem setK_algorithms (s : State) (k : Cont) : (s.setK k).algorithms = s.algorithms := rfl
@[simp] theorem setK_spdmOut (s : State) (k : Cont) : (s.setK k).spdmOut = s.spdmOut := rfl
@[simp] theorem setK_ide (s : State) (k : Cont) : (s.setK k).ide = s.ide := rfl
@[simp] theorem setK_tdi (s : State) (k : Cont) : (s.setK k).tdi = s.tdi := rfl
@[simp] theorem setK_tracks (s : State) (k : Cont) : (s.setK k).tracks = s.tracks := rfl
@[simp] theorem setK_scopeLog (s : State) (k : Cont) : (s.setK k).scopeLog = s.scopeLog := rfl
@[simp] theorem setK_rewritten (s : State) (k : Cont) : (s.setK k).rewritten = s.rewritten := rfl
@[simp] theorem setK_duty (s : State) (k : Cont) : (s.setK k).duty = s.duty := rfl
@[simp] theorem setK_epoch (s : State) (k : Cont) : (s.setK k).epoch = s.epoch := rfl
@[simp] theorem setK_hot (s : State) (k : Cont) : (s.setK k).hot = s.hot := rfl
@[simp] theorem setK_clk (s : State) (k : Cont) : (s.setK k).clk = s.clk := rfl
@[simp] theorem setK_free (s : State) (k : Cont) : (s.setK k).free = s.free := rfl
@[simp] theorem setK_agenda (s : State) (k : Cont) : (s.setK k).agenda = s.agenda := rfl

/-! ## A register of the focused continuation -/

theorem setX_eq (s : State) (n : BitVec 5) (v : Word) :
    s.setX n v = s.setK { s.q.k with gpr := if n = 0#5 then s.q.k.gpr else put s.q.k.gpr n.toNat v } := by
  by_cases h : n = 0#5 <;> simp [setX, setK, h]
@[simp] theorem setX_cur (s : State) (n : BitVec 5) (v : Word) : (s.setX n v).cur = s.cur := by rw [setX_eq]; rfl
@[simp] theorem setX_seqs (s : State) (n : BitVec 5) (v : Word) : (s.setX n v).seqs = s.seqs := by rw [setX_eq]; rfl
@[simp] theorem setX_tiles (s : State) (n : BitVec 5) (v : Word) : (s.setX n v).tiles = s.tiles := by rw [setX_eq]; rfl
@[simp] theorem setX_groups (s : State) (n : BitVec 5) (v : Word) : (s.setX n v).groups = s.groups := by rw [setX_eq]; rfl
@[simp] theorem setX_dies (s : State) (n : BitVec 5) (v : Word) : (s.setX n v).dies = s.dies := by rw [setX_eq]; rfl
@[simp] theorem setX_mem (s : State) (n : BitVec 5) (v : Word) : (s.setX n v).mem = s.mem := by rw [setX_eq]; rfl
@[simp] theorem setX_bad (s : State) (n : BitVec 5) (v : Word) : (s.setX n v).bad = s.bad := by rw [setX_eq]; rfl
@[simp] theorem setX_staged (s : State) (n : BitVec 5) (v : Word) : (s.setX n v).staged = s.staged := by rw [setX_eq]; rfl
@[simp] theorem setX_early (s : State) (n : BitVec 5) (v : Word) : (s.setX n v).early = s.early := by rw [setX_eq]; rfl
@[simp] theorem setX_launches (s : State) (n : BitVec 5) (v : Word) : (s.setX n v).launches = s.launches := by rw [setX_eq]; rfl
@[simp] theorem setX_accepted (s : State) (n : BitVec 5) (v : Word) : (s.setX n v).accepted = s.accepted := by rw [setX_eq]; rfl
@[simp] theorem setX_plHalt (s : State) (n : BitVec 5) (v : Word) : (s.setX n v).plHalt = s.plHalt := by rw [setX_eq]; rfl
@[simp] theorem setX_bars (s : State) (n : BitVec 5) (v : Word) : (s.setX n v).bars = s.bars := by rw [setX_eq]; rfl
@[simp] theorem setX_msgs (s : State) (n : BitVec 5) (v : Word) : (s.setX n v).msgs = s.msgs := by rw [setX_eq]; rfl
@[simp] theorem setX_queued (s : State) (n : BitVec 5) (v : Word) : (s.setX n v).queued = s.queued := by rw [setX_eq]; rfl
@[simp] theorem setX_nextMsg (s : State) (n : BitVec 5) (v : Word) : (s.setX n v).nextMsg = s.nextMsg := by rw [setX_eq]; rfl
@[simp] theorem setX_nextParty (s : State) (n : BitVec 5) (v : Word) : (s.setX n v).nextParty = s.nextParty := by rw [setX_eq]; rfl
@[simp] theorem setX_nextOrder (s : State) (n : BitVec 5) (v : Word) : (s.setX n v).nextOrder = s.nextOrder := by rw [setX_eq]; rfl
@[simp] theorem setX_queues (s : State) (n : BitVec 5) (v : Word) : (s.setX n v).queues = s.queues := by rw [setX_eq]; rfl
@[simp] theorem setX_turn (s : State) (n : BitVec 5) (v : Word) : (s.setX n v).turn = s.turn := by rw [setX_eq]; rfl
@[simp] theorem setX_spaces (s : State) (n : BitVec 5) (v : Word) : (s.setX n v).spaces = s.spaces := by rw [setX_eq]; rfl
@[simp] theorem setX_jobs (s : State) (n : BitVec 5) (v : Word) : (s.setX n v).jobs = s.jobs := by rw [setX_eq]; rfl
@[simp] theorem setX_jobSpaces (s : State) (n : BitVec 5) (v : Word) : (s.setX n v).jobSpaces = s.jobSpaces := by rw [setX_eq]; rfl
@[simp] theorem setX_adminRead (s : State) (n : BitVec 5) (v : Word) : (s.setX n v).adminRead = s.adminRead := by rw [setX_eq]; rfl
@[simp] theorem setX_adminOut (s : State) (n : BitVec 5) (v : Word) : (s.setX n v).adminOut = s.adminOut := by rw [setX_eq]; rfl
@[simp] theorem setX_hostOut (s : State) (n : BitVec 5) (v : Word) : (s.setX n v).hostOut = s.hostOut := by rw [setX_eq]; rfl
@[simp] theorem setX_dev (s : State) (n : BitVec 5) (v : Word) : (s.setX n v).dev = s.dev := by rw [setX_eq]; rfl
@[simp] theorem setX_form (s : State) (n : BitVec 5) (v : Word) : (s.setX n v).form = s.form := by rw [setX_eq]; rfl
@[simp] theorem setX_dgrp (s : State) (n : BitVec 5) (v : Word) : (s.setX n v).dgrp = s.dgrp := by rw [setX_eq]; rfl
@[simp] theorem setX_pkg (s : State) (n : BitVec 5) (v : Word) : (s.setX n v).pkg = s.pkg := by rw [setX_eq]; rfl
@[simp] theorem setX_bootStep (s : State) (n : BitVec 5) (v : Word) : (s.setX n v).bootStep = s.bootStep := by rw [setX_eq]; rfl
@[simp] theorem setX_powered (s : State) (n : BitVec 5) (v : Word) : (s.setX n v).powered = s.powered := by rw [setX_eq]; rfl
@[simp] theorem setX_out (s : State) (n : BitVec 5) (v : Word) : (s.setX n v).out = s.out := by rw [setX_eq]; rfl
@[simp] theorem setX_sentPkts (s : State) (n : BitVec 5) (v : Word) : (s.setX n v).sentPkts = s.sentPkts := by rw [setX_eq]; rfl
@[simp] theorem setX_oseq (s : State) (n : BitVec 5) (v : Word) : (s.setX n v).oseq = s.oseq := by rw [setX_eq]; rfl
@[simp] theorem setX_laneSeq (s : State) (n : BitVec 5) (v : Word) : (s.setX n v).laneSeq = s.laneSeq := by rw [setX_eq]; rfl
@[simp] theorem setX_laneCnt (s : State) (n : BitVec 5) (v : Word) : (s.setX n v).laneCnt = s.laneCnt := by rw [setX_eq]; rfl
@[simp] theorem setX_srcs (s : State) (n : BitVec 5) (v : Word) : (s.setX n v).srcs = s.srcs := by rw [setX_eq]; rfl
@[simp] theorem setX_windows (s : State) (n : BitVec 5) (v : Word) : (s.setX n v).windows = s.windows := by rw [setX_eq]; rfl
@[simp] theorem setX_links (s : State) (n : BitVec 5) (v : Word) : (s.setX n v).links = s.links := by rw [setX_eq]; rfl
@[simp] theorem setX_fabricMap (s : State) (n : BitVec 5) (v : Word) : (s.setX n v).fabricMap = s.fabricMap := by rw [setX_eq]; rfl
@[simp] theorem setX_paths (s : State) (n : BitVec 5) (v : Word) : (s.setX n v).paths = s.paths := by rw [setX_eq]; rfl
@[simp] theorem setX_enclaves (s : State) (n : BitVec 5) (v : Word) : (s.setX n v).enclaves = s.enclaves := by rw [setX_eq]; rfl
@[simp] theorem setX_meas (s : State) (n : BitVec 5) (v : Word) : (s.setX n v).meas = s.meas := by rw [setX_eq]; rfl
@[simp] theorem setX_sessions (s : State) (n : BitVec 5) (v : Word) : (s.setX n v).sessions = s.sessions := by rw [setX_eq]; rfl
@[simp] theorem setX_handshakes (s : State) (n : BitVec 5) (v : Word) : (s.setX n v).handshakes = s.handshakes := by rw [setX_eq]; rfl
@[simp] theorem setX_sessionKeys (s : State) (n : BitVec 5) (v : Word) : (s.setX n v).sessionKeys = s.sessionKeys := by rw [setX_eq]; rfl
@[simp] theorem setX_asked (s : State) (n : BitVec 5) (v : Word) : (s.setX n v).asked = s.asked := by rw [setX_eq]; rfl
@[simp] theorem setX_algorithms (s : State) (n : BitVec 5) (v : Word) : (s.setX n v).algorithms = s.algorithms := by rw [setX_eq]; rfl
@[simp] theorem setX_spdmOut (s : State) (n : BitVec 5) (v : Word) : (s.setX n v).spdmOut = s.spdmOut := by rw [setX_eq]; rfl
@[simp] theorem setX_ide (s : State) (n : BitVec 5) (v : Word) : (s.setX n v).ide = s.ide := by rw [setX_eq]; rfl
@[simp] theorem setX_tdi (s : State) (n : BitVec 5) (v : Word) : (s.setX n v).tdi = s.tdi := by rw [setX_eq]; rfl
@[simp] theorem setX_tracks (s : State) (n : BitVec 5) (v : Word) : (s.setX n v).tracks = s.tracks := by rw [setX_eq]; rfl
@[simp] theorem setX_scopeLog (s : State) (n : BitVec 5) (v : Word) : (s.setX n v).scopeLog = s.scopeLog := by rw [setX_eq]; rfl
@[simp] theorem setX_rewritten (s : State) (n : BitVec 5) (v : Word) : (s.setX n v).rewritten = s.rewritten := by rw [setX_eq]; rfl
@[simp] theorem setX_duty (s : State) (n : BitVec 5) (v : Word) : (s.setX n v).duty = s.duty := by rw [setX_eq]; rfl
@[simp] theorem setX_epoch (s : State) (n : BitVec 5) (v : Word) : (s.setX n v).epoch = s.epoch := by rw [setX_eq]; rfl
@[simp] theorem setX_hot (s : State) (n : BitVec 5) (v : Word) : (s.setX n v).hot = s.hot := by rw [setX_eq]; rfl
@[simp] theorem setX_clk (s : State) (n : BitVec 5) (v : Word) : (s.setX n v).clk = s.clk := by rw [setX_eq]; rfl
@[simp] theorem setX_free (s : State) (n : BitVec 5) (v : Word) : (s.setX n v).free = s.free := by rw [setX_eq]; rfl
@[simp] theorem setX_agenda (s : State) (n : BitVec 5) (v : Word) : (s.setX n v).agenda = s.agenda := by rw [setX_eq]; rfl
@[simp] theorem setCsr_q (s : State) (n : Nat) (v : Word) :
    (s.setCsr n v).q = { s.q with k := { s.q.k with csr := put s.q.k.csr n v } } := rfl
@[simp] theorem setCsr_cur (s : State) (n : Nat) (v : Word) : (s.setCsr n v).cur = s.cur := rfl
@[simp] theorem setCsr_seqs (s : State) (n : Nat) (v : Word) : (s.setCsr n v).seqs = s.seqs := rfl
@[simp] theorem setCsr_tiles (s : State) (n : Nat) (v : Word) : (s.setCsr n v).tiles = s.tiles := rfl
@[simp] theorem setCsr_groups (s : State) (n : Nat) (v : Word) : (s.setCsr n v).groups = s.groups := rfl
@[simp] theorem setCsr_dies (s : State) (n : Nat) (v : Word) : (s.setCsr n v).dies = s.dies := rfl
@[simp] theorem setCsr_mem (s : State) (n : Nat) (v : Word) : (s.setCsr n v).mem = s.mem := rfl
@[simp] theorem setCsr_bad (s : State) (n : Nat) (v : Word) : (s.setCsr n v).bad = s.bad := rfl
@[simp] theorem setCsr_staged (s : State) (n : Nat) (v : Word) : (s.setCsr n v).staged = s.staged := rfl
@[simp] theorem setCsr_early (s : State) (n : Nat) (v : Word) : (s.setCsr n v).early = s.early := rfl
@[simp] theorem setCsr_launches (s : State) (n : Nat) (v : Word) : (s.setCsr n v).launches = s.launches := rfl
@[simp] theorem setCsr_accepted (s : State) (n : Nat) (v : Word) : (s.setCsr n v).accepted = s.accepted := rfl
@[simp] theorem setCsr_plHalt (s : State) (n : Nat) (v : Word) : (s.setCsr n v).plHalt = s.plHalt := rfl
@[simp] theorem setCsr_bars (s : State) (n : Nat) (v : Word) : (s.setCsr n v).bars = s.bars := rfl
@[simp] theorem setCsr_msgs (s : State) (n : Nat) (v : Word) : (s.setCsr n v).msgs = s.msgs := rfl
@[simp] theorem setCsr_queued (s : State) (n : Nat) (v : Word) : (s.setCsr n v).queued = s.queued := rfl
@[simp] theorem setCsr_nextMsg (s : State) (n : Nat) (v : Word) : (s.setCsr n v).nextMsg = s.nextMsg := rfl
@[simp] theorem setCsr_nextParty (s : State) (n : Nat) (v : Word) : (s.setCsr n v).nextParty = s.nextParty := rfl
@[simp] theorem setCsr_nextOrder (s : State) (n : Nat) (v : Word) : (s.setCsr n v).nextOrder = s.nextOrder := rfl
@[simp] theorem setCsr_queues (s : State) (n : Nat) (v : Word) : (s.setCsr n v).queues = s.queues := rfl
@[simp] theorem setCsr_turn (s : State) (n : Nat) (v : Word) : (s.setCsr n v).turn = s.turn := rfl
@[simp] theorem setCsr_spaces (s : State) (n : Nat) (v : Word) : (s.setCsr n v).spaces = s.spaces := rfl
@[simp] theorem setCsr_jobs (s : State) (n : Nat) (v : Word) : (s.setCsr n v).jobs = s.jobs := rfl
@[simp] theorem setCsr_jobSpaces (s : State) (n : Nat) (v : Word) : (s.setCsr n v).jobSpaces = s.jobSpaces := rfl
@[simp] theorem setCsr_adminRead (s : State) (n : Nat) (v : Word) : (s.setCsr n v).adminRead = s.adminRead := rfl
@[simp] theorem setCsr_adminOut (s : State) (n : Nat) (v : Word) : (s.setCsr n v).adminOut = s.adminOut := rfl
@[simp] theorem setCsr_hostOut (s : State) (n : Nat) (v : Word) : (s.setCsr n v).hostOut = s.hostOut := rfl
@[simp] theorem setCsr_dev (s : State) (n : Nat) (v : Word) : (s.setCsr n v).dev = s.dev := rfl
@[simp] theorem setCsr_form (s : State) (n : Nat) (v : Word) : (s.setCsr n v).form = s.form := rfl
@[simp] theorem setCsr_dgrp (s : State) (n : Nat) (v : Word) : (s.setCsr n v).dgrp = s.dgrp := rfl
@[simp] theorem setCsr_pkg (s : State) (n : Nat) (v : Word) : (s.setCsr n v).pkg = s.pkg := rfl
@[simp] theorem setCsr_bootStep (s : State) (n : Nat) (v : Word) : (s.setCsr n v).bootStep = s.bootStep := rfl
@[simp] theorem setCsr_powered (s : State) (n : Nat) (v : Word) : (s.setCsr n v).powered = s.powered := rfl
@[simp] theorem setCsr_out (s : State) (n : Nat) (v : Word) : (s.setCsr n v).out = s.out := rfl
@[simp] theorem setCsr_sentPkts (s : State) (n : Nat) (v : Word) : (s.setCsr n v).sentPkts = s.sentPkts := rfl
@[simp] theorem setCsr_oseq (s : State) (n : Nat) (v : Word) : (s.setCsr n v).oseq = s.oseq := rfl
@[simp] theorem setCsr_laneSeq (s : State) (n : Nat) (v : Word) : (s.setCsr n v).laneSeq = s.laneSeq := rfl
@[simp] theorem setCsr_laneCnt (s : State) (n : Nat) (v : Word) : (s.setCsr n v).laneCnt = s.laneCnt := rfl
@[simp] theorem setCsr_srcs (s : State) (n : Nat) (v : Word) : (s.setCsr n v).srcs = s.srcs := rfl
@[simp] theorem setCsr_windows (s : State) (n : Nat) (v : Word) : (s.setCsr n v).windows = s.windows := rfl
@[simp] theorem setCsr_links (s : State) (n : Nat) (v : Word) : (s.setCsr n v).links = s.links := rfl
@[simp] theorem setCsr_fabricMap (s : State) (n : Nat) (v : Word) : (s.setCsr n v).fabricMap = s.fabricMap := rfl
@[simp] theorem setCsr_paths (s : State) (n : Nat) (v : Word) : (s.setCsr n v).paths = s.paths := rfl
@[simp] theorem setCsr_enclaves (s : State) (n : Nat) (v : Word) : (s.setCsr n v).enclaves = s.enclaves := rfl
@[simp] theorem setCsr_meas (s : State) (n : Nat) (v : Word) : (s.setCsr n v).meas = s.meas := rfl
@[simp] theorem setCsr_sessions (s : State) (n : Nat) (v : Word) : (s.setCsr n v).sessions = s.sessions := rfl
@[simp] theorem setCsr_handshakes (s : State) (n : Nat) (v : Word) : (s.setCsr n v).handshakes = s.handshakes := rfl
@[simp] theorem setCsr_sessionKeys (s : State) (n : Nat) (v : Word) : (s.setCsr n v).sessionKeys = s.sessionKeys := rfl
@[simp] theorem setCsr_asked (s : State) (n : Nat) (v : Word) : (s.setCsr n v).asked = s.asked := rfl
@[simp] theorem setCsr_algorithms (s : State) (n : Nat) (v : Word) : (s.setCsr n v).algorithms = s.algorithms := rfl
@[simp] theorem setCsr_spdmOut (s : State) (n : Nat) (v : Word) : (s.setCsr n v).spdmOut = s.spdmOut := rfl
@[simp] theorem setCsr_ide (s : State) (n : Nat) (v : Word) : (s.setCsr n v).ide = s.ide := rfl
@[simp] theorem setCsr_tdi (s : State) (n : Nat) (v : Word) : (s.setCsr n v).tdi = s.tdi := rfl
@[simp] theorem setCsr_tracks (s : State) (n : Nat) (v : Word) : (s.setCsr n v).tracks = s.tracks := rfl
@[simp] theorem setCsr_scopeLog (s : State) (n : Nat) (v : Word) : (s.setCsr n v).scopeLog = s.scopeLog := rfl
@[simp] theorem setCsr_rewritten (s : State) (n : Nat) (v : Word) : (s.setCsr n v).rewritten = s.rewritten := rfl
@[simp] theorem setCsr_duty (s : State) (n : Nat) (v : Word) : (s.setCsr n v).duty = s.duty := rfl
@[simp] theorem setCsr_epoch (s : State) (n : Nat) (v : Word) : (s.setCsr n v).epoch = s.epoch := rfl
@[simp] theorem setCsr_hot (s : State) (n : Nat) (v : Word) : (s.setCsr n v).hot = s.hot := rfl
@[simp] theorem setCsr_clk (s : State) (n : Nat) (v : Word) : (s.setCsr n v).clk = s.clk := rfl
@[simp] theorem setCsr_free (s : State) (n : Nat) (v : Word) : (s.setCsr n v).free = s.free := rfl
@[simp] theorem setCsr_agenda (s : State) (n : Nat) (v : Word) : (s.setCsr n v).agenda = s.agenda := rfl
@[simp] theorem setPc_q (s : State) (v : Word) : (s.setPc v).q = { s.q with k := { s.q.k with pc := v } } := rfl
@[simp] theorem setPc_cur (s : State) (v : Word) : (s.setPc v).cur = s.cur := rfl
@[simp] theorem setPc_seqs (s : State) (v : Word) : (s.setPc v).seqs = s.seqs := rfl
@[simp] theorem setPc_tiles (s : State) (v : Word) : (s.setPc v).tiles = s.tiles := rfl
@[simp] theorem setPc_groups (s : State) (v : Word) : (s.setPc v).groups = s.groups := rfl
@[simp] theorem setPc_dies (s : State) (v : Word) : (s.setPc v).dies = s.dies := rfl
@[simp] theorem setPc_mem (s : State) (v : Word) : (s.setPc v).mem = s.mem := rfl
@[simp] theorem setPc_bad (s : State) (v : Word) : (s.setPc v).bad = s.bad := rfl
@[simp] theorem setPc_staged (s : State) (v : Word) : (s.setPc v).staged = s.staged := rfl
@[simp] theorem setPc_early (s : State) (v : Word) : (s.setPc v).early = s.early := rfl
@[simp] theorem setPc_launches (s : State) (v : Word) : (s.setPc v).launches = s.launches := rfl
@[simp] theorem setPc_accepted (s : State) (v : Word) : (s.setPc v).accepted = s.accepted := rfl
@[simp] theorem setPc_plHalt (s : State) (v : Word) : (s.setPc v).plHalt = s.plHalt := rfl
@[simp] theorem setPc_bars (s : State) (v : Word) : (s.setPc v).bars = s.bars := rfl
@[simp] theorem setPc_msgs (s : State) (v : Word) : (s.setPc v).msgs = s.msgs := rfl
@[simp] theorem setPc_queued (s : State) (v : Word) : (s.setPc v).queued = s.queued := rfl
@[simp] theorem setPc_nextMsg (s : State) (v : Word) : (s.setPc v).nextMsg = s.nextMsg := rfl
@[simp] theorem setPc_nextParty (s : State) (v : Word) : (s.setPc v).nextParty = s.nextParty := rfl
@[simp] theorem setPc_nextOrder (s : State) (v : Word) : (s.setPc v).nextOrder = s.nextOrder := rfl
@[simp] theorem setPc_queues (s : State) (v : Word) : (s.setPc v).queues = s.queues := rfl
@[simp] theorem setPc_turn (s : State) (v : Word) : (s.setPc v).turn = s.turn := rfl
@[simp] theorem setPc_spaces (s : State) (v : Word) : (s.setPc v).spaces = s.spaces := rfl
@[simp] theorem setPc_jobs (s : State) (v : Word) : (s.setPc v).jobs = s.jobs := rfl
@[simp] theorem setPc_jobSpaces (s : State) (v : Word) : (s.setPc v).jobSpaces = s.jobSpaces := rfl
@[simp] theorem setPc_adminRead (s : State) (v : Word) : (s.setPc v).adminRead = s.adminRead := rfl
@[simp] theorem setPc_adminOut (s : State) (v : Word) : (s.setPc v).adminOut = s.adminOut := rfl
@[simp] theorem setPc_hostOut (s : State) (v : Word) : (s.setPc v).hostOut = s.hostOut := rfl
@[simp] theorem setPc_dev (s : State) (v : Word) : (s.setPc v).dev = s.dev := rfl
@[simp] theorem setPc_form (s : State) (v : Word) : (s.setPc v).form = s.form := rfl
@[simp] theorem setPc_dgrp (s : State) (v : Word) : (s.setPc v).dgrp = s.dgrp := rfl
@[simp] theorem setPc_pkg (s : State) (v : Word) : (s.setPc v).pkg = s.pkg := rfl
@[simp] theorem setPc_bootStep (s : State) (v : Word) : (s.setPc v).bootStep = s.bootStep := rfl
@[simp] theorem setPc_powered (s : State) (v : Word) : (s.setPc v).powered = s.powered := rfl
@[simp] theorem setPc_out (s : State) (v : Word) : (s.setPc v).out = s.out := rfl
@[simp] theorem setPc_sentPkts (s : State) (v : Word) : (s.setPc v).sentPkts = s.sentPkts := rfl
@[simp] theorem setPc_oseq (s : State) (v : Word) : (s.setPc v).oseq = s.oseq := rfl
@[simp] theorem setPc_laneSeq (s : State) (v : Word) : (s.setPc v).laneSeq = s.laneSeq := rfl
@[simp] theorem setPc_laneCnt (s : State) (v : Word) : (s.setPc v).laneCnt = s.laneCnt := rfl
@[simp] theorem setPc_srcs (s : State) (v : Word) : (s.setPc v).srcs = s.srcs := rfl
@[simp] theorem setPc_windows (s : State) (v : Word) : (s.setPc v).windows = s.windows := rfl
@[simp] theorem setPc_links (s : State) (v : Word) : (s.setPc v).links = s.links := rfl
@[simp] theorem setPc_fabricMap (s : State) (v : Word) : (s.setPc v).fabricMap = s.fabricMap := rfl
@[simp] theorem setPc_paths (s : State) (v : Word) : (s.setPc v).paths = s.paths := rfl
@[simp] theorem setPc_enclaves (s : State) (v : Word) : (s.setPc v).enclaves = s.enclaves := rfl
@[simp] theorem setPc_meas (s : State) (v : Word) : (s.setPc v).meas = s.meas := rfl
@[simp] theorem setPc_sessions (s : State) (v : Word) : (s.setPc v).sessions = s.sessions := rfl
@[simp] theorem setPc_handshakes (s : State) (v : Word) : (s.setPc v).handshakes = s.handshakes := rfl
@[simp] theorem setPc_sessionKeys (s : State) (v : Word) : (s.setPc v).sessionKeys = s.sessionKeys := rfl
@[simp] theorem setPc_asked (s : State) (v : Word) : (s.setPc v).asked = s.asked := rfl
@[simp] theorem setPc_algorithms (s : State) (v : Word) : (s.setPc v).algorithms = s.algorithms := rfl
@[simp] theorem setPc_spdmOut (s : State) (v : Word) : (s.setPc v).spdmOut = s.spdmOut := rfl
@[simp] theorem setPc_ide (s : State) (v : Word) : (s.setPc v).ide = s.ide := rfl
@[simp] theorem setPc_tdi (s : State) (v : Word) : (s.setPc v).tdi = s.tdi := rfl
@[simp] theorem setPc_tracks (s : State) (v : Word) : (s.setPc v).tracks = s.tracks := rfl
@[simp] theorem setPc_scopeLog (s : State) (v : Word) : (s.setPc v).scopeLog = s.scopeLog := rfl
@[simp] theorem setPc_rewritten (s : State) (v : Word) : (s.setPc v).rewritten = s.rewritten := rfl
@[simp] theorem setPc_duty (s : State) (v : Word) : (s.setPc v).duty = s.duty := rfl
@[simp] theorem setPc_epoch (s : State) (v : Word) : (s.setPc v).epoch = s.epoch := rfl
@[simp] theorem setPc_hot (s : State) (v : Word) : (s.setPc v).hot = s.hot := rfl
@[simp] theorem setPc_clk (s : State) (v : Word) : (s.setPc v).clk = s.clk := rfl
@[simp] theorem setPc_free (s : State) (v : Word) : (s.setPc v).free = s.free := rfl
@[simp] theorem setPc_agenda (s : State) (v : Word) : (s.setPc v).agenda = s.agenda := rfl

/-! ## Completing and holding -/

/-- All that completing changes: the PC, INSTRET, the hold and the mark of a resumed breakpoint. -/
@[simp] theorem goto_q (s : State) (t : Word) :
    (s.goto t).q = { s.q with hold := none, k := { s.q.k with
      pc := t, csr := put s.q.k.csr 0x015 (s.csr 0x015 + 1), noBreak := false } } := rfl
@[simp] theorem goto_cur (s : State) (t : Word) : (s.goto t).cur = s.cur := rfl
@[simp] theorem goto_seqs (s : State) (t : Word) : (s.goto t).seqs = s.seqs := rfl
@[simp] theorem goto_tiles (s : State) (t : Word) : (s.goto t).tiles = s.tiles := rfl
@[simp] theorem goto_groups (s : State) (t : Word) : (s.goto t).groups = s.groups := rfl
@[simp] theorem goto_dies (s : State) (t : Word) : (s.goto t).dies = s.dies := rfl
@[simp] theorem goto_mem (s : State) (t : Word) : (s.goto t).mem = s.mem := rfl
@[simp] theorem goto_bad (s : State) (t : Word) : (s.goto t).bad = s.bad := rfl
@[simp] theorem goto_staged (s : State) (t : Word) : (s.goto t).staged = s.staged := rfl
@[simp] theorem goto_early (s : State) (t : Word) : (s.goto t).early = s.early := rfl
@[simp] theorem goto_launches (s : State) (t : Word) : (s.goto t).launches = s.launches := rfl
@[simp] theorem goto_accepted (s : State) (t : Word) : (s.goto t).accepted = s.accepted := rfl
@[simp] theorem goto_plHalt (s : State) (t : Word) : (s.goto t).plHalt = s.plHalt := rfl
@[simp] theorem goto_bars (s : State) (t : Word) : (s.goto t).bars = s.bars := rfl
@[simp] theorem goto_msgs (s : State) (t : Word) : (s.goto t).msgs = s.msgs := rfl
@[simp] theorem goto_queued (s : State) (t : Word) : (s.goto t).queued = s.queued := rfl
@[simp] theorem goto_nextMsg (s : State) (t : Word) : (s.goto t).nextMsg = s.nextMsg := rfl
@[simp] theorem goto_nextParty (s : State) (t : Word) : (s.goto t).nextParty = s.nextParty := rfl
@[simp] theorem goto_nextOrder (s : State) (t : Word) : (s.goto t).nextOrder = s.nextOrder := rfl
@[simp] theorem goto_queues (s : State) (t : Word) : (s.goto t).queues = s.queues := rfl
@[simp] theorem goto_turn (s : State) (t : Word) : (s.goto t).turn = s.turn := rfl
@[simp] theorem goto_spaces (s : State) (t : Word) : (s.goto t).spaces = s.spaces := rfl
@[simp] theorem goto_jobs (s : State) (t : Word) : (s.goto t).jobs = s.jobs := rfl
@[simp] theorem goto_jobSpaces (s : State) (t : Word) : (s.goto t).jobSpaces = s.jobSpaces := rfl
@[simp] theorem goto_adminRead (s : State) (t : Word) : (s.goto t).adminRead = s.adminRead := rfl
@[simp] theorem goto_adminOut (s : State) (t : Word) : (s.goto t).adminOut = s.adminOut := rfl
@[simp] theorem goto_hostOut (s : State) (t : Word) : (s.goto t).hostOut = s.hostOut := rfl
@[simp] theorem goto_dev (s : State) (t : Word) : (s.goto t).dev = s.dev := rfl
@[simp] theorem goto_form (s : State) (t : Word) : (s.goto t).form = s.form := rfl
@[simp] theorem goto_dgrp (s : State) (t : Word) : (s.goto t).dgrp = s.dgrp := rfl
@[simp] theorem goto_pkg (s : State) (t : Word) : (s.goto t).pkg = s.pkg := rfl
@[simp] theorem goto_bootStep (s : State) (t : Word) : (s.goto t).bootStep = s.bootStep := rfl
@[simp] theorem goto_powered (s : State) (t : Word) : (s.goto t).powered = s.powered := rfl
@[simp] theorem goto_out (s : State) (t : Word) : (s.goto t).out = s.out := rfl
@[simp] theorem goto_sentPkts (s : State) (t : Word) : (s.goto t).sentPkts = s.sentPkts := rfl
@[simp] theorem goto_oseq (s : State) (t : Word) : (s.goto t).oseq = s.oseq := rfl
@[simp] theorem goto_laneSeq (s : State) (t : Word) : (s.goto t).laneSeq = s.laneSeq := rfl
@[simp] theorem goto_laneCnt (s : State) (t : Word) : (s.goto t).laneCnt = s.laneCnt := rfl
@[simp] theorem goto_srcs (s : State) (t : Word) : (s.goto t).srcs = s.srcs := rfl
@[simp] theorem goto_windows (s : State) (t : Word) : (s.goto t).windows = s.windows := rfl
@[simp] theorem goto_links (s : State) (t : Word) : (s.goto t).links = s.links := rfl
@[simp] theorem goto_fabricMap (s : State) (t : Word) : (s.goto t).fabricMap = s.fabricMap := rfl
@[simp] theorem goto_paths (s : State) (t : Word) : (s.goto t).paths = s.paths := rfl
@[simp] theorem goto_enclaves (s : State) (t : Word) : (s.goto t).enclaves = s.enclaves := rfl
@[simp] theorem goto_meas (s : State) (t : Word) : (s.goto t).meas = s.meas := rfl
@[simp] theorem goto_sessions (s : State) (t : Word) : (s.goto t).sessions = s.sessions := rfl
@[simp] theorem goto_handshakes (s : State) (t : Word) : (s.goto t).handshakes = s.handshakes := rfl
@[simp] theorem goto_sessionKeys (s : State) (t : Word) : (s.goto t).sessionKeys = s.sessionKeys := rfl
@[simp] theorem goto_asked (s : State) (t : Word) : (s.goto t).asked = s.asked := rfl
@[simp] theorem goto_algorithms (s : State) (t : Word) : (s.goto t).algorithms = s.algorithms := rfl
@[simp] theorem goto_spdmOut (s : State) (t : Word) : (s.goto t).spdmOut = s.spdmOut := rfl
@[simp] theorem goto_ide (s : State) (t : Word) : (s.goto t).ide = s.ide := rfl
@[simp] theorem goto_tdi (s : State) (t : Word) : (s.goto t).tdi = s.tdi := rfl
@[simp] theorem goto_tracks (s : State) (t : Word) : (s.goto t).tracks = s.tracks := rfl
@[simp] theorem goto_scopeLog (s : State) (t : Word) : (s.goto t).scopeLog = s.scopeLog := rfl
@[simp] theorem goto_rewritten (s : State) (t : Word) : (s.goto t).rewritten = s.rewritten := rfl
@[simp] theorem goto_duty (s : State) (t : Word) : (s.goto t).duty = s.duty := rfl
@[simp] theorem goto_epoch (s : State) (t : Word) : (s.goto t).epoch = s.epoch := rfl
@[simp] theorem goto_hot (s : State) (t : Word) : (s.goto t).hot = s.hot := rfl
@[simp] theorem goto_clk (s : State) (t : Word) : (s.goto t).clk = s.clk := rfl
@[simp] theorem goto_free (s : State) (t : Word) : (s.goto t).free = s.free := rfl
@[simp] theorem goto_agenda (s : State) (t : Word) : (s.goto t).agenda = s.agenda := rfl
@[simp] theorem retire_q (s : State) : s.retire.q = (s.goto (s.pc + 4)).q := rfl
@[simp] theorem retire_cur (s : State)  : (s.retire).cur = s.cur := rfl
@[simp] theorem retire_seqs (s : State)  : (s.retire).seqs = s.seqs := rfl
@[simp] theorem retire_tiles (s : State)  : (s.retire).tiles = s.tiles := rfl
@[simp] theorem retire_groups (s : State)  : (s.retire).groups = s.groups := rfl
@[simp] theorem retire_dies (s : State)  : (s.retire).dies = s.dies := rfl
@[simp] theorem retire_mem (s : State)  : (s.retire).mem = s.mem := rfl
@[simp] theorem retire_bad (s : State)  : (s.retire).bad = s.bad := rfl
@[simp] theorem retire_staged (s : State)  : (s.retire).staged = s.staged := rfl
@[simp] theorem retire_early (s : State)  : (s.retire).early = s.early := rfl
@[simp] theorem retire_launches (s : State)  : (s.retire).launches = s.launches := rfl
@[simp] theorem retire_accepted (s : State)  : (s.retire).accepted = s.accepted := rfl
@[simp] theorem retire_plHalt (s : State)  : (s.retire).plHalt = s.plHalt := rfl
@[simp] theorem retire_bars (s : State)  : (s.retire).bars = s.bars := rfl
@[simp] theorem retire_msgs (s : State)  : (s.retire).msgs = s.msgs := rfl
@[simp] theorem retire_queued (s : State)  : (s.retire).queued = s.queued := rfl
@[simp] theorem retire_nextMsg (s : State)  : (s.retire).nextMsg = s.nextMsg := rfl
@[simp] theorem retire_nextParty (s : State)  : (s.retire).nextParty = s.nextParty := rfl
@[simp] theorem retire_nextOrder (s : State)  : (s.retire).nextOrder = s.nextOrder := rfl
@[simp] theorem retire_queues (s : State)  : (s.retire).queues = s.queues := rfl
@[simp] theorem retire_turn (s : State)  : (s.retire).turn = s.turn := rfl
@[simp] theorem retire_spaces (s : State)  : (s.retire).spaces = s.spaces := rfl
@[simp] theorem retire_jobs (s : State)  : (s.retire).jobs = s.jobs := rfl
@[simp] theorem retire_jobSpaces (s : State)  : (s.retire).jobSpaces = s.jobSpaces := rfl
@[simp] theorem retire_adminRead (s : State)  : (s.retire).adminRead = s.adminRead := rfl
@[simp] theorem retire_adminOut (s : State)  : (s.retire).adminOut = s.adminOut := rfl
@[simp] theorem retire_hostOut (s : State)  : (s.retire).hostOut = s.hostOut := rfl
@[simp] theorem retire_dev (s : State)  : (s.retire).dev = s.dev := rfl
@[simp] theorem retire_form (s : State)  : (s.retire).form = s.form := rfl
@[simp] theorem retire_dgrp (s : State)  : (s.retire).dgrp = s.dgrp := rfl
@[simp] theorem retire_pkg (s : State)  : (s.retire).pkg = s.pkg := rfl
@[simp] theorem retire_bootStep (s : State)  : (s.retire).bootStep = s.bootStep := rfl
@[simp] theorem retire_powered (s : State)  : (s.retire).powered = s.powered := rfl
@[simp] theorem retire_out (s : State)  : (s.retire).out = s.out := rfl
@[simp] theorem retire_sentPkts (s : State)  : (s.retire).sentPkts = s.sentPkts := rfl
@[simp] theorem retire_oseq (s : State)  : (s.retire).oseq = s.oseq := rfl
@[simp] theorem retire_laneSeq (s : State)  : (s.retire).laneSeq = s.laneSeq := rfl
@[simp] theorem retire_laneCnt (s : State)  : (s.retire).laneCnt = s.laneCnt := rfl
@[simp] theorem retire_srcs (s : State)  : (s.retire).srcs = s.srcs := rfl
@[simp] theorem retire_windows (s : State)  : (s.retire).windows = s.windows := rfl
@[simp] theorem retire_links (s : State)  : (s.retire).links = s.links := rfl
@[simp] theorem retire_fabricMap (s : State)  : (s.retire).fabricMap = s.fabricMap := rfl
@[simp] theorem retire_paths (s : State)  : (s.retire).paths = s.paths := rfl
@[simp] theorem retire_enclaves (s : State)  : (s.retire).enclaves = s.enclaves := rfl
@[simp] theorem retire_meas (s : State)  : (s.retire).meas = s.meas := rfl
@[simp] theorem retire_sessions (s : State)  : (s.retire).sessions = s.sessions := rfl
@[simp] theorem retire_handshakes (s : State)  : (s.retire).handshakes = s.handshakes := rfl
@[simp] theorem retire_sessionKeys (s : State)  : (s.retire).sessionKeys = s.sessionKeys := rfl
@[simp] theorem retire_asked (s : State)  : (s.retire).asked = s.asked := rfl
@[simp] theorem retire_algorithms (s : State)  : (s.retire).algorithms = s.algorithms := rfl
@[simp] theorem retire_spdmOut (s : State)  : (s.retire).spdmOut = s.spdmOut := rfl
@[simp] theorem retire_ide (s : State)  : (s.retire).ide = s.ide := rfl
@[simp] theorem retire_tdi (s : State)  : (s.retire).tdi = s.tdi := rfl
@[simp] theorem retire_tracks (s : State)  : (s.retire).tracks = s.tracks := rfl
@[simp] theorem retire_scopeLog (s : State)  : (s.retire).scopeLog = s.scopeLog := rfl
@[simp] theorem retire_rewritten (s : State)  : (s.retire).rewritten = s.rewritten := rfl
@[simp] theorem retire_duty (s : State)  : (s.retire).duty = s.duty := rfl
@[simp] theorem retire_epoch (s : State)  : (s.retire).epoch = s.epoch := rfl
@[simp] theorem retire_hot (s : State)  : (s.retire).hot = s.hot := rfl
@[simp] theorem retire_clk (s : State)  : (s.retire).clk = s.clk := rfl
@[simp] theorem retire_free (s : State)  : (s.retire).free = s.free := rfl
@[simp] theorem retire_agenda (s : State)  : (s.retire).agenda = s.agenda := rfl
@[simp] theorem holdFor_q (s : State) (h : Hold) : (s.holdFor h).q = { s.q with hold := some h } := rfl
@[simp] theorem holdFor_cur (s : State) (h : Hold) : (s.holdFor h).cur = s.cur := rfl
@[simp] theorem holdFor_seqs (s : State) (h : Hold) : (s.holdFor h).seqs = s.seqs := rfl
@[simp] theorem holdFor_tiles (s : State) (h : Hold) : (s.holdFor h).tiles = s.tiles := rfl
@[simp] theorem holdFor_groups (s : State) (h : Hold) : (s.holdFor h).groups = s.groups := rfl
@[simp] theorem holdFor_dies (s : State) (h : Hold) : (s.holdFor h).dies = s.dies := rfl
@[simp] theorem holdFor_mem (s : State) (h : Hold) : (s.holdFor h).mem = s.mem := rfl
@[simp] theorem holdFor_bad (s : State) (h : Hold) : (s.holdFor h).bad = s.bad := rfl
@[simp] theorem holdFor_staged (s : State) (h : Hold) : (s.holdFor h).staged = s.staged := rfl
@[simp] theorem holdFor_early (s : State) (h : Hold) : (s.holdFor h).early = s.early := rfl
@[simp] theorem holdFor_launches (s : State) (h : Hold) : (s.holdFor h).launches = s.launches := rfl
@[simp] theorem holdFor_accepted (s : State) (h : Hold) : (s.holdFor h).accepted = s.accepted := rfl
@[simp] theorem holdFor_plHalt (s : State) (h : Hold) : (s.holdFor h).plHalt = s.plHalt := rfl
@[simp] theorem holdFor_bars (s : State) (h : Hold) : (s.holdFor h).bars = s.bars := rfl
@[simp] theorem holdFor_msgs (s : State) (h : Hold) : (s.holdFor h).msgs = s.msgs := rfl
@[simp] theorem holdFor_queued (s : State) (h : Hold) : (s.holdFor h).queued = s.queued := rfl
@[simp] theorem holdFor_nextMsg (s : State) (h : Hold) : (s.holdFor h).nextMsg = s.nextMsg := rfl
@[simp] theorem holdFor_nextParty (s : State) (h : Hold) : (s.holdFor h).nextParty = s.nextParty := rfl
@[simp] theorem holdFor_nextOrder (s : State) (h : Hold) : (s.holdFor h).nextOrder = s.nextOrder := rfl
@[simp] theorem holdFor_queues (s : State) (h : Hold) : (s.holdFor h).queues = s.queues := rfl
@[simp] theorem holdFor_turn (s : State) (h : Hold) : (s.holdFor h).turn = s.turn := rfl
@[simp] theorem holdFor_spaces (s : State) (h : Hold) : (s.holdFor h).spaces = s.spaces := rfl
@[simp] theorem holdFor_jobs (s : State) (h : Hold) : (s.holdFor h).jobs = s.jobs := rfl
@[simp] theorem holdFor_jobSpaces (s : State) (h : Hold) : (s.holdFor h).jobSpaces = s.jobSpaces := rfl
@[simp] theorem holdFor_adminRead (s : State) (h : Hold) : (s.holdFor h).adminRead = s.adminRead := rfl
@[simp] theorem holdFor_adminOut (s : State) (h : Hold) : (s.holdFor h).adminOut = s.adminOut := rfl
@[simp] theorem holdFor_hostOut (s : State) (h : Hold) : (s.holdFor h).hostOut = s.hostOut := rfl
@[simp] theorem holdFor_dev (s : State) (h : Hold) : (s.holdFor h).dev = s.dev := rfl
@[simp] theorem holdFor_form (s : State) (h : Hold) : (s.holdFor h).form = s.form := rfl
@[simp] theorem holdFor_dgrp (s : State) (h : Hold) : (s.holdFor h).dgrp = s.dgrp := rfl
@[simp] theorem holdFor_pkg (s : State) (h : Hold) : (s.holdFor h).pkg = s.pkg := rfl
@[simp] theorem holdFor_bootStep (s : State) (h : Hold) : (s.holdFor h).bootStep = s.bootStep := rfl
@[simp] theorem holdFor_powered (s : State) (h : Hold) : (s.holdFor h).powered = s.powered := rfl
@[simp] theorem holdFor_out (s : State) (h : Hold) : (s.holdFor h).out = s.out := rfl
@[simp] theorem holdFor_sentPkts (s : State) (h : Hold) : (s.holdFor h).sentPkts = s.sentPkts := rfl
@[simp] theorem holdFor_oseq (s : State) (h : Hold) : (s.holdFor h).oseq = s.oseq := rfl
@[simp] theorem holdFor_laneSeq (s : State) (h : Hold) : (s.holdFor h).laneSeq = s.laneSeq := rfl
@[simp] theorem holdFor_laneCnt (s : State) (h : Hold) : (s.holdFor h).laneCnt = s.laneCnt := rfl
@[simp] theorem holdFor_srcs (s : State) (h : Hold) : (s.holdFor h).srcs = s.srcs := rfl
@[simp] theorem holdFor_windows (s : State) (h : Hold) : (s.holdFor h).windows = s.windows := rfl
@[simp] theorem holdFor_links (s : State) (h : Hold) : (s.holdFor h).links = s.links := rfl
@[simp] theorem holdFor_fabricMap (s : State) (h : Hold) : (s.holdFor h).fabricMap = s.fabricMap := rfl
@[simp] theorem holdFor_paths (s : State) (h : Hold) : (s.holdFor h).paths = s.paths := rfl
@[simp] theorem holdFor_enclaves (s : State) (h : Hold) : (s.holdFor h).enclaves = s.enclaves := rfl
@[simp] theorem holdFor_meas (s : State) (h : Hold) : (s.holdFor h).meas = s.meas := rfl
@[simp] theorem holdFor_sessions (s : State) (h : Hold) : (s.holdFor h).sessions = s.sessions := rfl
@[simp] theorem holdFor_handshakes (s : State) (h : Hold) : (s.holdFor h).handshakes = s.handshakes := rfl
@[simp] theorem holdFor_sessionKeys (s : State) (h : Hold) : (s.holdFor h).sessionKeys = s.sessionKeys := rfl
@[simp] theorem holdFor_asked (s : State) (h : Hold) : (s.holdFor h).asked = s.asked := rfl
@[simp] theorem holdFor_algorithms (s : State) (h : Hold) : (s.holdFor h).algorithms = s.algorithms := rfl
@[simp] theorem holdFor_spdmOut (s : State) (h : Hold) : (s.holdFor h).spdmOut = s.spdmOut := rfl
@[simp] theorem holdFor_ide (s : State) (h : Hold) : (s.holdFor h).ide = s.ide := rfl
@[simp] theorem holdFor_tdi (s : State) (h : Hold) : (s.holdFor h).tdi = s.tdi := rfl
@[simp] theorem holdFor_tracks (s : State) (h : Hold) : (s.holdFor h).tracks = s.tracks := rfl
@[simp] theorem holdFor_scopeLog (s : State) (h : Hold) : (s.holdFor h).scopeLog = s.scopeLog := rfl
@[simp] theorem holdFor_rewritten (s : State) (h : Hold) : (s.holdFor h).rewritten = s.rewritten := rfl
@[simp] theorem holdFor_duty (s : State) (h : Hold) : (s.holdFor h).duty = s.duty := rfl
@[simp] theorem holdFor_epoch (s : State) (h : Hold) : (s.holdFor h).epoch = s.epoch := rfl
@[simp] theorem holdFor_hot (s : State) (h : Hold) : (s.holdFor h).hot = s.hot := rfl
@[simp] theorem holdFor_clk (s : State) (h : Hold) : (s.holdFor h).clk = s.clk := rfl
@[simp] theorem holdFor_free (s : State) (h : Hold) : (s.holdFor h).free = s.free := rfl
@[simp] theorem holdFor_agenda (s : State) (h : Hold) : (s.holdFor h).agenda = s.agenda := rfl

/-! ## Memory -/

@[simp] theorem poke_mem (s : State) (k : Nat) (bs : List Byte) : (s.poke k bs).mem = writeBytes s.mem k bs := rfl
@[simp] theorem poke_cur (s : State) (k : Nat) (bs : List Byte) : (s.poke k bs).cur = s.cur := rfl
@[simp] theorem poke_q (s : State) (k : Nat) (bs : List Byte) : (s.poke k bs).q = s.q := rfl
@[simp] theorem poke_seqs (s : State) (k : Nat) (bs : List Byte) : (s.poke k bs).seqs = s.seqs := rfl
@[simp] theorem poke_tiles (s : State) (k : Nat) (bs : List Byte) : (s.poke k bs).tiles = s.tiles := rfl
@[simp] theorem poke_groups (s : State) (k : Nat) (bs : List Byte) : (s.poke k bs).groups = s.groups := rfl
@[simp] theorem poke_dies (s : State) (k : Nat) (bs : List Byte) : (s.poke k bs).dies = s.dies := rfl
@[simp] theorem poke_staged (s : State) (k : Nat) (bs : List Byte) : (s.poke k bs).staged = s.staged := rfl
@[simp] theorem poke_early (s : State) (k : Nat) (bs : List Byte) : (s.poke k bs).early = s.early := rfl
@[simp] theorem poke_launches (s : State) (k : Nat) (bs : List Byte) : (s.poke k bs).launches = s.launches := rfl
@[simp] theorem poke_accepted (s : State) (k : Nat) (bs : List Byte) : (s.poke k bs).accepted = s.accepted := rfl
@[simp] theorem poke_plHalt (s : State) (k : Nat) (bs : List Byte) : (s.poke k bs).plHalt = s.plHalt := rfl
@[simp] theorem poke_bars (s : State) (k : Nat) (bs : List Byte) : (s.poke k bs).bars = s.bars := rfl
@[simp] theorem poke_msgs (s : State) (k : Nat) (bs : List Byte) : (s.poke k bs).msgs = s.msgs := rfl
@[simp] theorem poke_queued (s : State) (k : Nat) (bs : List Byte) : (s.poke k bs).queued = s.queued := rfl
@[simp] theorem poke_nextMsg (s : State) (k : Nat) (bs : List Byte) : (s.poke k bs).nextMsg = s.nextMsg := rfl
@[simp] theorem poke_nextParty (s : State) (k : Nat) (bs : List Byte) : (s.poke k bs).nextParty = s.nextParty := rfl
@[simp] theorem poke_nextOrder (s : State) (k : Nat) (bs : List Byte) : (s.poke k bs).nextOrder = s.nextOrder := rfl
@[simp] theorem poke_queues (s : State) (k : Nat) (bs : List Byte) : (s.poke k bs).queues = s.queues := rfl
@[simp] theorem poke_turn (s : State) (k : Nat) (bs : List Byte) : (s.poke k bs).turn = s.turn := rfl
@[simp] theorem poke_spaces (s : State) (k : Nat) (bs : List Byte) : (s.poke k bs).spaces = s.spaces := rfl
@[simp] theorem poke_jobs (s : State) (k : Nat) (bs : List Byte) : (s.poke k bs).jobs = s.jobs := rfl
@[simp] theorem poke_jobSpaces (s : State) (k : Nat) (bs : List Byte) : (s.poke k bs).jobSpaces = s.jobSpaces := rfl
@[simp] theorem poke_adminRead (s : State) (k : Nat) (bs : List Byte) : (s.poke k bs).adminRead = s.adminRead := rfl
@[simp] theorem poke_adminOut (s : State) (k : Nat) (bs : List Byte) : (s.poke k bs).adminOut = s.adminOut := rfl
@[simp] theorem poke_hostOut (s : State) (k : Nat) (bs : List Byte) : (s.poke k bs).hostOut = s.hostOut := rfl
@[simp] theorem poke_dev (s : State) (k : Nat) (bs : List Byte) : (s.poke k bs).dev = s.dev := rfl
@[simp] theorem poke_form (s : State) (k : Nat) (bs : List Byte) : (s.poke k bs).form = s.form := rfl
@[simp] theorem poke_dgrp (s : State) (k : Nat) (bs : List Byte) : (s.poke k bs).dgrp = s.dgrp := rfl
@[simp] theorem poke_pkg (s : State) (k : Nat) (bs : List Byte) : (s.poke k bs).pkg = s.pkg := rfl
@[simp] theorem poke_bootStep (s : State) (k : Nat) (bs : List Byte) : (s.poke k bs).bootStep = s.bootStep := rfl
@[simp] theorem poke_powered (s : State) (k : Nat) (bs : List Byte) : (s.poke k bs).powered = s.powered := rfl
@[simp] theorem poke_out (s : State) (k : Nat) (bs : List Byte) : (s.poke k bs).out = s.out := rfl
@[simp] theorem poke_sentPkts (s : State) (k : Nat) (bs : List Byte) : (s.poke k bs).sentPkts = s.sentPkts := rfl
@[simp] theorem poke_oseq (s : State) (k : Nat) (bs : List Byte) : (s.poke k bs).oseq = s.oseq := rfl
@[simp] theorem poke_laneSeq (s : State) (k : Nat) (bs : List Byte) : (s.poke k bs).laneSeq = s.laneSeq := rfl
@[simp] theorem poke_laneCnt (s : State) (k : Nat) (bs : List Byte) : (s.poke k bs).laneCnt = s.laneCnt := rfl
@[simp] theorem poke_srcs (s : State) (k : Nat) (bs : List Byte) : (s.poke k bs).srcs = s.srcs := rfl
@[simp] theorem poke_windows (s : State) (k : Nat) (bs : List Byte) : (s.poke k bs).windows = s.windows := rfl
@[simp] theorem poke_links (s : State) (k : Nat) (bs : List Byte) : (s.poke k bs).links = s.links := rfl
@[simp] theorem poke_fabricMap (s : State) (k : Nat) (bs : List Byte) : (s.poke k bs).fabricMap = s.fabricMap := rfl
@[simp] theorem poke_paths (s : State) (k : Nat) (bs : List Byte) : (s.poke k bs).paths = s.paths := rfl
@[simp] theorem poke_enclaves (s : State) (k : Nat) (bs : List Byte) : (s.poke k bs).enclaves = s.enclaves := rfl
@[simp] theorem poke_meas (s : State) (k : Nat) (bs : List Byte) : (s.poke k bs).meas = s.meas := rfl
@[simp] theorem poke_sessions (s : State) (k : Nat) (bs : List Byte) : (s.poke k bs).sessions = s.sessions := rfl
@[simp] theorem poke_handshakes (s : State) (k : Nat) (bs : List Byte) : (s.poke k bs).handshakes = s.handshakes := rfl
@[simp] theorem poke_sessionKeys (s : State) (k : Nat) (bs : List Byte) : (s.poke k bs).sessionKeys = s.sessionKeys := rfl
@[simp] theorem poke_asked (s : State) (k : Nat) (bs : List Byte) : (s.poke k bs).asked = s.asked := rfl
@[simp] theorem poke_algorithms (s : State) (k : Nat) (bs : List Byte) : (s.poke k bs).algorithms = s.algorithms := rfl
@[simp] theorem poke_spdmOut (s : State) (k : Nat) (bs : List Byte) : (s.poke k bs).spdmOut = s.spdmOut := rfl
@[simp] theorem poke_ide (s : State) (k : Nat) (bs : List Byte) : (s.poke k bs).ide = s.ide := rfl
@[simp] theorem poke_tdi (s : State) (k : Nat) (bs : List Byte) : (s.poke k bs).tdi = s.tdi := rfl
@[simp] theorem poke_tracks (s : State) (k : Nat) (bs : List Byte) : (s.poke k bs).tracks = s.tracks := rfl
@[simp] theorem poke_scopeLog (s : State) (k : Nat) (bs : List Byte) : (s.poke k bs).scopeLog = s.scopeLog := rfl
@[simp] theorem poke_rewritten (s : State) (k : Nat) (bs : List Byte) : (s.poke k bs).rewritten = s.rewritten := rfl
@[simp] theorem poke_duty (s : State) (k : Nat) (bs : List Byte) : (s.poke k bs).duty = s.duty := rfl
@[simp] theorem poke_epoch (s : State) (k : Nat) (bs : List Byte) : (s.poke k bs).epoch = s.epoch := rfl
@[simp] theorem poke_hot (s : State) (k : Nat) (bs : List Byte) : (s.poke k bs).hot = s.hot := rfl
@[simp] theorem poke_clk (s : State) (k : Nat) (bs : List Byte) : (s.poke k bs).clk = s.clk := rfl
@[simp] theorem poke_free (s : State) (k : Nat) (bs : List Byte) : (s.poke k bs).free = s.free := rfl
@[simp] theorem poke_agenda (s : State) (k : Nat) (bs : List Byte) : (s.poke k bs).agenda = s.agenda := rfl
@[simp] theorem zero_mem (s : State) (k n : Nat) : (s.zero k n).mem = zeroRange s.mem k n := rfl
@[simp] theorem zero_cur (s : State) (k n : Nat) : (s.zero k n).cur = s.cur := rfl
@[simp] theorem zero_q (s : State) (k n : Nat) : (s.zero k n).q = s.q := rfl
@[simp] theorem zero_seqs (s : State) (k n : Nat) : (s.zero k n).seqs = s.seqs := rfl
@[simp] theorem zero_tiles (s : State) (k n : Nat) : (s.zero k n).tiles = s.tiles := rfl
@[simp] theorem zero_groups (s : State) (k n : Nat) : (s.zero k n).groups = s.groups := rfl
@[simp] theorem zero_dies (s : State) (k n : Nat) : (s.zero k n).dies = s.dies := rfl
@[simp] theorem zero_staged (s : State) (k n : Nat) : (s.zero k n).staged = s.staged := rfl
@[simp] theorem zero_early (s : State) (k n : Nat) : (s.zero k n).early = s.early := rfl
@[simp] theorem zero_launches (s : State) (k n : Nat) : (s.zero k n).launches = s.launches := rfl
@[simp] theorem zero_accepted (s : State) (k n : Nat) : (s.zero k n).accepted = s.accepted := rfl
@[simp] theorem zero_plHalt (s : State) (k n : Nat) : (s.zero k n).plHalt = s.plHalt := rfl
@[simp] theorem zero_bars (s : State) (k n : Nat) : (s.zero k n).bars = s.bars := rfl
@[simp] theorem zero_msgs (s : State) (k n : Nat) : (s.zero k n).msgs = s.msgs := rfl
@[simp] theorem zero_queued (s : State) (k n : Nat) : (s.zero k n).queued = s.queued := rfl
@[simp] theorem zero_nextMsg (s : State) (k n : Nat) : (s.zero k n).nextMsg = s.nextMsg := rfl
@[simp] theorem zero_nextParty (s : State) (k n : Nat) : (s.zero k n).nextParty = s.nextParty := rfl
@[simp] theorem zero_nextOrder (s : State) (k n : Nat) : (s.zero k n).nextOrder = s.nextOrder := rfl
@[simp] theorem zero_queues (s : State) (k n : Nat) : (s.zero k n).queues = s.queues := rfl
@[simp] theorem zero_turn (s : State) (k n : Nat) : (s.zero k n).turn = s.turn := rfl
@[simp] theorem zero_spaces (s : State) (k n : Nat) : (s.zero k n).spaces = s.spaces := rfl
@[simp] theorem zero_jobs (s : State) (k n : Nat) : (s.zero k n).jobs = s.jobs := rfl
@[simp] theorem zero_jobSpaces (s : State) (k n : Nat) : (s.zero k n).jobSpaces = s.jobSpaces := rfl
@[simp] theorem zero_adminRead (s : State) (k n : Nat) : (s.zero k n).adminRead = s.adminRead := rfl
@[simp] theorem zero_adminOut (s : State) (k n : Nat) : (s.zero k n).adminOut = s.adminOut := rfl
@[simp] theorem zero_hostOut (s : State) (k n : Nat) : (s.zero k n).hostOut = s.hostOut := rfl
@[simp] theorem zero_dev (s : State) (k n : Nat) : (s.zero k n).dev = s.dev := rfl
@[simp] theorem zero_form (s : State) (k n : Nat) : (s.zero k n).form = s.form := rfl
@[simp] theorem zero_dgrp (s : State) (k n : Nat) : (s.zero k n).dgrp = s.dgrp := rfl
@[simp] theorem zero_pkg (s : State) (k n : Nat) : (s.zero k n).pkg = s.pkg := rfl
@[simp] theorem zero_bootStep (s : State) (k n : Nat) : (s.zero k n).bootStep = s.bootStep := rfl
@[simp] theorem zero_powered (s : State) (k n : Nat) : (s.zero k n).powered = s.powered := rfl
@[simp] theorem zero_out (s : State) (k n : Nat) : (s.zero k n).out = s.out := rfl
@[simp] theorem zero_sentPkts (s : State) (k n : Nat) : (s.zero k n).sentPkts = s.sentPkts := rfl
@[simp] theorem zero_oseq (s : State) (k n : Nat) : (s.zero k n).oseq = s.oseq := rfl
@[simp] theorem zero_laneSeq (s : State) (k n : Nat) : (s.zero k n).laneSeq = s.laneSeq := rfl
@[simp] theorem zero_laneCnt (s : State) (k n : Nat) : (s.zero k n).laneCnt = s.laneCnt := rfl
@[simp] theorem zero_srcs (s : State) (k n : Nat) : (s.zero k n).srcs = s.srcs := rfl
@[simp] theorem zero_windows (s : State) (k n : Nat) : (s.zero k n).windows = s.windows := rfl
@[simp] theorem zero_links (s : State) (k n : Nat) : (s.zero k n).links = s.links := rfl
@[simp] theorem zero_fabricMap (s : State) (k n : Nat) : (s.zero k n).fabricMap = s.fabricMap := rfl
@[simp] theorem zero_paths (s : State) (k n : Nat) : (s.zero k n).paths = s.paths := rfl
@[simp] theorem zero_enclaves (s : State) (k n : Nat) : (s.zero k n).enclaves = s.enclaves := rfl
@[simp] theorem zero_meas (s : State) (k n : Nat) : (s.zero k n).meas = s.meas := rfl
@[simp] theorem zero_sessions (s : State) (k n : Nat) : (s.zero k n).sessions = s.sessions := rfl
@[simp] theorem zero_handshakes (s : State) (k n : Nat) : (s.zero k n).handshakes = s.handshakes := rfl
@[simp] theorem zero_sessionKeys (s : State) (k n : Nat) : (s.zero k n).sessionKeys = s.sessionKeys := rfl
@[simp] theorem zero_asked (s : State) (k n : Nat) : (s.zero k n).asked = s.asked := rfl
@[simp] theorem zero_algorithms (s : State) (k n : Nat) : (s.zero k n).algorithms = s.algorithms := rfl
@[simp] theorem zero_spdmOut (s : State) (k n : Nat) : (s.zero k n).spdmOut = s.spdmOut := rfl
@[simp] theorem zero_ide (s : State) (k n : Nat) : (s.zero k n).ide = s.ide := rfl
@[simp] theorem zero_tdi (s : State) (k n : Nat) : (s.zero k n).tdi = s.tdi := rfl
@[simp] theorem zero_tracks (s : State) (k n : Nat) : (s.zero k n).tracks = s.tracks := rfl
@[simp] theorem zero_scopeLog (s : State) (k n : Nat) : (s.zero k n).scopeLog = s.scopeLog := rfl
@[simp] theorem zero_rewritten (s : State) (k n : Nat) : (s.zero k n).rewritten = s.rewritten := rfl
@[simp] theorem zero_duty (s : State) (k n : Nat) : (s.zero k n).duty = s.duty := rfl
@[simp] theorem zero_epoch (s : State) (k n : Nat) : (s.zero k n).epoch = s.epoch := rfl
@[simp] theorem zero_hot (s : State) (k n : Nat) : (s.zero k n).hot = s.hot := rfl
@[simp] theorem zero_clk (s : State) (k n : Nat) : (s.zero k n).clk = s.clk := rfl
@[simp] theorem zero_free (s : State) (k n : Nat) : (s.zero k n).free = s.free := rfl
@[simp] theorem zero_agenda (s : State) (k n : Nat) : (s.zero k n).agenda = s.agenda := rfl

/-! ## Tiles, groups, dies, launches -/

@[simp] theorem setTile_tiles (s : State) (n : Nat) (v : Tile) : (s.setTile n v).tiles = ins s.tiles n v := rfl
@[simp] theorem setTile_cur (s : State) (n : Nat) (v : Tile) : (s.setTile n v).cur = s.cur := rfl
@[simp] theorem setTile_q (s : State) (n : Nat) (v : Tile) : (s.setTile n v).q = s.q := rfl
@[simp] theorem setTile_seqs (s : State) (n : Nat) (v : Tile) : (s.setTile n v).seqs = s.seqs := rfl
@[simp] theorem setTile_groups (s : State) (n : Nat) (v : Tile) : (s.setTile n v).groups = s.groups := rfl
@[simp] theorem setTile_dies (s : State) (n : Nat) (v : Tile) : (s.setTile n v).dies = s.dies := rfl
@[simp] theorem setTile_mem (s : State) (n : Nat) (v : Tile) : (s.setTile n v).mem = s.mem := rfl
@[simp] theorem setTile_bad (s : State) (n : Nat) (v : Tile) : (s.setTile n v).bad = s.bad := rfl
@[simp] theorem setTile_staged (s : State) (n : Nat) (v : Tile) : (s.setTile n v).staged = s.staged := rfl
@[simp] theorem setTile_early (s : State) (n : Nat) (v : Tile) : (s.setTile n v).early = s.early := rfl
@[simp] theorem setTile_launches (s : State) (n : Nat) (v : Tile) : (s.setTile n v).launches = s.launches := rfl
@[simp] theorem setTile_accepted (s : State) (n : Nat) (v : Tile) : (s.setTile n v).accepted = s.accepted := rfl
@[simp] theorem setTile_plHalt (s : State) (n : Nat) (v : Tile) : (s.setTile n v).plHalt = s.plHalt := rfl
@[simp] theorem setTile_bars (s : State) (n : Nat) (v : Tile) : (s.setTile n v).bars = s.bars := rfl
@[simp] theorem setTile_msgs (s : State) (n : Nat) (v : Tile) : (s.setTile n v).msgs = s.msgs := rfl
@[simp] theorem setTile_queued (s : State) (n : Nat) (v : Tile) : (s.setTile n v).queued = s.queued := rfl
@[simp] theorem setTile_nextMsg (s : State) (n : Nat) (v : Tile) : (s.setTile n v).nextMsg = s.nextMsg := rfl
@[simp] theorem setTile_nextParty (s : State) (n : Nat) (v : Tile) : (s.setTile n v).nextParty = s.nextParty := rfl
@[simp] theorem setTile_nextOrder (s : State) (n : Nat) (v : Tile) : (s.setTile n v).nextOrder = s.nextOrder := rfl
@[simp] theorem setTile_queues (s : State) (n : Nat) (v : Tile) : (s.setTile n v).queues = s.queues := rfl
@[simp] theorem setTile_turn (s : State) (n : Nat) (v : Tile) : (s.setTile n v).turn = s.turn := rfl
@[simp] theorem setTile_spaces (s : State) (n : Nat) (v : Tile) : (s.setTile n v).spaces = s.spaces := rfl
@[simp] theorem setTile_jobs (s : State) (n : Nat) (v : Tile) : (s.setTile n v).jobs = s.jobs := rfl
@[simp] theorem setTile_jobSpaces (s : State) (n : Nat) (v : Tile) : (s.setTile n v).jobSpaces = s.jobSpaces := rfl
@[simp] theorem setTile_adminRead (s : State) (n : Nat) (v : Tile) : (s.setTile n v).adminRead = s.adminRead := rfl
@[simp] theorem setTile_adminOut (s : State) (n : Nat) (v : Tile) : (s.setTile n v).adminOut = s.adminOut := rfl
@[simp] theorem setTile_hostOut (s : State) (n : Nat) (v : Tile) : (s.setTile n v).hostOut = s.hostOut := rfl
@[simp] theorem setTile_dev (s : State) (n : Nat) (v : Tile) : (s.setTile n v).dev = s.dev := rfl
@[simp] theorem setTile_form (s : State) (n : Nat) (v : Tile) : (s.setTile n v).form = s.form := rfl
@[simp] theorem setTile_dgrp (s : State) (n : Nat) (v : Tile) : (s.setTile n v).dgrp = s.dgrp := rfl
@[simp] theorem setTile_pkg (s : State) (n : Nat) (v : Tile) : (s.setTile n v).pkg = s.pkg := rfl
@[simp] theorem setTile_bootStep (s : State) (n : Nat) (v : Tile) : (s.setTile n v).bootStep = s.bootStep := rfl
@[simp] theorem setTile_powered (s : State) (n : Nat) (v : Tile) : (s.setTile n v).powered = s.powered := rfl
@[simp] theorem setTile_out (s : State) (n : Nat) (v : Tile) : (s.setTile n v).out = s.out := rfl
@[simp] theorem setTile_sentPkts (s : State) (n : Nat) (v : Tile) : (s.setTile n v).sentPkts = s.sentPkts := rfl
@[simp] theorem setTile_oseq (s : State) (n : Nat) (v : Tile) : (s.setTile n v).oseq = s.oseq := rfl
@[simp] theorem setTile_laneSeq (s : State) (n : Nat) (v : Tile) : (s.setTile n v).laneSeq = s.laneSeq := rfl
@[simp] theorem setTile_laneCnt (s : State) (n : Nat) (v : Tile) : (s.setTile n v).laneCnt = s.laneCnt := rfl
@[simp] theorem setTile_srcs (s : State) (n : Nat) (v : Tile) : (s.setTile n v).srcs = s.srcs := rfl
@[simp] theorem setTile_windows (s : State) (n : Nat) (v : Tile) : (s.setTile n v).windows = s.windows := rfl
@[simp] theorem setTile_links (s : State) (n : Nat) (v : Tile) : (s.setTile n v).links = s.links := rfl
@[simp] theorem setTile_fabricMap (s : State) (n : Nat) (v : Tile) : (s.setTile n v).fabricMap = s.fabricMap := rfl
@[simp] theorem setTile_paths (s : State) (n : Nat) (v : Tile) : (s.setTile n v).paths = s.paths := rfl
@[simp] theorem setTile_enclaves (s : State) (n : Nat) (v : Tile) : (s.setTile n v).enclaves = s.enclaves := rfl
@[simp] theorem setTile_meas (s : State) (n : Nat) (v : Tile) : (s.setTile n v).meas = s.meas := rfl
@[simp] theorem setTile_sessions (s : State) (n : Nat) (v : Tile) : (s.setTile n v).sessions = s.sessions := rfl
@[simp] theorem setTile_handshakes (s : State) (n : Nat) (v : Tile) : (s.setTile n v).handshakes = s.handshakes := rfl
@[simp] theorem setTile_sessionKeys (s : State) (n : Nat) (v : Tile) : (s.setTile n v).sessionKeys = s.sessionKeys := rfl
@[simp] theorem setTile_asked (s : State) (n : Nat) (v : Tile) : (s.setTile n v).asked = s.asked := rfl
@[simp] theorem setTile_algorithms (s : State) (n : Nat) (v : Tile) : (s.setTile n v).algorithms = s.algorithms := rfl
@[simp] theorem setTile_spdmOut (s : State) (n : Nat) (v : Tile) : (s.setTile n v).spdmOut = s.spdmOut := rfl
@[simp] theorem setTile_ide (s : State) (n : Nat) (v : Tile) : (s.setTile n v).ide = s.ide := rfl
@[simp] theorem setTile_tdi (s : State) (n : Nat) (v : Tile) : (s.setTile n v).tdi = s.tdi := rfl
@[simp] theorem setTile_tracks (s : State) (n : Nat) (v : Tile) : (s.setTile n v).tracks = s.tracks := rfl
@[simp] theorem setTile_scopeLog (s : State) (n : Nat) (v : Tile) : (s.setTile n v).scopeLog = s.scopeLog := rfl
@[simp] theorem setTile_rewritten (s : State) (n : Nat) (v : Tile) : (s.setTile n v).rewritten = s.rewritten := rfl
@[simp] theorem setTile_duty (s : State) (n : Nat) (v : Tile) : (s.setTile n v).duty = s.duty := rfl
@[simp] theorem setTile_epoch (s : State) (n : Nat) (v : Tile) : (s.setTile n v).epoch = s.epoch := rfl
@[simp] theorem setTile_hot (s : State) (n : Nat) (v : Tile) : (s.setTile n v).hot = s.hot := rfl
@[simp] theorem setTile_clk (s : State) (n : Nat) (v : Tile) : (s.setTile n v).clk = s.clk := rfl
@[simp] theorem setTile_free (s : State) (n : Nat) (v : Tile) : (s.setTile n v).free = s.free := rfl
@[simp] theorem setTile_agenda (s : State) (n : Nat) (v : Tile) : (s.setTile n v).agenda = s.agenda := rfl
@[simp] theorem setGroup_groups (s : State) (n : Nat) (v : Group) : (s.setGroup n v).groups = ins s.groups n v := rfl
@[simp] theorem setGroup_cur (s : State) (n : Nat) (v : Group) : (s.setGroup n v).cur = s.cur := rfl
@[simp] theorem setGroup_q (s : State) (n : Nat) (v : Group) : (s.setGroup n v).q = s.q := rfl
@[simp] theorem setGroup_seqs (s : State) (n : Nat) (v : Group) : (s.setGroup n v).seqs = s.seqs := rfl
@[simp] theorem setGroup_tiles (s : State) (n : Nat) (v : Group) : (s.setGroup n v).tiles = s.tiles := rfl
@[simp] theorem setGroup_dies (s : State) (n : Nat) (v : Group) : (s.setGroup n v).dies = s.dies := rfl
@[simp] theorem setGroup_mem (s : State) (n : Nat) (v : Group) : (s.setGroup n v).mem = s.mem := rfl
@[simp] theorem setGroup_bad (s : State) (n : Nat) (v : Group) : (s.setGroup n v).bad = s.bad := rfl
@[simp] theorem setGroup_staged (s : State) (n : Nat) (v : Group) : (s.setGroup n v).staged = s.staged := rfl
@[simp] theorem setGroup_early (s : State) (n : Nat) (v : Group) : (s.setGroup n v).early = s.early := rfl
@[simp] theorem setGroup_launches (s : State) (n : Nat) (v : Group) : (s.setGroup n v).launches = s.launches := rfl
@[simp] theorem setGroup_accepted (s : State) (n : Nat) (v : Group) : (s.setGroup n v).accepted = s.accepted := rfl
@[simp] theorem setGroup_plHalt (s : State) (n : Nat) (v : Group) : (s.setGroup n v).plHalt = s.plHalt := rfl
@[simp] theorem setGroup_bars (s : State) (n : Nat) (v : Group) : (s.setGroup n v).bars = s.bars := rfl
@[simp] theorem setGroup_msgs (s : State) (n : Nat) (v : Group) : (s.setGroup n v).msgs = s.msgs := rfl
@[simp] theorem setGroup_queued (s : State) (n : Nat) (v : Group) : (s.setGroup n v).queued = s.queued := rfl
@[simp] theorem setGroup_nextMsg (s : State) (n : Nat) (v : Group) : (s.setGroup n v).nextMsg = s.nextMsg := rfl
@[simp] theorem setGroup_nextParty (s : State) (n : Nat) (v : Group) : (s.setGroup n v).nextParty = s.nextParty := rfl
@[simp] theorem setGroup_nextOrder (s : State) (n : Nat) (v : Group) : (s.setGroup n v).nextOrder = s.nextOrder := rfl
@[simp] theorem setGroup_queues (s : State) (n : Nat) (v : Group) : (s.setGroup n v).queues = s.queues := rfl
@[simp] theorem setGroup_turn (s : State) (n : Nat) (v : Group) : (s.setGroup n v).turn = s.turn := rfl
@[simp] theorem setGroup_spaces (s : State) (n : Nat) (v : Group) : (s.setGroup n v).spaces = s.spaces := rfl
@[simp] theorem setGroup_jobs (s : State) (n : Nat) (v : Group) : (s.setGroup n v).jobs = s.jobs := rfl
@[simp] theorem setGroup_jobSpaces (s : State) (n : Nat) (v : Group) : (s.setGroup n v).jobSpaces = s.jobSpaces := rfl
@[simp] theorem setGroup_adminRead (s : State) (n : Nat) (v : Group) : (s.setGroup n v).adminRead = s.adminRead := rfl
@[simp] theorem setGroup_adminOut (s : State) (n : Nat) (v : Group) : (s.setGroup n v).adminOut = s.adminOut := rfl
@[simp] theorem setGroup_hostOut (s : State) (n : Nat) (v : Group) : (s.setGroup n v).hostOut = s.hostOut := rfl
@[simp] theorem setGroup_dev (s : State) (n : Nat) (v : Group) : (s.setGroup n v).dev = s.dev := rfl
@[simp] theorem setGroup_form (s : State) (n : Nat) (v : Group) : (s.setGroup n v).form = s.form := rfl
@[simp] theorem setGroup_dgrp (s : State) (n : Nat) (v : Group) : (s.setGroup n v).dgrp = s.dgrp := rfl
@[simp] theorem setGroup_pkg (s : State) (n : Nat) (v : Group) : (s.setGroup n v).pkg = s.pkg := rfl
@[simp] theorem setGroup_bootStep (s : State) (n : Nat) (v : Group) : (s.setGroup n v).bootStep = s.bootStep := rfl
@[simp] theorem setGroup_powered (s : State) (n : Nat) (v : Group) : (s.setGroup n v).powered = s.powered := rfl
@[simp] theorem setGroup_out (s : State) (n : Nat) (v : Group) : (s.setGroup n v).out = s.out := rfl
@[simp] theorem setGroup_sentPkts (s : State) (n : Nat) (v : Group) : (s.setGroup n v).sentPkts = s.sentPkts := rfl
@[simp] theorem setGroup_oseq (s : State) (n : Nat) (v : Group) : (s.setGroup n v).oseq = s.oseq := rfl
@[simp] theorem setGroup_laneSeq (s : State) (n : Nat) (v : Group) : (s.setGroup n v).laneSeq = s.laneSeq := rfl
@[simp] theorem setGroup_laneCnt (s : State) (n : Nat) (v : Group) : (s.setGroup n v).laneCnt = s.laneCnt := rfl
@[simp] theorem setGroup_srcs (s : State) (n : Nat) (v : Group) : (s.setGroup n v).srcs = s.srcs := rfl
@[simp] theorem setGroup_windows (s : State) (n : Nat) (v : Group) : (s.setGroup n v).windows = s.windows := rfl
@[simp] theorem setGroup_links (s : State) (n : Nat) (v : Group) : (s.setGroup n v).links = s.links := rfl
@[simp] theorem setGroup_fabricMap (s : State) (n : Nat) (v : Group) : (s.setGroup n v).fabricMap = s.fabricMap := rfl
@[simp] theorem setGroup_paths (s : State) (n : Nat) (v : Group) : (s.setGroup n v).paths = s.paths := rfl
@[simp] theorem setGroup_enclaves (s : State) (n : Nat) (v : Group) : (s.setGroup n v).enclaves = s.enclaves := rfl
@[simp] theorem setGroup_meas (s : State) (n : Nat) (v : Group) : (s.setGroup n v).meas = s.meas := rfl
@[simp] theorem setGroup_sessions (s : State) (n : Nat) (v : Group) : (s.setGroup n v).sessions = s.sessions := rfl
@[simp] theorem setGroup_handshakes (s : State) (n : Nat) (v : Group) : (s.setGroup n v).handshakes = s.handshakes := rfl
@[simp] theorem setGroup_sessionKeys (s : State) (n : Nat) (v : Group) : (s.setGroup n v).sessionKeys = s.sessionKeys := rfl
@[simp] theorem setGroup_asked (s : State) (n : Nat) (v : Group) : (s.setGroup n v).asked = s.asked := rfl
@[simp] theorem setGroup_algorithms (s : State) (n : Nat) (v : Group) : (s.setGroup n v).algorithms = s.algorithms := rfl
@[simp] theorem setGroup_spdmOut (s : State) (n : Nat) (v : Group) : (s.setGroup n v).spdmOut = s.spdmOut := rfl
@[simp] theorem setGroup_ide (s : State) (n : Nat) (v : Group) : (s.setGroup n v).ide = s.ide := rfl
@[simp] theorem setGroup_tdi (s : State) (n : Nat) (v : Group) : (s.setGroup n v).tdi = s.tdi := rfl
@[simp] theorem setGroup_tracks (s : State) (n : Nat) (v : Group) : (s.setGroup n v).tracks = s.tracks := rfl
@[simp] theorem setGroup_scopeLog (s : State) (n : Nat) (v : Group) : (s.setGroup n v).scopeLog = s.scopeLog := rfl
@[simp] theorem setGroup_rewritten (s : State) (n : Nat) (v : Group) : (s.setGroup n v).rewritten = s.rewritten := rfl
@[simp] theorem setGroup_duty (s : State) (n : Nat) (v : Group) : (s.setGroup n v).duty = s.duty := rfl
@[simp] theorem setGroup_epoch (s : State) (n : Nat) (v : Group) : (s.setGroup n v).epoch = s.epoch := rfl
@[simp] theorem setGroup_hot (s : State) (n : Nat) (v : Group) : (s.setGroup n v).hot = s.hot := rfl
@[simp] theorem setGroup_clk (s : State) (n : Nat) (v : Group) : (s.setGroup n v).clk = s.clk := rfl
@[simp] theorem setGroup_free (s : State) (n : Nat) (v : Group) : (s.setGroup n v).free = s.free := rfl
@[simp] theorem setGroup_agenda (s : State) (n : Nat) (v : Group) : (s.setGroup n v).agenda = s.agenda := rfl
@[simp] theorem setDie_dies (s : State) (n : Nat) (v : Die) : (s.setDie n v).dies = ins s.dies n v := rfl
@[simp] theorem setDie_cur (s : State) (n : Nat) (v : Die) : (s.setDie n v).cur = s.cur := rfl
@[simp] theorem setDie_q (s : State) (n : Nat) (v : Die) : (s.setDie n v).q = s.q := rfl
@[simp] theorem setDie_seqs (s : State) (n : Nat) (v : Die) : (s.setDie n v).seqs = s.seqs := rfl
@[simp] theorem setDie_tiles (s : State) (n : Nat) (v : Die) : (s.setDie n v).tiles = s.tiles := rfl
@[simp] theorem setDie_groups (s : State) (n : Nat) (v : Die) : (s.setDie n v).groups = s.groups := rfl
@[simp] theorem setDie_mem (s : State) (n : Nat) (v : Die) : (s.setDie n v).mem = s.mem := rfl
@[simp] theorem setDie_bad (s : State) (n : Nat) (v : Die) : (s.setDie n v).bad = s.bad := rfl
@[simp] theorem setDie_staged (s : State) (n : Nat) (v : Die) : (s.setDie n v).staged = s.staged := rfl
@[simp] theorem setDie_early (s : State) (n : Nat) (v : Die) : (s.setDie n v).early = s.early := rfl
@[simp] theorem setDie_launches (s : State) (n : Nat) (v : Die) : (s.setDie n v).launches = s.launches := rfl
@[simp] theorem setDie_accepted (s : State) (n : Nat) (v : Die) : (s.setDie n v).accepted = s.accepted := rfl
@[simp] theorem setDie_plHalt (s : State) (n : Nat) (v : Die) : (s.setDie n v).plHalt = s.plHalt := rfl
@[simp] theorem setDie_bars (s : State) (n : Nat) (v : Die) : (s.setDie n v).bars = s.bars := rfl
@[simp] theorem setDie_msgs (s : State) (n : Nat) (v : Die) : (s.setDie n v).msgs = s.msgs := rfl
@[simp] theorem setDie_queued (s : State) (n : Nat) (v : Die) : (s.setDie n v).queued = s.queued := rfl
@[simp] theorem setDie_nextMsg (s : State) (n : Nat) (v : Die) : (s.setDie n v).nextMsg = s.nextMsg := rfl
@[simp] theorem setDie_nextParty (s : State) (n : Nat) (v : Die) : (s.setDie n v).nextParty = s.nextParty := rfl
@[simp] theorem setDie_nextOrder (s : State) (n : Nat) (v : Die) : (s.setDie n v).nextOrder = s.nextOrder := rfl
@[simp] theorem setDie_queues (s : State) (n : Nat) (v : Die) : (s.setDie n v).queues = s.queues := rfl
@[simp] theorem setDie_turn (s : State) (n : Nat) (v : Die) : (s.setDie n v).turn = s.turn := rfl
@[simp] theorem setDie_spaces (s : State) (n : Nat) (v : Die) : (s.setDie n v).spaces = s.spaces := rfl
@[simp] theorem setDie_jobs (s : State) (n : Nat) (v : Die) : (s.setDie n v).jobs = s.jobs := rfl
@[simp] theorem setDie_jobSpaces (s : State) (n : Nat) (v : Die) : (s.setDie n v).jobSpaces = s.jobSpaces := rfl
@[simp] theorem setDie_adminRead (s : State) (n : Nat) (v : Die) : (s.setDie n v).adminRead = s.adminRead := rfl
@[simp] theorem setDie_adminOut (s : State) (n : Nat) (v : Die) : (s.setDie n v).adminOut = s.adminOut := rfl
@[simp] theorem setDie_hostOut (s : State) (n : Nat) (v : Die) : (s.setDie n v).hostOut = s.hostOut := rfl
@[simp] theorem setDie_dev (s : State) (n : Nat) (v : Die) : (s.setDie n v).dev = s.dev := rfl
@[simp] theorem setDie_form (s : State) (n : Nat) (v : Die) : (s.setDie n v).form = s.form := rfl
@[simp] theorem setDie_dgrp (s : State) (n : Nat) (v : Die) : (s.setDie n v).dgrp = s.dgrp := rfl
@[simp] theorem setDie_pkg (s : State) (n : Nat) (v : Die) : (s.setDie n v).pkg = s.pkg := rfl
@[simp] theorem setDie_bootStep (s : State) (n : Nat) (v : Die) : (s.setDie n v).bootStep = s.bootStep := rfl
@[simp] theorem setDie_powered (s : State) (n : Nat) (v : Die) : (s.setDie n v).powered = s.powered := rfl
@[simp] theorem setDie_out (s : State) (n : Nat) (v : Die) : (s.setDie n v).out = s.out := rfl
@[simp] theorem setDie_sentPkts (s : State) (n : Nat) (v : Die) : (s.setDie n v).sentPkts = s.sentPkts := rfl
@[simp] theorem setDie_oseq (s : State) (n : Nat) (v : Die) : (s.setDie n v).oseq = s.oseq := rfl
@[simp] theorem setDie_laneSeq (s : State) (n : Nat) (v : Die) : (s.setDie n v).laneSeq = s.laneSeq := rfl
@[simp] theorem setDie_laneCnt (s : State) (n : Nat) (v : Die) : (s.setDie n v).laneCnt = s.laneCnt := rfl
@[simp] theorem setDie_srcs (s : State) (n : Nat) (v : Die) : (s.setDie n v).srcs = s.srcs := rfl
@[simp] theorem setDie_windows (s : State) (n : Nat) (v : Die) : (s.setDie n v).windows = s.windows := rfl
@[simp] theorem setDie_links (s : State) (n : Nat) (v : Die) : (s.setDie n v).links = s.links := rfl
@[simp] theorem setDie_fabricMap (s : State) (n : Nat) (v : Die) : (s.setDie n v).fabricMap = s.fabricMap := rfl
@[simp] theorem setDie_paths (s : State) (n : Nat) (v : Die) : (s.setDie n v).paths = s.paths := rfl
@[simp] theorem setDie_enclaves (s : State) (n : Nat) (v : Die) : (s.setDie n v).enclaves = s.enclaves := rfl
@[simp] theorem setDie_meas (s : State) (n : Nat) (v : Die) : (s.setDie n v).meas = s.meas := rfl
@[simp] theorem setDie_sessions (s : State) (n : Nat) (v : Die) : (s.setDie n v).sessions = s.sessions := rfl
@[simp] theorem setDie_handshakes (s : State) (n : Nat) (v : Die) : (s.setDie n v).handshakes = s.handshakes := rfl
@[simp] theorem setDie_sessionKeys (s : State) (n : Nat) (v : Die) : (s.setDie n v).sessionKeys = s.sessionKeys := rfl
@[simp] theorem setDie_asked (s : State) (n : Nat) (v : Die) : (s.setDie n v).asked = s.asked := rfl
@[simp] theorem setDie_algorithms (s : State) (n : Nat) (v : Die) : (s.setDie n v).algorithms = s.algorithms := rfl
@[simp] theorem setDie_spdmOut (s : State) (n : Nat) (v : Die) : (s.setDie n v).spdmOut = s.spdmOut := rfl
@[simp] theorem setDie_ide (s : State) (n : Nat) (v : Die) : (s.setDie n v).ide = s.ide := rfl
@[simp] theorem setDie_tdi (s : State) (n : Nat) (v : Die) : (s.setDie n v).tdi = s.tdi := rfl
@[simp] theorem setDie_tracks (s : State) (n : Nat) (v : Die) : (s.setDie n v).tracks = s.tracks := rfl
@[simp] theorem setDie_scopeLog (s : State) (n : Nat) (v : Die) : (s.setDie n v).scopeLog = s.scopeLog := rfl
@[simp] theorem setDie_rewritten (s : State) (n : Nat) (v : Die) : (s.setDie n v).rewritten = s.rewritten := rfl
@[simp] theorem setDie_duty (s : State) (n : Nat) (v : Die) : (s.setDie n v).duty = s.duty := rfl
@[simp] theorem setDie_epoch (s : State) (n : Nat) (v : Die) : (s.setDie n v).epoch = s.epoch := rfl
@[simp] theorem setDie_hot (s : State) (n : Nat) (v : Die) : (s.setDie n v).hot = s.hot := rfl
@[simp] theorem setDie_clk (s : State) (n : Nat) (v : Die) : (s.setDie n v).clk = s.clk := rfl
@[simp] theorem setDie_free (s : State) (n : Nat) (v : Die) : (s.setDie n v).free = s.free := rfl
@[simp] theorem setDie_agenda (s : State) (n : Nat) (v : Die) : (s.setDie n v).agenda = s.agenda := rfl
@[simp] theorem setLaunch_launches (s : State) (n : Nat) (v : Launch) : (s.setLaunch n v).launches = ins s.launches n v := rfl
@[simp] theorem setLaunch_cur (s : State) (n : Nat) (v : Launch) : (s.setLaunch n v).cur = s.cur := rfl
@[simp] theorem setLaunch_q (s : State) (n : Nat) (v : Launch) : (s.setLaunch n v).q = s.q := rfl
@[simp] theorem setLaunch_seqs (s : State) (n : Nat) (v : Launch) : (s.setLaunch n v).seqs = s.seqs := rfl
@[simp] theorem setLaunch_tiles (s : State) (n : Nat) (v : Launch) : (s.setLaunch n v).tiles = s.tiles := rfl
@[simp] theorem setLaunch_groups (s : State) (n : Nat) (v : Launch) : (s.setLaunch n v).groups = s.groups := rfl
@[simp] theorem setLaunch_dies (s : State) (n : Nat) (v : Launch) : (s.setLaunch n v).dies = s.dies := rfl
@[simp] theorem setLaunch_mem (s : State) (n : Nat) (v : Launch) : (s.setLaunch n v).mem = s.mem := rfl
@[simp] theorem setLaunch_bad (s : State) (n : Nat) (v : Launch) : (s.setLaunch n v).bad = s.bad := rfl
@[simp] theorem setLaunch_staged (s : State) (n : Nat) (v : Launch) : (s.setLaunch n v).staged = s.staged := rfl
@[simp] theorem setLaunch_early (s : State) (n : Nat) (v : Launch) : (s.setLaunch n v).early = s.early := rfl
@[simp] theorem setLaunch_accepted (s : State) (n : Nat) (v : Launch) : (s.setLaunch n v).accepted = s.accepted := rfl
@[simp] theorem setLaunch_plHalt (s : State) (n : Nat) (v : Launch) : (s.setLaunch n v).plHalt = s.plHalt := rfl
@[simp] theorem setLaunch_bars (s : State) (n : Nat) (v : Launch) : (s.setLaunch n v).bars = s.bars := rfl
@[simp] theorem setLaunch_msgs (s : State) (n : Nat) (v : Launch) : (s.setLaunch n v).msgs = s.msgs := rfl
@[simp] theorem setLaunch_queued (s : State) (n : Nat) (v : Launch) : (s.setLaunch n v).queued = s.queued := rfl
@[simp] theorem setLaunch_nextMsg (s : State) (n : Nat) (v : Launch) : (s.setLaunch n v).nextMsg = s.nextMsg := rfl
@[simp] theorem setLaunch_nextParty (s : State) (n : Nat) (v : Launch) : (s.setLaunch n v).nextParty = s.nextParty := rfl
@[simp] theorem setLaunch_nextOrder (s : State) (n : Nat) (v : Launch) : (s.setLaunch n v).nextOrder = s.nextOrder := rfl
@[simp] theorem setLaunch_queues (s : State) (n : Nat) (v : Launch) : (s.setLaunch n v).queues = s.queues := rfl
@[simp] theorem setLaunch_turn (s : State) (n : Nat) (v : Launch) : (s.setLaunch n v).turn = s.turn := rfl
@[simp] theorem setLaunch_spaces (s : State) (n : Nat) (v : Launch) : (s.setLaunch n v).spaces = s.spaces := rfl
@[simp] theorem setLaunch_jobs (s : State) (n : Nat) (v : Launch) : (s.setLaunch n v).jobs = s.jobs := rfl
@[simp] theorem setLaunch_jobSpaces (s : State) (n : Nat) (v : Launch) : (s.setLaunch n v).jobSpaces = s.jobSpaces := rfl
@[simp] theorem setLaunch_adminRead (s : State) (n : Nat) (v : Launch) : (s.setLaunch n v).adminRead = s.adminRead := rfl
@[simp] theorem setLaunch_adminOut (s : State) (n : Nat) (v : Launch) : (s.setLaunch n v).adminOut = s.adminOut := rfl
@[simp] theorem setLaunch_hostOut (s : State) (n : Nat) (v : Launch) : (s.setLaunch n v).hostOut = s.hostOut := rfl
@[simp] theorem setLaunch_dev (s : State) (n : Nat) (v : Launch) : (s.setLaunch n v).dev = s.dev := rfl
@[simp] theorem setLaunch_form (s : State) (n : Nat) (v : Launch) : (s.setLaunch n v).form = s.form := rfl
@[simp] theorem setLaunch_dgrp (s : State) (n : Nat) (v : Launch) : (s.setLaunch n v).dgrp = s.dgrp := rfl
@[simp] theorem setLaunch_pkg (s : State) (n : Nat) (v : Launch) : (s.setLaunch n v).pkg = s.pkg := rfl
@[simp] theorem setLaunch_bootStep (s : State) (n : Nat) (v : Launch) : (s.setLaunch n v).bootStep = s.bootStep := rfl
@[simp] theorem setLaunch_powered (s : State) (n : Nat) (v : Launch) : (s.setLaunch n v).powered = s.powered := rfl
@[simp] theorem setLaunch_out (s : State) (n : Nat) (v : Launch) : (s.setLaunch n v).out = s.out := rfl
@[simp] theorem setLaunch_sentPkts (s : State) (n : Nat) (v : Launch) : (s.setLaunch n v).sentPkts = s.sentPkts := rfl
@[simp] theorem setLaunch_oseq (s : State) (n : Nat) (v : Launch) : (s.setLaunch n v).oseq = s.oseq := rfl
@[simp] theorem setLaunch_laneSeq (s : State) (n : Nat) (v : Launch) : (s.setLaunch n v).laneSeq = s.laneSeq := rfl
@[simp] theorem setLaunch_laneCnt (s : State) (n : Nat) (v : Launch) : (s.setLaunch n v).laneCnt = s.laneCnt := rfl
@[simp] theorem setLaunch_srcs (s : State) (n : Nat) (v : Launch) : (s.setLaunch n v).srcs = s.srcs := rfl
@[simp] theorem setLaunch_windows (s : State) (n : Nat) (v : Launch) : (s.setLaunch n v).windows = s.windows := rfl
@[simp] theorem setLaunch_links (s : State) (n : Nat) (v : Launch) : (s.setLaunch n v).links = s.links := rfl
@[simp] theorem setLaunch_fabricMap (s : State) (n : Nat) (v : Launch) : (s.setLaunch n v).fabricMap = s.fabricMap := rfl
@[simp] theorem setLaunch_paths (s : State) (n : Nat) (v : Launch) : (s.setLaunch n v).paths = s.paths := rfl
@[simp] theorem setLaunch_enclaves (s : State) (n : Nat) (v : Launch) : (s.setLaunch n v).enclaves = s.enclaves := rfl
@[simp] theorem setLaunch_meas (s : State) (n : Nat) (v : Launch) : (s.setLaunch n v).meas = s.meas := rfl
@[simp] theorem setLaunch_sessions (s : State) (n : Nat) (v : Launch) : (s.setLaunch n v).sessions = s.sessions := rfl
@[simp] theorem setLaunch_handshakes (s : State) (n : Nat) (v : Launch) : (s.setLaunch n v).handshakes = s.handshakes := rfl
@[simp] theorem setLaunch_sessionKeys (s : State) (n : Nat) (v : Launch) : (s.setLaunch n v).sessionKeys = s.sessionKeys := rfl
@[simp] theorem setLaunch_asked (s : State) (n : Nat) (v : Launch) : (s.setLaunch n v).asked = s.asked := rfl
@[simp] theorem setLaunch_algorithms (s : State) (n : Nat) (v : Launch) : (s.setLaunch n v).algorithms = s.algorithms := rfl
@[simp] theorem setLaunch_spdmOut (s : State) (n : Nat) (v : Launch) : (s.setLaunch n v).spdmOut = s.spdmOut := rfl
@[simp] theorem setLaunch_ide (s : State) (n : Nat) (v : Launch) : (s.setLaunch n v).ide = s.ide := rfl
@[simp] theorem setLaunch_tdi (s : State) (n : Nat) (v : Launch) : (s.setLaunch n v).tdi = s.tdi := rfl
@[simp] theorem setLaunch_tracks (s : State) (n : Nat) (v : Launch) : (s.setLaunch n v).tracks = s.tracks := rfl
@[simp] theorem setLaunch_scopeLog (s : State) (n : Nat) (v : Launch) : (s.setLaunch n v).scopeLog = s.scopeLog := rfl
@[simp] theorem setLaunch_rewritten (s : State) (n : Nat) (v : Launch) : (s.setLaunch n v).rewritten = s.rewritten := rfl
@[simp] theorem setLaunch_duty (s : State) (n : Nat) (v : Launch) : (s.setLaunch n v).duty = s.duty := rfl
@[simp] theorem setLaunch_epoch (s : State) (n : Nat) (v : Launch) : (s.setLaunch n v).epoch = s.epoch := rfl
@[simp] theorem setLaunch_hot (s : State) (n : Nat) (v : Launch) : (s.setLaunch n v).hot = s.hot := rfl
@[simp] theorem setLaunch_clk (s : State) (n : Nat) (v : Launch) : (s.setLaunch n v).clk = s.clk := rfl
@[simp] theorem setLaunch_free (s : State) (n : Nat) (v : Launch) : (s.setLaunch n v).free = s.free := rfl
@[simp] theorem setLaunch_agenda (s : State) (n : Nat) (v : Launch) : (s.setLaunch n v).agenda = s.agenda := rfl

/-! ## A change of a barrier unit -/

@[simp] theorem setBar_cur (s : State) (l : Nat) (lv : Level) (u : Nat) (b : Bar) : (s.setBar l lv u b).cur = s.cur := rfl
@[simp] theorem setBar_q (s : State) (l : Nat) (lv : Level) (u : Nat) (b : Bar) : (s.setBar l lv u b).q = s.q := rfl
@[simp] theorem setBar_seqs (s : State) (l : Nat) (lv : Level) (u : Nat) (b : Bar) : (s.setBar l lv u b).seqs = s.seqs := rfl
@[simp] theorem setBar_tiles (s : State) (l : Nat) (lv : Level) (u : Nat) (b : Bar) : (s.setBar l lv u b).tiles = s.tiles := rfl
@[simp] theorem setBar_groups (s : State) (l : Nat) (lv : Level) (u : Nat) (b : Bar) : (s.setBar l lv u b).groups = s.groups := rfl
@[simp] theorem setBar_dies (s : State) (l : Nat) (lv : Level) (u : Nat) (b : Bar) : (s.setBar l lv u b).dies = s.dies := rfl
@[simp] theorem setBar_mem (s : State) (l : Nat) (lv : Level) (u : Nat) (b : Bar) : (s.setBar l lv u b).mem = s.mem := rfl
@[simp] theorem setBar_bad (s : State) (l : Nat) (lv : Level) (u : Nat) (b : Bar) : (s.setBar l lv u b).bad = s.bad := rfl
@[simp] theorem setBar_staged (s : State) (l : Nat) (lv : Level) (u : Nat) (b : Bar) : (s.setBar l lv u b).staged = s.staged := rfl
@[simp] theorem setBar_early (s : State) (l : Nat) (lv : Level) (u : Nat) (b : Bar) : (s.setBar l lv u b).early = s.early := rfl
@[simp] theorem setBar_launches (s : State) (l : Nat) (lv : Level) (u : Nat) (b : Bar) : (s.setBar l lv u b).launches = s.launches := rfl
@[simp] theorem setBar_accepted (s : State) (l : Nat) (lv : Level) (u : Nat) (b : Bar) : (s.setBar l lv u b).accepted = s.accepted := rfl
@[simp] theorem setBar_plHalt (s : State) (l : Nat) (lv : Level) (u : Nat) (b : Bar) : (s.setBar l lv u b).plHalt = s.plHalt := rfl
@[simp] theorem setBar_msgs (s : State) (l : Nat) (lv : Level) (u : Nat) (b : Bar) : (s.setBar l lv u b).msgs = s.msgs := rfl
@[simp] theorem setBar_queued (s : State) (l : Nat) (lv : Level) (u : Nat) (b : Bar) : (s.setBar l lv u b).queued = s.queued := rfl
@[simp] theorem setBar_nextMsg (s : State) (l : Nat) (lv : Level) (u : Nat) (b : Bar) : (s.setBar l lv u b).nextMsg = s.nextMsg := rfl
@[simp] theorem setBar_nextParty (s : State) (l : Nat) (lv : Level) (u : Nat) (b : Bar) : (s.setBar l lv u b).nextParty = s.nextParty := rfl
@[simp] theorem setBar_nextOrder (s : State) (l : Nat) (lv : Level) (u : Nat) (b : Bar) : (s.setBar l lv u b).nextOrder = s.nextOrder := rfl
@[simp] theorem setBar_queues (s : State) (l : Nat) (lv : Level) (u : Nat) (b : Bar) : (s.setBar l lv u b).queues = s.queues := rfl
@[simp] theorem setBar_turn (s : State) (l : Nat) (lv : Level) (u : Nat) (b : Bar) : (s.setBar l lv u b).turn = s.turn := rfl
@[simp] theorem setBar_spaces (s : State) (l : Nat) (lv : Level) (u : Nat) (b : Bar) : (s.setBar l lv u b).spaces = s.spaces := rfl
@[simp] theorem setBar_jobs (s : State) (l : Nat) (lv : Level) (u : Nat) (b : Bar) : (s.setBar l lv u b).jobs = s.jobs := rfl
@[simp] theorem setBar_jobSpaces (s : State) (l : Nat) (lv : Level) (u : Nat) (b : Bar) : (s.setBar l lv u b).jobSpaces = s.jobSpaces := rfl
@[simp] theorem setBar_adminRead (s : State) (l : Nat) (lv : Level) (u : Nat) (b : Bar) : (s.setBar l lv u b).adminRead = s.adminRead := rfl
@[simp] theorem setBar_adminOut (s : State) (l : Nat) (lv : Level) (u : Nat) (b : Bar) : (s.setBar l lv u b).adminOut = s.adminOut := rfl
@[simp] theorem setBar_hostOut (s : State) (l : Nat) (lv : Level) (u : Nat) (b : Bar) : (s.setBar l lv u b).hostOut = s.hostOut := rfl
@[simp] theorem setBar_dev (s : State) (l : Nat) (lv : Level) (u : Nat) (b : Bar) : (s.setBar l lv u b).dev = s.dev := rfl
@[simp] theorem setBar_form (s : State) (l : Nat) (lv : Level) (u : Nat) (b : Bar) : (s.setBar l lv u b).form = s.form := rfl
@[simp] theorem setBar_dgrp (s : State) (l : Nat) (lv : Level) (u : Nat) (b : Bar) : (s.setBar l lv u b).dgrp = s.dgrp := rfl
@[simp] theorem setBar_pkg (s : State) (l : Nat) (lv : Level) (u : Nat) (b : Bar) : (s.setBar l lv u b).pkg = s.pkg := rfl
@[simp] theorem setBar_bootStep (s : State) (l : Nat) (lv : Level) (u : Nat) (b : Bar) : (s.setBar l lv u b).bootStep = s.bootStep := rfl
@[simp] theorem setBar_powered (s : State) (l : Nat) (lv : Level) (u : Nat) (b : Bar) : (s.setBar l lv u b).powered = s.powered := rfl
@[simp] theorem setBar_out (s : State) (l : Nat) (lv : Level) (u : Nat) (b : Bar) : (s.setBar l lv u b).out = s.out := rfl
@[simp] theorem setBar_sentPkts (s : State) (l : Nat) (lv : Level) (u : Nat) (b : Bar) : (s.setBar l lv u b).sentPkts = s.sentPkts := rfl
@[simp] theorem setBar_oseq (s : State) (l : Nat) (lv : Level) (u : Nat) (b : Bar) : (s.setBar l lv u b).oseq = s.oseq := rfl
@[simp] theorem setBar_laneSeq (s : State) (l : Nat) (lv : Level) (u : Nat) (b : Bar) : (s.setBar l lv u b).laneSeq = s.laneSeq := rfl
@[simp] theorem setBar_laneCnt (s : State) (l : Nat) (lv : Level) (u : Nat) (b : Bar) : (s.setBar l lv u b).laneCnt = s.laneCnt := rfl
@[simp] theorem setBar_srcs (s : State) (l : Nat) (lv : Level) (u : Nat) (b : Bar) : (s.setBar l lv u b).srcs = s.srcs := rfl
@[simp] theorem setBar_windows (s : State) (l : Nat) (lv : Level) (u : Nat) (b : Bar) : (s.setBar l lv u b).windows = s.windows := rfl
@[simp] theorem setBar_links (s : State) (l : Nat) (lv : Level) (u : Nat) (b : Bar) : (s.setBar l lv u b).links = s.links := rfl
@[simp] theorem setBar_fabricMap (s : State) (l : Nat) (lv : Level) (u : Nat) (b : Bar) : (s.setBar l lv u b).fabricMap = s.fabricMap := rfl
@[simp] theorem setBar_paths (s : State) (l : Nat) (lv : Level) (u : Nat) (b : Bar) : (s.setBar l lv u b).paths = s.paths := rfl
@[simp] theorem setBar_enclaves (s : State) (l : Nat) (lv : Level) (u : Nat) (b : Bar) : (s.setBar l lv u b).enclaves = s.enclaves := rfl
@[simp] theorem setBar_meas (s : State) (l : Nat) (lv : Level) (u : Nat) (b : Bar) : (s.setBar l lv u b).meas = s.meas := rfl
@[simp] theorem setBar_sessions (s : State) (l : Nat) (lv : Level) (u : Nat) (b : Bar) : (s.setBar l lv u b).sessions = s.sessions := rfl
@[simp] theorem setBar_handshakes (s : State) (l : Nat) (lv : Level) (u : Nat) (b : Bar) : (s.setBar l lv u b).handshakes = s.handshakes := rfl
@[simp] theorem setBar_sessionKeys (s : State) (l : Nat) (lv : Level) (u : Nat) (b : Bar) : (s.setBar l lv u b).sessionKeys = s.sessionKeys := rfl
@[simp] theorem setBar_asked (s : State) (l : Nat) (lv : Level) (u : Nat) (b : Bar) : (s.setBar l lv u b).asked = s.asked := rfl
@[simp] theorem setBar_algorithms (s : State) (l : Nat) (lv : Level) (u : Nat) (b : Bar) : (s.setBar l lv u b).algorithms = s.algorithms := rfl
@[simp] theorem setBar_spdmOut (s : State) (l : Nat) (lv : Level) (u : Nat) (b : Bar) : (s.setBar l lv u b).spdmOut = s.spdmOut := rfl
@[simp] theorem setBar_ide (s : State) (l : Nat) (lv : Level) (u : Nat) (b : Bar) : (s.setBar l lv u b).ide = s.ide := rfl
@[simp] theorem setBar_tdi (s : State) (l : Nat) (lv : Level) (u : Nat) (b : Bar) : (s.setBar l lv u b).tdi = s.tdi := rfl
@[simp] theorem setBar_tracks (s : State) (l : Nat) (lv : Level) (u : Nat) (b : Bar) : (s.setBar l lv u b).tracks = s.tracks := rfl
@[simp] theorem setBar_scopeLog (s : State) (l : Nat) (lv : Level) (u : Nat) (b : Bar) : (s.setBar l lv u b).scopeLog = s.scopeLog := rfl
@[simp] theorem setBar_rewritten (s : State) (l : Nat) (lv : Level) (u : Nat) (b : Bar) : (s.setBar l lv u b).rewritten = s.rewritten := rfl
@[simp] theorem setBar_duty (s : State) (l : Nat) (lv : Level) (u : Nat) (b : Bar) : (s.setBar l lv u b).duty = s.duty := rfl
@[simp] theorem setBar_epoch (s : State) (l : Nat) (lv : Level) (u : Nat) (b : Bar) : (s.setBar l lv u b).epoch = s.epoch := rfl
@[simp] theorem setBar_hot (s : State) (l : Nat) (lv : Level) (u : Nat) (b : Bar) : (s.setBar l lv u b).hot = s.hot := rfl
@[simp] theorem setBar_clk (s : State) (l : Nat) (lv : Level) (u : Nat) (b : Bar) : (s.setBar l lv u b).clk = s.clk := rfl
@[simp] theorem setBar_free (s : State) (l : Nat) (lv : Level) (u : Nat) (b : Bar) : (s.setBar l lv u b).free = s.free := rfl
@[simp] theorem setBar_agenda (s : State) (l : Nat) (lv : Level) (u : Nat) (b : Bar) : (s.setBar l lv u b).agenda = s.agenda := rfl

end Sys2Proof.Machine.State
end

