-- ==== Sys2Proof/Laws/Store.lean ====
section
/-! SUPPORT. Stores, tables and memory: reading after writing, and the canonical form that every write keeps. -/

namespace Sys2Proof.Machine

/-! ## Stores -/

/-- A key below every listed key reads zero. -/
theorem look_eq_zero_of_wfFrom {w : Nat} {m : Store w} {lo k : Nat} (h : wfFrom lo m = true) (hk : k < lo) : look m k = 0#w := by
  induction m generalizing lo with
  | nil => rfl
  | cons p r ih =>
    obtain ⟨k', v⟩ := p
    simp only [wfFrom, Bool.and_eq_true, decide_eq_true_eq] at h
    rw [look, if_neg (by omega)]
    exact ih h.2 (by omega)

/-- A lower bound may be lowered. -/
theorem wfFrom_mono {w : Nat} {m : Store w} {lo lo' : Nat} (h : wfFrom lo m = true) (hl : lo' ≤ lo) : wfFrom lo' m = true := by
  cases m with
  | nil => rfl
  | cons p r =>
    simp only [wfFrom, Bool.and_eq_true, decide_eq_true_eq] at h ⊢
    exact ⟨⟨by omega, h.1.2⟩, h.2⟩

theorem look_without_self {w : Nat} (m : Store w) (k : Nat) : look (without m k) k = 0#w := by
  induction m with
  | nil => rfl
  | cons p r ih =>
    by_cases h : k = p.1
    · simpa [without, h] using (h ▸ ih)
    · simp [without, look, h, ih]

theorem look_without_of_ne {w : Nat} (m : Store w) {k k' : Nat} (hk : k' ≠ k) : look (without m k) k' = look m k' := by
  induction m with
  | nil => rfl
  | cons p r ih =>
    by_cases h : k = p.1
    · have : k' ≠ p.1 := fun e => hk (e.trans h.symm)
      simp [without, look, ← h, hk, ih]
    · simp [without, look, h, ih]

theorem look_place_self {w : Nat} (m : Store w) (k : Nat) (v : BitVec w) : look (place m k v) k = v := by
  induction m with
  | nil => simp [place, look]
  | cons p r ih =>
    rcases Nat.lt_trichotomy k p.1 with h | h | h
    · simp [place, look, h]
    · simp [place, look, ← h]
    · simp [place, look, show ¬ k < p.1 by omega, show k ≠ p.1 by omega, ih]

theorem look_place_of_ne {w : Nat} (m : Store w) {k k' : Nat} (v : BitVec w) (hk : k' ≠ k) : look (place m k v) k' = look m k' := by
  induction m with
  | nil => simp [place, look, hk]
  | cons p r ih =>
    rcases Nat.lt_trichotomy k p.1 with h | h | h
    · simp [place, look, h, hk]
    · simp [place, look, ← h, hk]
    · simp [place, look, show ¬ k < p.1 by omega, show k ≠ p.1 by omega, ih]

/-- Reading what was written. -/
@[simp] theorem look_put_self {w : Nat} (m : Store w) (k : Nat) (v : BitVec w) : look (put m k v) k = v := by
  unfold put
  split
  · rename_i h; rw [h, look_without_self]
  · exact look_place_self m k v

/-- Writing one key leaves every other alone. -/
theorem look_put_of_ne {w : Nat} (m : Store w) {k k' : Nat} (v : BitVec w) (hk : k' ≠ k) : look (put m k v) k' = look m k' := by
  unfold put
  split
  · exact look_without_of_ne m hk
  · exact look_place_of_ne m v hk

/-- A read after a write, by whether the keys are the same. -/
theorem look_put {w : Nat} (m : Store w) (k k' : Nat) (v : BitVec w) : look (put m k v) k' = if k' = k then v else look m k' := by
  by_cases h : k' = k
  · simp [h]
  · rw [look_put_of_ne m v h, if_neg h]

theorem wfFrom_without {w : Nat} {m : Store w} {lo : Nat} (k : Nat) (h : wfFrom lo m = true) : wfFrom lo (without m k) = true := by
  induction m generalizing lo with
  | nil => rfl
  | cons p r ih =>
    simp only [wfFrom, Bool.and_eq_true, decide_eq_true_eq] at h
    by_cases hk : k = p.1
    · simpa [without, hk] using wfFrom_mono (hk ▸ ih h.2) (by omega)
    · simp [without, hk, wfFrom, h.1, ih h.2]

theorem wfFrom_place {w : Nat} {m : Store w} {lo k : Nat} {v : BitVec w} (hv : v ≠ 0#w) (h : wfFrom lo m = true) (hk : lo ≤ k) :
    wfFrom lo (place m k v) = true := by
  induction m generalizing lo with
  | nil => simp [place, wfFrom, hv, hk]
  | cons p r ih =>
    simp only [wfFrom, Bool.and_eq_true, decide_eq_true_eq] at h
    rcases Nat.lt_trichotomy k p.1 with hj | hj | hj
    · simp [place, hj, wfFrom, hk, hv, h.1.2, h.2, show k + 1 ≤ p.1 by omega]
    · simp [place, ← hj, wfFrom, hk, hv, hj ▸ h.2]
    · simp [place, show ¬ k < p.1 by omega, show k ≠ p.1 by omega, wfFrom, h.1, ih h.2 (by omega)]

/-- Writing keeps the canonical form. -/
theorem Store.wf_put {w : Nat} {m : Store w} (h : m.wf = true) (k : Nat) (v : BitVec w) : (put m k v).wf = true := by
  unfold put
  split
  · exact wfFrom_without k h
  · rename_i hv; exact wfFrom_place hv h (Nat.zero_le _)

/-- Dropping entries keeps the canonical form. -/
theorem wfFrom_filter {w : Nat} {m : Store w} {lo : Nat} (p : Nat × BitVec w → Bool) (h : wfFrom lo m = true) :
    wfFrom lo (m.filter p) = true := by
  induction m generalizing lo with
  | nil => rfl
  | cons q r ih =>
    simp only [wfFrom, Bool.and_eq_true, decide_eq_true_eq] at h
    by_cases hp : p q = true
    · rw [List.filter_cons_of_pos hp]
      simp only [wfFrom, Bool.and_eq_true, decide_eq_true_eq]
      exact ⟨h.1, ih h.2⟩
    · rw [List.filter_cons_of_neg hp]
      exact wfFrom_mono (ih h.2) (by omega)

/-! ## Tables -/

@[simp] theorem find?_ins_self {α : Type} (t : Tab α) (k : Nat) (v : α) : find? (ins t k v) k = some v := by
  induction t with
  | nil => simp [ins, find?]
  | cons p r ih =>
    obtain ⟨j, u⟩ := p
    rcases Nat.lt_trichotomy k j with h | h | h
    · simp [ins, find?, h]
    · subst h; simp [ins, find?]
    · have h1 : ¬ k < j := by omega
      have h2 : k ≠ j := by omega
      simp [ins, find?, h1, h2, ih]

theorem find?_ins_of_ne {α : Type} (t : Tab α) {k k' : Nat} (v : α) (hk : k' ≠ k) : find? (ins t k v) k' = find? t k' := by
  induction t with
  | nil => simp [ins, find?, hk]
  | cons p r ih =>
    obtain ⟨j, u⟩ := p
    rcases Nat.lt_trichotomy k j with h | h | h
    · simp [ins, find?, h, hk]
    · subst h; simp [ins, find?, hk]
    · have h1 : ¬ k < j := by omega
      have h2 : k ≠ j := by omega
      by_cases hj : k' = j
      · simp [ins, find?, h1, h2, hj]
      · simp [ins, find?, h1, h2, hj, ih]

/-! ## Memory -/

@[simp] theorem readBytes_length (m : Memory) (k n : Nat) : (readBytes m k n).length = n := by
  induction n generalizing k with
  | zero => rfl
  | succ n ih => simp [readBytes, ih]

/-- Memory stays canonical under a write of bytes. -/
theorem writeBytes_wf {m : Memory} (h : Memory.wf m = true) (k : Nat) (bs : List Byte) : Memory.wf (writeBytes m k bs) = true := by
  induction bs generalizing m k with
  | nil => exact h
  | cons b bs ih => exact ih (Store.wf_put (w := 8) h k b) (k + 1)

/-- Memory stays canonical when a range is zeroed. -/
theorem zeroRange_wf {m : Memory} (h : Memory.wf m = true) (k n : Nat) : Memory.wf (zeroRange m k n) = true := wfFrom_filter _ h

/-- A write of bytes leaves every byte outside it alone. -/
theorem look_writeBytes_outside (m : Memory) (k : Nat) (bs : List Byte) (a : Nat) (ha : a < k ∨ k + bs.length ≤ a) :
    look (writeBytes m k bs) a = look m a := by
  induction bs generalizing m k with
  | nil => rfl
  | cons b bs ih =>
    simp only [List.length_cons] at ha
    rw [writeBytes, ih _ _ (by omega), look_put_of_ne _ _ (by omega)]

/-- A read of the bytes just written gives them. -/
theorem readBytes_writeBytes (m : Memory) (k : Nat) (bs : List Byte) :
    readBytes (writeBytes m k bs) k bs.length = bs := by
  induction bs generalizing m k with
  | nil => rfl
  | cons b bs ih =>
    have hb : look (writeBytes (put m k b) (k + 1) bs) k = b := by
      rw [look_writeBytes_outside _ _ _ _ (by omega)]
      exact look_put_self (w := 8) m k b
    simp only [writeBytes, List.length_cons, readBytes, hb]
    rw [ih]

@[simp] theorem leBytes_length (n v : Nat) : (leBytes n v).length = n := by
  induction n generalizing v with
  | zero => rfl
  | succ n ih => simp [leBytes, ih]

/-- The low bytes of a number, put together again. -/
theorem leNat_leBytes (n v : Nat) : leNat (leBytes n v) = v % 256 ^ n := by
  induction n generalizing v with
  | zero => simp [leBytes, leNat, Nat.mod_one]
  | succ n ih =>
    simp only [leBytes, leNat, ih, BitVec.toNat_ofNat]
    rw [show 256 ^ (n + 1) = 256 * 256 ^ n from Nat.pow_succ', Nat.mod_mul]

/-- A number read back from where it was written. -/
theorem readNat_writeBytes (m : Memory) (k n v : Nat) :
    readNat (writeBytes m k (leBytes n v)) k n = v % 256 ^ n := by
  have := readBytes_writeBytes m k (leBytes n v)
  rw [leBytes_length] at this
  rw [readNat, this, leNat_leBytes]

end Sys2Proof.Machine
end

