-- ==== Sys2Proof/Laws/Registers.lean ====
section
/-! SUPPORT. The registers of the focused continuation after an update, and the one lemma that says all that a register instruction does. -/

namespace Sys2Proof.Machine
namespace State

@[simp] theorem x_zero (s : State) : s.x 0#5 = 0#64 := rfl
theorem x_setX_self (s : State) {d : BitVec 5} (h : d ≠ 0#5) (v : Word) : (s.setX d v).x d = v := by
  simp [x, setX, h, setK]
theorem x_setX_of_ne (s : State) {d r : BitVec 5} (h : r ≠ d) (v : Word) : (s.setX d v).x r = s.x r := by
  have : r.toNat ≠ d.toNat := fun e => h (BitVec.eq_of_toNat_eq e)
  by_cases hd : d = 0#5 <;> simp [x, setX, hd, setK, look_put_of_ne _ _ this]
@[simp] theorem csr_setX (s : State) (d : BitVec 5) (v : Word) (n : Nat) : (s.setX d v).csr n = s.csr n := by
  by_cases hd : d = 0#5 <;> simp [csr, setX, hd, setK]
@[simp] theorem pc_setX (s : State) (d : BitVec 5) (v : Word) : (s.setX d v).pc = s.pc := by
  by_cases hd : d = 0#5 <;> simp [pc, setX, hd, setK]
@[simp] theorem x_setCsr (s : State) (n : Nat) (v : Word) (r : BitVec 5) : (s.setCsr n v).x r = s.x r := rfl
theorem csr_setCsr (s : State) (n m : Nat) (v : Word) : (s.setCsr n v).csr m = if m = n then v else s.csr m := look_put _ _ _ _
@[simp] theorem csr_setCsr_self (s : State) (n : Nat) (v : Word) : (s.setCsr n v).csr n = v := look_put_self _ _ _
@[simp] theorem pc_setCsr (s : State) (n : Nat) (v : Word) : (s.setCsr n v).pc = s.pc := rfl
@[simp] theorem x_goto (s : State) (t : Word) (r : BitVec 5) : (s.goto t).x r = s.x r := rfl
@[simp] theorem pc_goto (s : State) (t : Word) : (s.goto t).pc = t := rfl
@[simp] theorem csr_goto_instret (s : State) (t : Word) : (s.goto t).csr 0x015 = s.csr 0x015 + 1 := look_put_self _ _ _
theorem csr_goto_of_ne (s : State) (t : Word) {n : Nat} (h : n ≠ 0x015) : (s.goto t).csr n = s.csr n := look_put_of_ne _ _ h
@[simp] theorem x_retire (s : State) (r : BitVec 5) : s.retire.x r = s.x r := rfl
@[simp] theorem pc_retire (s : State) : s.retire.pc = s.pc + 4 := rfl
@[simp] theorem csr_retire_instret (s : State) : s.retire.csr 0x015 = s.csr 0x015 + 1 := look_put_self _ _ _
theorem csr_retire_of_ne (s : State) {n : Nat} (h : n ≠ 0x015) : s.retire.csr n = s.csr n := look_put_of_ne _ _ h

end State
end Sys2Proof.Machine
end

