-- ==== Sys2Proof/Laws/Ops.lean ====
section
/-! SUPPORT. What the shared operations of a sequencer can do, each said once: completing, trapping, translating, checking an access,
reaching memory; and the canonical form of memory under them. -/

namespace Sys2Proof.Machine

/-! ## Completing -/

theorem writeR_eq (s : State) (d : BitVec 5) (v : Word) : writeR s d v = .next (s.setX d v).retire := rfl

/-- A register instruction answers next t exactly where t is the state with the register written, retired. -/
theorem writeR_next {s t : State} {d : BitVec 5} {v : Word} (h : writeR s d v = .next t) :
    (d ≠ 0#5 → t.x d = v) ∧ (∀ r, r ≠ d → t.x r = s.x r) ∧ t.pc = s.pc + 4 ∧ t.csr 0x015 = s.csr 0x015 + 1 ∧
    (∀ n, n ≠ 0x015 → t.csr n = s.csr n) ∧ t.mem = s.mem ∧ t.staged = s.staged := by
  rw [writeR_eq] at h
  injection h with h
  subst h
  refine ⟨fun hd => by simp [State.x_setX_self _ hd], fun r hr => by simp [State.x_setX_of_ne _ hr], by simp, by simp,
    fun n hn => by simp [State.csr_retire_of_ne _ hn], by simp, by simp⟩

/-- A checked operation ends in its trap or retires what it leaves. -/
theorem checked_cases (s : State) (r : Except Trap State) :
    (∃ t, r = .error t ∧ checked s r = .next (s.enterTrap t)) ∨ (∃ u, r = .ok u ∧ checked s r = .next u.retire) := by
  cases r with
  | error t => exact .inl ⟨t, rfl, rfl⟩
  | ok u => exact .inr ⟨u, rfl, rfl⟩

/-- A releasing operation holds its sequencer while an access of its continuation waits, else it is what it wraps. -/
theorem whenReleasable_cases (s : State) (r : Res) :
    ((s.stationHeld || s.vectorStores) = true ∧ whenReleasable s r = .next (s.holdFor .other)) ∨
    ((s.stationHeld || s.vectorStores) = false ∧ whenReleasable s r = r) := by
  unfold whenReleasable
  split
  · exact .inl ⟨‹_›, rfl⟩
  · rename_i h
    exact .inr ⟨by simpa only [Bool.not_eq_true] using h, rfl⟩

/-! ## Trapping -/

theorem State.record_eq (s : State) (kind : Nat) (v w : Word) : ∃ log, s.record kind v w = { s with scopeLog := log } := by
  unfold State.record State.recordAt
  split
  · exact ⟨s.scopeLog, rfl⟩
  · exact ⟨_, rfl⟩

/-- A trap that is not fatal, of a cause that reports no memory error: the trap registers, the status, the handler; nothing else but the
periscope. -/
theorem State.enterTrap_of_not_fatal (s : State) (t : Trap) (hc : t.code ≠ 0x14) (hf : s.fatal = false) :
    (s.enterTrap t).csr 0x000 = s.csr 0x000 ||| 9#64 ∧ (s.enterTrap t).csr 0x201 = s.csr 0x000 ∧ (s.enterTrap t).csr 0x001 = t.cause ∧
    (s.enterTrap t).csr 0x002 = s.resumeAt t ∧ (s.enterTrap t).csr 0x004 = t.addr.getD (s.csr 0x004) ∧
    (s.enterTrap t).pc = s.handler ∧ (∀ r, (s.enterTrap t).x r = s.x r) ∧ (s.enterTrap t).mem = s.mem ∧
    (s.enterTrap t).staged = s.staged ∧ (s.enterTrap t).q.hold = none ∧
    (∀ n, n ∉ [0x000, 0x001, 0x002, 0x003, 0x004, 0x201] → (s.enterTrap t).csr n = s.csr n) := by
  unfold State.enterTrap
  simp only [hc, false_and, if_false, hf, Bool.false_eq_true]
  obtain ⟨l1, h1⟩ := s.record_eq 0 t.cause (s.resumeAt t)
  rw [h1]
  simp only [State.csr, State.setCsr, State.setPc, State.setK, look_put, State.pc, State.x, List.mem_cons, List.not_mem_nil, or_false, not_or]
  refine ⟨by simp, by simp, by simp, by simp, by simp, trivial, fun _ => trivial, trivial, trivial, trivial, ?_⟩
  intro n hn
  simp [hn]

/-- A fatal trap halts the launch with the registers of the trap. -/
theorem State.enterTrap_of_fatal (s : State) (t : Trap) (hc : t.code ≠ 0x14) (hf : s.fatal = true) :
    s.enterTrap t = s.haltLaunch s.q.k.lnum [s.coordOf s.cur, t.cause, s.resumeAt t, t.addr.getD (s.csr 0x004),
      match t.inst with
      | some w => w.zeroExtend 64
      | none => s.csr 0x003] := by
  unfold State.enterTrap
  simp only [hc, false_and, if_false, hf, if_true] <;> rfl

/-! ## Translating and checking -/

/-- At most the stations and the number of the next free value differ. -/
def State.Restationed (s s' : State) : Prop := ∃ ds f, s' = { s with dies := ds, free := f }

theorem State.Restationed.mem {s s' : State} (h : s.Restationed s') : s'.mem = s.mem := by
  obtain ⟨ds, f, rfl⟩ := h
  rfl
theorem State.Restationed.q {s s' : State} (h : s.Restationed s') : s'.q = s.q := by
  obtain ⟨ds, f, rfl⟩ := h
  rfl

theorem ok_of_ite {r s' : State} {c : Bool} {l leaf : Word} {p pa : Nat}
    (h : (if c = true then (Except.error WalkErr.prot : Except WalkErr (Word × Nat × State)) else .ok (l, p, r)) = .ok (leaf, pa, s')) :
    r = s' ∧ p = pa ∧ c = false := by
  cases c with
  | true => simp at h
  | false =>
    simp only [Bool.false_eq_true, if_false, Except.ok.injEq, Prod.mk.injEq] at h
    exact ⟨h.2.2, h.2.1, rfl⟩

/-- A translation changes the stations and takes a free value, nothing else; what it gives is a physical address. -/
theorem State.translate_frame {s s' : State} {die space va : Nat} {leaf : Word} {pa : Nat} (h : s.translate die space va = .ok (leaf, pa, s')) :
    s.Restationed s' ∧ (physKind s.form pa).isNone = false := by
  unfold State.translate at h
  cases hw : s.walk space va with
  | error e =>
    cases hh : (s.dieAt die).tlb.find? (fun e => e.station == va / 2 ^ 16 % 16 && e.space == space && e.page == va / 2 ^ e.bits) with
    | none => simp only [hw, hh] at h; cases h
    | some x =>
      simp only [hw, hh, Bool.false_eq_true, if_false] at h
      by_cases hu : Config.useCached s.free = true
      · rw [if_pos hu] at h
        obtain ⟨rfl, rfl, hn⟩ := ok_of_ite h
        exact ⟨⟨_, _, rfl⟩, hn⟩
      · rw [if_neg hu] at h; cases h
  | ok w =>
    cases hh : (s.dieAt die).tlb.find? (fun e => e.station == va / 2 ^ 16 % 16 && e.space == space && e.page == va / 2 ^ e.bits) with
    | none =>
      simp only [hw, hh] at h
      obtain ⟨rfl, rfl, hn⟩ := ok_of_ite h
      exact ⟨⟨_, _, rfl⟩, hn⟩
    | some x =>
      simp only [hw, hh] at h
      by_cases hp : (w == (x.leaf, x.bits)) = true
      · rw [if_pos hp] at h
        obtain ⟨rfl, rfl, hn⟩ := ok_of_ite h
        exact ⟨⟨_, _, rfl⟩, hn⟩
      · rw [if_neg hp] at h
        by_cases hu : Config.useCached s.free = true
        · rw [if_pos hu] at h
          obtain ⟨rfl, rfl, hn⟩ := ok_of_ite h
          exact ⟨⟨_, _, rfl⟩, hn⟩
        · rw [if_neg hu] at h
          obtain ⟨rfl, rfl, hn⟩ := ok_of_ite h
          exact ⟨⟨_, _, rfl⟩, hn⟩

/-- A translated access that passes its checks changes at most the stations. -/
theorem State.locateXlat_frame {s s' : State} {k : Acc} {a : Word} {n : Nat} {g : Target} (h : s.locateXlat k a n = .ok (g, s')) :
    s.Restationed s' := by
  unfold State.locateXlat at h
  simp only at h
  split at h
  · cases h
  · split at h
    · cases h
    · rename_i ht
      split at h
      · cases h
      · split at h
        · cases h
        · split at h
          · cases h
          · split at h
            · cases h
            · injection h with h
              injection h with h1 h2
              exact h2 ▸ (State.translate_frame ht).1

theorem State.Restationed.refl (s : State) : s.Restationed s := ⟨s.dies, s.free, rfl⟩

/-- An access that passes its checks changes at most the stations. -/
theorem State.locate_frame {s s' : State} {k : Acc} {a : Word} {n : Nat} {g : Target} (h : s.locate k a n = .ok (g, s')) : s.Restationed s' := by
  unfold State.locate at h
  simp only at h
  cases hr : regionOf a.toNat <;> simp only [hr] at h
  all_goals (repeat' split at h)
  all_goals first
    | (cases h; done)
    | (injection h with h; injection h with h1 h2; exact h2 ▸ State.Restationed.refl s)
    | exact State.locateXlat_frame h

/-! ## Reaching memory -/

@[simp] theorem State.detEvent_mem (s : State) (l : Nat) (o : Bool) (a : Word) : (s.detEvent l o a).mem = s.mem := by
  unfold State.detEvent
  split <;> rfl

@[simp] theorem State.detEvent_q (s : State) (l : Nat) (o : Bool) (a : Word) : (s.detEvent l o a).q = s.q := by
  unfold State.detEvent
  split <;> rfl

/-- A write takes blocks out of the engines' caches, and changes nothing else. -/
theorem State.touch_eq (s : State) (k n : Nat) : ∃ ds, s.touch k n = { s with dies := ds } := by
  unfold State.touch
  simp only
  split
  · exact ⟨_, rfl⟩
  · exact ⟨s.dies, rfl⟩
@[simp] theorem State.touch_mem (s : State) (k n : Nat) : (s.touch k n).mem = s.mem := by
  obtain ⟨ds, h⟩ := s.touch_eq k n
  rw [h]
@[simp] theorem State.touch_q (s : State) (k n : Nat) : (s.touch k n).q = s.q := by
  obtain ⟨ds, h⟩ := s.touch_eq k n
  rw [h]

/-- An early-path write writes its bytes, and changes no register. -/
theorem State.earlyWrite_mem (s : State) (l p g k : Nat) (bs : List Byte) (kind : Nat) (a : Word) :
    (s.earlyWrite l p g k bs kind a).mem = writeBytes s.mem k bs := by
  unfold State.earlyWrite
  simp only
  split <;> simp

theorem State.earlyWrite_q (s : State) (l p g k : Nat) (bs : List Byte) (kind : Nat) (a : Word) :
    (s.earlyWrite l p g k bs kind a).q = s.q := by
  unfold State.earlyWrite
  simp only
  split <;> simp

/-- A store that is staged reaches no memory. -/
@[simp] theorem State.stage_mem (s : State) (t : Target) (lv : Level) (u : Nat) (bs : List Byte) : (s.stage t lv u bs).mem = s.mem := rfl

/-- What open exchanges read is noted in their barriers, and nothing else changes (21 R205). -/
theorem State.noteBefore_eq (s : State) (l grp : Nat) (lv : Level) (key n : Nat) :
    ∃ bs, s.noteBefore l grp lv key n = { s with bars := bs } := by
  unfold State.noteBefore
  generalize s.outerExchanges l grp lv = xs
  induction xs generalizing s with
  | nil => exact ⟨s.bars, rfl⟩
  | cons o xs ih =>
    simp only [List.foldl_cons]
    split
    · exact ih s
    · obtain ⟨bs, h⟩ := ih (s.setBar l o.1 o.2 _)
      exact ⟨bs, h.trans rfl⟩
@[simp] theorem State.noteBefore_mem (s : State) (l grp : Nat) (lv : Level) (key n : Nat) : (s.noteBefore l grp lv key n).mem = s.mem := by
  obtain ⟨bs, h⟩ := s.noteBefore_eq l grp lv key n
  rw [h]

/-- What an exchange's own write replaces is forgotten in its barrier, and nothing else changes (21 R205). -/
theorem State.forgetBefore_eq (s : State) (l : Nat) (lv : Level) (unit key n : Nat) :
    ∃ bs, s.forgetBefore l lv unit key n = { s with bars := bs } := by
  unfold State.forgetBefore
  simp only
  split
  · exact ⟨_, rfl⟩
  · exact ⟨s.bars, rfl⟩
@[simp] theorem State.forgetBefore_mem (s : State) (l : Nat) (lv : Level) (unit key n : Nat) :
    (s.forgetBefore l lv unit key n).mem = s.mem := by
  obtain ⟨bs, h⟩ := s.forgetBefore_eq l lv unit key n
  rw [h]

/-- An engine's early write writes its bytes. -/
theorem State.engineEarly_mem (s : State) (l p g : Nat) (lv : Level) (k : Nat) (bs : List Byte) (a : Word) :
    (s.engineEarly l p g lv k bs a).mem = writeBytes s.mem k bs := by
  simp [State.engineEarly, State.earlyWrite_mem]

/-- A store to the issuer's own tile is performed, or held with what a station holds, or waits for a compute phase. -/
theorem State.putOwn_cases (s : State) (key : Nat) (nib : Option Bool) (bs : List Byte) (addr : Word) :
    (s.ownLevel key bs.length = none ∧ s.putOwn key nib bs addr = s.earlyOwn key bs 0 addr) ∨
    (s.ownLevel key bs.length = some .tile ∧
      s.putOwn key nib bs addr = s.holdStore .store addr nib bs (some ⟨key, .now, 0, 0, addr⟩) false none) ∨
    ∃ lv, lv ≠ .tile ∧ s.ownLevel key bs.length = some lv ∧ s.putOwn key nib bs addr = s.waitAt ⟨key, .now, 0, 0, addr⟩ lv nib bs := by
  unfold State.putOwn
  cases h : s.ownLevel key bs.length with
  | none => exact .inl ⟨rfl, rfl⟩
  | some lv => cases lv with
    | tile => exact .inr (.inl ⟨rfl, rfl⟩)
    | _ => exact .inr (.inr ⟨_, by decide, rfl, rfl⟩)

/-! ## Memory stays canonical -/

theorem State.poke_wf {s : State} (h : Memory.wf s.mem = true) (k : Nat) (bs : List Byte) : Memory.wf (s.poke k bs).mem = true :=
  writeBytes_wf h k bs
theorem State.zero_wf {s : State} (h : Memory.wf s.mem = true) (k n : Nat) : Memory.wf (s.zero k n).mem = true := zeroRange_wf h k n
theorem State.earlyWrite_wf {s : State} (h : Memory.wf s.mem = true) (l p g k : Nat) (bs : List Byte) (kind : Nat) (a : Word) :
    Memory.wf (s.earlyWrite l p g k bs kind a).mem = true := by
  rw [State.earlyWrite_mem]
  exact writeBytes_wf h k bs

/-- A fold of steps that each keep memory canonical keeps it. -/
theorem foldl_wf {α : Type} (f : State → α → State) (hf : ∀ s x, Memory.wf s.mem = true → Memory.wf (f s x).mem = true) (xs : List α) {s : State}
    (h : Memory.wf s.mem = true) : Memory.wf (xs.foldl f s).mem = true := by
  induction xs generalizing s with
  | nil => exact h
  | cons x xs ih => exact ih (hf s x h)

theorem State.applyStaged_wf {s : State} (h : Memory.wf s.mem = true) (xs : List Staged) : Memory.wf (s.applyStaged xs).mem = true :=
  foldl_wf _ (fun _ e hs => by rw [State.touch_mem]; exact State.poke_wf hs e.key _) xs h

theorem State.xlatStore_wf {s : State} (h : Memory.wf s.mem = true) (die space : Nat) (va : Word) (ws : List Word) :
    Memory.wf (s.xlatStore die space va ws).mem = true := by
  induction ws generalizing s va with
  | nil => exact h
  | cons w ws ih =>
    unfold State.xlatStore
    apply ih
    split
    · exact h
    · rename_i ht
      have hm := (State.translate_frame ht).1.mem
      split
      · exact State.poke_wf (hm ▸ h) _ _
      · exact hm ▸ h

end Sys2Proof.Machine
end

