-- ==== Sys2Proof/Laws/PerInstr.lean ====
section
/-! SUPPORT. The statements that hold of every instruction as syntax, one lemma per constructor. -/

namespace Sys2Proof.Laws.CanonWord

/-- The row that the decoder gives for the words of several rows has the same word, and is well formed where the row is. -/
def Statement (i : Instr) : Prop := encode i.canon = encode i ∧ (i.wellFormed = true → i.canon.wellFormed = true)

theorem add (d : BitVec 5) (a : BitVec 5) (b : BitVec 5) : Statement (.add d a b) := ⟨rfl, fun h => h⟩
theorem sub (d : BitVec 5) (a : BitVec 5) (b : BitVec 5) : Statement (.sub d a b) := ⟨rfl, fun h => h⟩
theorem and (d : BitVec 5) (a : BitVec 5) (b : BitVec 5) : Statement (.and d a b) := ⟨rfl, fun h => h⟩
theorem or (d : BitVec 5) (a : BitVec 5) (b : BitVec 5) : Statement (.or d a b) := ⟨rfl, fun h => h⟩
theorem xor (d : BitVec 5) (a : BitVec 5) (b : BitVec 5) : Statement (.xor d a b) := ⟨rfl, fun h => h⟩
theorem andn (d : BitVec 5) (a : BitVec 5) (b : BitVec 5) : Statement (.andn d a b) := ⟨rfl, fun h => h⟩
theorem orn (d : BitVec 5) (a : BitVec 5) (b : BitVec 5) : Statement (.orn d a b) := ⟨rfl, fun h => h⟩
theorem xnor (d : BitVec 5) (a : BitVec 5) (b : BitVec 5) : Statement (.xnor d a b) := ⟨rfl, fun h => h⟩
theorem sll (d : BitVec 5) (a : BitVec 5) (b : BitVec 5) : Statement (.sll d a b) := ⟨rfl, fun h => h⟩
theorem srl (d : BitVec 5) (a : BitVec 5) (b : BitVec 5) : Statement (.srl d a b) := ⟨rfl, fun h => h⟩
theorem sra (d : BitVec 5) (a : BitVec 5) (b : BitVec 5) : Statement (.sra d a b) := ⟨rfl, fun h => h⟩
theorem rol (d : BitVec 5) (a : BitVec 5) (b : BitVec 5) : Statement (.rol d a b) := ⟨rfl, fun h => h⟩
theorem ror (d : BitVec 5) (a : BitVec 5) (b : BitVec 5) : Statement (.ror d a b) := ⟨rfl, fun h => h⟩
theorem min (d : BitVec 5) (a : BitVec 5) (b : BitVec 5) : Statement (.min d a b) := ⟨rfl, fun h => h⟩
theorem max (d : BitVec 5) (a : BitVec 5) (b : BitVec 5) : Statement (.max d a b) := ⟨rfl, fun h => h⟩
theorem minn (d : BitVec 5) (a : BitVec 5) (b : BitVec 5) : Statement (.minn d a b) := ⟨rfl, fun h => h⟩
theorem maxn (d : BitVec 5) (a : BitVec 5) (b : BitVec 5) : Statement (.maxn d a b) := ⟨rfl, fun h => h⟩
theorem slt (d : BitVec 5) (a : BitVec 5) (b : BitVec 5) : Statement (.slt d a b) := ⟨rfl, fun h => h⟩
theorem sltn (d : BitVec 5) (a : BitVec 5) (b : BitVec 5) : Statement (.sltn d a b) := ⟨rfl, fun h => h⟩
theorem seq (d : BitVec 5) (a : BitVec 5) (b : BitVec 5) : Statement (.seq d a b) := ⟨rfl, fun h => h⟩
theorem sne (d : BitVec 5) (a : BitVec 5) (b : BitVec 5) : Statement (.sne d a b) := ⟨rfl, fun h => h⟩
theorem mul (d : BitVec 5) (a : BitVec 5) (b : BitVec 5) : Statement (.mul d a b) := ⟨rfl, fun h => h⟩
theorem mulh (d : BitVec 5) (a : BitVec 5) (b : BitVec 5) : Statement (.mulh d a b) := ⟨rfl, fun h => h⟩
theorem mulhn (d : BitVec 5) (a : BitVec 5) (b : BitVec 5) : Statement (.mulhn d a b) := ⟨rfl, fun h => h⟩
theorem div (d : BitVec 5) (a : BitVec 5) (b : BitVec 5) : Statement (.div d a b) := ⟨rfl, fun h => h⟩
theorem divn (d : BitVec 5) (a : BitVec 5) (b : BitVec 5) : Statement (.divn d a b) := ⟨rfl, fun h => h⟩
theorem rem (d : BitVec 5) (a : BitVec 5) (b : BitVec 5) : Statement (.rem d a b) := ⟨rfl, fun h => h⟩
theorem remn (d : BitVec 5) (a : BitVec 5) (b : BitVec 5) : Statement (.remn d a b) := ⟨rfl, fun h => h⟩
theorem clz (d : BitVec 5) (a : BitVec 5) : Statement (.clz d a) := ⟨rfl, fun h => h⟩
theorem ctz (d : BitVec 5) (a : BitVec 5) : Statement (.ctz d a) := ⟨rfl, fun h => h⟩
theorem popc (d : BitVec 5) (a : BitVec 5) : Statement (.popc d a) := ⟨rfl, fun h => h⟩
theorem brev (d : BitVec 5) (a : BitVec 5) : Statement (.brev d a) := ⟨rfl, fun h => h⟩
theorem bswap (d : BitVec 5) (a : BitVec 5) : Statement (.bswap d a) := ⟨rfl, fun h => h⟩
theorem addw (d : BitVec 5) (a : BitVec 5) (b : BitVec 5) : Statement (.addw d a b) := ⟨rfl, fun h => h⟩
theorem subw (d : BitVec 5) (a : BitVec 5) (b : BitVec 5) : Statement (.subw d a b) := ⟨rfl, fun h => h⟩
theorem mulw (d : BitVec 5) (a : BitVec 5) (b : BitVec 5) : Statement (.mulw d a b) := ⟨rfl, fun h => h⟩
theorem sllw (d : BitVec 5) (a : BitVec 5) (b : BitVec 5) : Statement (.sllw d a b) := ⟨rfl, fun h => h⟩
theorem srlw (d : BitVec 5) (a : BitVec 5) (b : BitVec 5) : Statement (.srlw d a b) := ⟨rfl, fun h => h⟩
theorem sraw (d : BitVec 5) (a : BitVec 5) (b : BitVec 5) : Statement (.sraw d a b) := ⟨rfl, fun h => h⟩
theorem addi (d : BitVec 5) (a : BitVec 5) (i : BitVec 16) : Statement (.addi d a i) := ⟨rfl, fun h => h⟩
theorem andi (d : BitVec 5) (a : BitVec 5) (i : BitVec 16) : Statement (.andi d a i) := ⟨rfl, fun h => h⟩
theorem ori (d : BitVec 5) (a : BitVec 5) (i : BitVec 16) : Statement (.ori d a i) := ⟨rfl, fun h => h⟩
theorem xori (d : BitVec 5) (a : BitVec 5) (i : BitVec 16) : Statement (.xori d a i) := ⟨rfl, fun h => h⟩
theorem slti (d : BitVec 5) (a : BitVec 5) (i : BitVec 16) : Statement (.slti d a i) := ⟨rfl, fun h => h⟩
theorem sltin (d : BitVec 5) (a : BitVec 5) (i : BitVec 16) : Statement (.sltin d a i) := ⟨rfl, fun h => h⟩
theorem slli (d : BitVec 5) (a : BitVec 5) (n : BitVec 6) : Statement (.slli d a n) := ⟨rfl, fun h => h⟩
theorem srli (d : BitVec 5) (a : BitVec 5) (n : BitVec 6) : Statement (.srli d a n) := ⟨rfl, fun h => h⟩
theorem srai (d : BitVec 5) (a : BitVec 5) (n : BitVec 6) : Statement (.srai d a n) := ⟨rfl, fun h => h⟩
theorem rori (d : BitVec 5) (a : BitVec 5) (n : BitVec 6) : Statement (.rori d a n) := ⟨rfl, fun h => h⟩
theorem slliW (d : BitVec 5) (a : BitVec 5) (n : BitVec 5) : Statement (.slliW d a n) := ⟨rfl, fun h => h⟩
theorem srliW (d : BitVec 5) (a : BitVec 5) (n : BitVec 5) : Statement (.srliW d a n) := ⟨rfl, fun h => h⟩
theorem sraiW (d : BitVec 5) (a : BitVec 5) (n : BitVec 5) : Statement (.sraiW d a n) := ⟨rfl, fun h => h⟩
theorem roriW (d : BitVec 5) (a : BitVec 5) (n : BitVec 5) : Statement (.roriW d a n) := ⟨rfl, fun h => h⟩
theorem lih (d : BitVec 5) (i : BitVec 21) : Statement (.lih d i) := ⟨rfl, fun h => h⟩
theorem adpc (d : BitVec 5) (i : BitVec 21) : Statement (.adpc d i) := ⟨rfl, fun h => h⟩
theorem exts (d : BitVec 5) (a : BitVec 5) (l : BitVec 6) (p : BitVec 6) : Statement (.exts d a l p) := ⟨rfl, fun h => h⟩
theorem extz (d : BitVec 5) (a : BitVec 5) (l : BitVec 6) (p : BitVec 6) : Statement (.extz d a l p) := ⟨rfl, fun h => h⟩
theorem dep (d : BitVec 5) (a : BitVec 5) (l : BitVec 6) (p : BitVec 6) : Statement (.dep d a l p) := ⟨rfl, fun h => h⟩
theorem depz (d : BitVec 5) (a : BitVec 5) (l : BitVec 6) (p : BitVec 6) : Statement (.depz d a l p) := ⟨rfl, fun h => h⟩
theorem lis (d : BitVec 5) (i : BitVec 16) : Statement (.lis d i) := ⟨rfl, fun h => h⟩
theorem ldb (d : BitVec 5) (a : BitVec 5) (o : BitVec 14) : Statement (.ldb d a o) := ⟨rfl, fun h => h⟩
theorem ldh (d : BitVec 5) (a : BitVec 5) (o : BitVec 14) : Statement (.ldh d a o) := ⟨rfl, fun h => h⟩
theorem ldw (d : BitVec 5) (a : BitVec 5) (o : BitVec 14) : Statement (.ldw d a o) := ⟨rfl, fun h => h⟩
theorem ldbz (d : BitVec 5) (a : BitVec 5) (o : BitVec 14) : Statement (.ldbz d a o) := ⟨rfl, fun h => h⟩
theorem ldhz (d : BitVec 5) (a : BitVec 5) (o : BitVec 14) : Statement (.ldhz d a o) := ⟨rfl, fun h => h⟩
theorem ldwz (d : BitVec 5) (a : BitVec 5) (o : BitVec 14) : Statement (.ldwz d a o) := ⟨rfl, fun h => h⟩
theorem ldd (d : BitVec 5) (a : BitVec 5) (o : BitVec 14) : Statement (.ldd d a o) := ⟨rfl, fun h => h⟩
theorem stb (d : BitVec 5) (a : BitVec 5) (o : BitVec 14) : Statement (.stb d a o) := ⟨rfl, fun h => h⟩
theorem sth (d : BitVec 5) (a : BitVec 5) (o : BitVec 14) : Statement (.sth d a o) := ⟨rfl, fun h => h⟩
theorem stw (d : BitVec 5) (a : BitVec 5) (o : BitVec 14) : Statement (.stw d a o) := ⟨rfl, fun h => h⟩
theorem std (d : BitVec 5) (a : BitVec 5) (o : BitVec 14) : Statement (.std d a o) := ⟨rfl, fun h => h⟩
theorem ldsg (d : BitVec 5) (a : BitVec 5) (o : BitVec 2) (s : BitVec 3) (z : BitVec 1) : Statement (.ldsg d a o s z) := ⟨rfl, fun h => h⟩
theorem stsg (d : BitVec 5) (a : BitVec 5) (o : BitVec 2) (s : BitVec 3) (z : BitVec 1) : Statement (.stsg d a o s z) := ⟨rfl, fun h => h⟩
theorem amoadd (d : BitVec 5) (a : BitVec 5) (b : BitVec 5) (o : BitVec 2) (s : BitVec 3) (z : BitVec 1) : Statement (.amoadd d a b o s z) := ⟨rfl, fun h => h⟩
theorem amoand (d : BitVec 5) (a : BitVec 5) (b : BitVec 5) (o : BitVec 2) (s : BitVec 3) (z : BitVec 1) : Statement (.amoand d a b o s z) := ⟨rfl, fun h => h⟩
theorem amoor (d : BitVec 5) (a : BitVec 5) (b : BitVec 5) (o : BitVec 2) (s : BitVec 3) (z : BitVec 1) : Statement (.amoor d a b o s z) := ⟨rfl, fun h => h⟩
theorem amoxor (d : BitVec 5) (a : BitVec 5) (b : BitVec 5) (o : BitVec 2) (s : BitVec 3) (z : BitVec 1) : Statement (.amoxor d a b o s z) := ⟨rfl, fun h => h⟩
theorem amosmin (d : BitVec 5) (a : BitVec 5) (b : BitVec 5) (o : BitVec 2) (s : BitVec 3) (z : BitVec 1) : Statement (.amosmin d a b o s z) := ⟨rfl, fun h => h⟩
theorem amosmax (d : BitVec 5) (a : BitVec 5) (b : BitVec 5) (o : BitVec 2) (s : BitVec 3) (z : BitVec 1) : Statement (.amosmax d a b o s z) := ⟨rfl, fun h => h⟩
theorem amonmin (d : BitVec 5) (a : BitVec 5) (b : BitVec 5) (o : BitVec 2) (s : BitVec 3) (z : BitVec 1) : Statement (.amonmin d a b o s z) := ⟨rfl, fun h => h⟩
theorem amonmax (d : BitVec 5) (a : BitVec 5) (b : BitVec 5) (o : BitVec 2) (s : BitVec 3) (z : BitVec 1) : Statement (.amonmax d a b o s z) := ⟨rfl, fun h => h⟩
theorem amoswap (d : BitVec 5) (a : BitVec 5) (b : BitVec 5) (o : BitVec 2) (s : BitVec 3) (z : BitVec 1) : Statement (.amoswap d a b o s z) := ⟨rfl, fun h => h⟩
theorem amocas (d : BitVec 5) (a : BitVec 5) (b : BitVec 5) (o : BitVec 2) (s : BitVec 3) (z : BitVec 1) : Statement (.amocas d a b o s z) := ⟨rfl, fun h => h⟩
theorem amofadd (d : BitVec 5) (a : BitVec 5) (b : BitVec 5) (o : BitVec 2) (s : BitVec 3) (z : BitVec 1) : Statement (.amofadd d a b o s z) := ⟨rfl, fun h => h⟩
theorem fence (s : BitVec 3) : Statement (.fence s) := ⟨rfl, fun h => h⟩
theorem fencea (s : BitVec 3) : Statement (.fencea s) := ⟨rfl, fun h => h⟩
theorem fencer (s : BitVec 3) : Statement (.fencer s) := ⟨rfl, fun h => h⟩
theorem tfence (s : BitVec 3) : Statement (.tfence s) := ⟨rfl, fun h => h⟩
theorem msgs (a : BitVec 5) (b : BitVec 5) (n : BitVec 4) : Statement (.msgs a b n) := ⟨rfl, fun h => h⟩
theorem waitc (a : BitVec 5) (n : BitVec 4) : Statement (.waitc a n) := ⟨rfl, fun h => h⟩
theorem ctradd (a : BitVec 5) (n : BitVec 4) : Statement (.ctradd a n) := ⟨rfl, fun h => h⟩
theorem ctrrd (d : BitVec 5) (n : BitVec 4) : Statement (.ctrrd d n) := ⟨rfl, fun h => h⟩
theorem tkget (d : BitVec 5) (a : BitVec 5) : Statement (.tkget d a) := ⟨rfl, fun h => h⟩
theorem tkwait (a : BitVec 5) (b : BitVec 5) : Statement (.tkwait a b) := ⟨rfl, fun h => h⟩
theorem tknext (a : BitVec 5) : Statement (.tknext a) := ⟨rfl, fun h => h⟩
theorem chwf (a : BitVec 5) (c : BitVec 3) : Statement (.chwf a c) := ⟨rfl, fun h => h⟩
theorem chwe (a : BitVec 5) (c : BitVec 3) : Statement (.chwe a c) := ⟨rfl, fun h => h⟩
theorem chap (a : BitVec 5) (c : BitVec 3) : Statement (.chap a c) := ⟨rfl, fun h => h⟩
theorem chac (a : BitVec 5) (c : BitVec 3) : Statement (.chac a c) := ⟨rfl, fun h => h⟩
theorem chrd (d : BitVec 5) (c : BitVec 3) : Statement (.chrd d c) := ⟨rfl, fun h => h⟩
theorem chset (a : BitVec 5) (b : BitVec 5) (c : BitVec 3) : Statement (.chset a b c) := ⟨rfl, fun h => h⟩
theorem bara (a : BitVec 5) (b : BitVec 5) (l : BitVec 2) : Statement (.bara a b l) := ⟨rfl, fun h => h⟩
theorem barw (l : BitVec 2) : Statement (.barw l) := ⟨rfl, fun h => h⟩
theorem spawn (a : BitVec 5) (b : BitVec 5) (p : BitVec 1) (r : BitVec 2) : Statement (.spawn a b p r) := ⟨rfl, fun h => h⟩
theorem susp : Statement (.susp) := ⟨rfl, fun h => h⟩
theorem yield : Statement (.yield) := ⟨rfl, fun h => h⟩
theorem done : Statement (.done) := ⟨rfl, fun h => h⟩
theorem exend (l : BitVec 2) : Statement (.exend l) := ⟨rfl, fun h => h⟩
theorem xwt (l : BitVec 2) : Statement (.xwt l) := ⟨rfl, fun h => h⟩
theorem beq (a : BitVec 5) (b : BitVec 5) (o : BitVec 13) : Statement (.beq a b o) := ⟨rfl, fun h => h⟩
theorem bne (a : BitVec 5) (b : BitVec 5) (o : BitVec 13) : Statement (.bne a b o) := ⟨rfl, fun h => h⟩
theorem blt (a : BitVec 5) (b : BitVec 5) (o : BitVec 13) : Statement (.blt a b o) := ⟨rfl, fun h => h⟩
theorem bge (a : BitVec 5) (b : BitVec 5) (o : BitVec 13) : Statement (.bge a b o) := ⟨rfl, fun h => h⟩
theorem bltn (a : BitVec 5) (b : BitVec 5) (o : BitVec 13) : Statement (.bltn a b o) := ⟨rfl, fun h => h⟩
theorem bgen (a : BitVec 5) (b : BitVec 5) (o : BitVec 13) : Statement (.bgen a b o) := ⟨rfl, fun h => h⟩
theorem beqz (a : BitVec 5) (o : BitVec 13) : Statement (.beqz a o) := ⟨rfl, fun h => h⟩
theorem bnez (a : BitVec 5) (o : BitVec 13) : Statement (.bnez a o) := ⟨rfl, fun h => h⟩
theorem bltz (a : BitVec 5) (o : BitVec 13) : Statement (.bltz a o) := ⟨rfl, fun h => h⟩
theorem bgez (a : BitVec 5) (o : BitVec 13) : Statement (.bgez a o) := ⟨rfl, fun h => h⟩
theorem bgtz (a : BitVec 5) (o : BitVec 13) : Statement (.bgtz a o) := ⟨rfl, fun h => h⟩
theorem blez (a : BitVec 5) (o : BitVec 13) : Statement (.blez a o) := ⟨rfl, fun h => h⟩
theorem j (o : BitVec 26) : Statement (.j o) := ⟨rfl, fun h => h⟩
theorem call (o : BitVec 26) : Statement (.call o) := ⟨rfl, fun h => h⟩
theorem jr (a : BitVec 5) : Statement (.jr a) := ⟨rfl, fun h => h⟩
theorem callr (a : BitVec 5) : Statement (.callr a) := ⟨rfl, fun h => h⟩
theorem ret : Statement (.ret) := ⟨rfl, fun h => h⟩
theorem jlr (d : BitVec 5) (a : BitVec 5) : Statement (.jlr d a) := ⟨rfl, fun h => h⟩
theorem vaddF (d : BitVec 5) (a : BitVec 5) (b : BitVec 5) (k : BitVec 3) : Statement (.vaddF d a b k) := ⟨rfl, fun h => h⟩
theorem vsubF (d : BitVec 5) (a : BitVec 5) (b : BitVec 5) (k : BitVec 3) : Statement (.vsubF d a b k) := ⟨rfl, fun h => h⟩
theorem vmulF (d : BitVec 5) (a : BitVec 5) (b : BitVec 5) (k : BitVec 3) : Statement (.vmulF d a b k) := ⟨rfl, fun h => h⟩
theorem vdivF (d : BitVec 5) (a : BitVec 5) (b : BitVec 5) (k : BitVec 3) : Statement (.vdivF d a b k) := ⟨rfl, fun h => h⟩
theorem vsqrtF (d : BitVec 5) (a : BitVec 5) (k : BitVec 3) : Statement (.vsqrtF d a k) := ⟨rfl, fun h => h⟩
theorem vfmaF (d : BitVec 5) (a : BitVec 5) (b : BitVec 5) (k : BitVec 3) : Statement (.vfmaF d a b k) := ⟨rfl, fun h => h⟩
theorem vfmsF (d : BitVec 5) (a : BitVec 5) (b : BitVec 5) (k : BitVec 3) : Statement (.vfmsF d a b k) := ⟨rfl, fun h => h⟩
theorem vminF (d : BitVec 5) (a : BitVec 5) (b : BitVec 5) (k : BitVec 3) : Statement (.vminF d a b k) := ⟨rfl, fun h => h⟩
theorem vmaxF (d : BitVec 5) (a : BitVec 5) (b : BitVec 5) (k : BitVec 3) : Statement (.vmaxF d a b k) := ⟨rfl, fun h => h⟩
theorem vabsF (d : BitVec 5) (a : BitVec 5) (k : BitVec 3) : Statement (.vabsF d a k) := ⟨rfl, fun h => h⟩
theorem vnegF (d : BitVec 5) (a : BitVec 5) (k : BitVec 3) : Statement (.vnegF d a k) := ⟨rfl, fun h => h⟩
theorem vaddI (d : BitVec 5) (a : BitVec 5) (b : BitVec 5) (k : BitVec 3) : Statement (.vaddI d a b k) := ⟨rfl, fun h => h⟩
theorem vsubI (d : BitVec 5) (a : BitVec 5) (b : BitVec 5) (k : BitVec 3) : Statement (.vsubI d a b k) := ⟨rfl, fun h => h⟩
theorem vmulI (d : BitVec 5) (a : BitVec 5) (b : BitVec 5) (k : BitVec 3) : Statement (.vmulI d a b k) := ⟨rfl, fun h => h⟩
theorem vmulhI (d : BitVec 5) (a : BitVec 5) (b : BitVec 5) (k : BitVec 3) : Statement (.vmulhI d a b k) := ⟨rfl, fun h => h⟩
theorem vmulhN (d : BitVec 5) (a : BitVec 5) (b : BitVec 5) (k : BitVec 3) : Statement (.vmulhN d a b k) := ⟨rfl, fun h => h⟩
theorem vminI (d : BitVec 5) (a : BitVec 5) (b : BitVec 5) (k : BitVec 3) : Statement (.vminI d a b k) := ⟨rfl, fun h => h⟩
theorem vmaxI (d : BitVec 5) (a : BitVec 5) (b : BitVec 5) (k : BitVec 3) : Statement (.vmaxI d a b k) := ⟨rfl, fun h => h⟩
theorem vminN (d : BitVec 5) (a : BitVec 5) (b : BitVec 5) (k : BitVec 3) : Statement (.vminN d a b k) := ⟨rfl, fun h => h⟩
theorem vmaxN (d : BitVec 5) (a : BitVec 5) (b : BitVec 5) (k : BitVec 3) : Statement (.vmaxN d a b k) := ⟨rfl, fun h => h⟩
theorem vand (d : BitVec 5) (a : BitVec 5) (b : BitVec 5) (k : BitVec 3) : Statement (.vand d a b k) := ⟨rfl, fun h => h⟩
theorem vor (d : BitVec 5) (a : BitVec 5) (b : BitVec 5) (k : BitVec 3) : Statement (.vor d a b k) := ⟨rfl, fun h => h⟩
theorem vxor (d : BitVec 5) (a : BitVec 5) (b : BitVec 5) (k : BitVec 3) : Statement (.vxor d a b k) := ⟨rfl, fun h => h⟩
theorem vsll (d : BitVec 5) (a : BitVec 5) (b : BitVec 5) (k : BitVec 3) : Statement (.vsll d a b k) := ⟨rfl, fun h => h⟩
theorem vsrl (d : BitVec 5) (a : BitVec 5) (b : BitVec 5) (k : BitVec 3) : Statement (.vsrl d a b k) := ⟨rfl, fun h => h⟩
theorem vsra (d : BitVec 5) (a : BitVec 5) (b : BitVec 5) (k : BitVec 3) : Statement (.vsra d a b k) := ⟨rfl, fun h => h⟩
theorem vsel (d : BitVec 5) (a : BitVec 5) (b : BitVec 5) (k : BitVec 3) : Statement (.vsel d a b k) := ⟨rfl, fun h => h⟩
theorem vmov (d : BitVec 5) (a : BitVec 5) (k : BitVec 3) : Statement (.vmov d a k) := ⟨rfl, fun h => h⟩
theorem vceqF (d : BitVec 3) (a : BitVec 5) (b : BitVec 5) (k : BitVec 3) : Statement (.vceqF d a b k) := ⟨rfl, fun h => h⟩
theorem vcltF (d : BitVec 3) (a : BitVec 5) (b : BitVec 5) (k : BitVec 3) : Statement (.vcltF d a b k) := ⟨rfl, fun h => h⟩
theorem vcleF (d : BitVec 3) (a : BitVec 5) (b : BitVec 5) (k : BitVec 3) : Statement (.vcleF d a b k) := ⟨rfl, fun h => h⟩
theorem vcunF (d : BitVec 3) (a : BitVec 5) (b : BitVec 5) (k : BitVec 3) : Statement (.vcunF d a b k) := ⟨rfl, fun h => h⟩
theorem vceqI (d : BitVec 3) (a : BitVec 5) (b : BitVec 5) (k : BitVec 3) : Statement (.vceqI d a b k) := ⟨rfl, fun h => h⟩
theorem vcltI (d : BitVec 3) (a : BitVec 5) (b : BitVec 5) (k : BitVec 3) : Statement (.vcltI d a b k) := ⟨rfl, fun h => h⟩
theorem vcltN (d : BitVec 3) (a : BitVec 5) (b : BitVec 5) (k : BitVec 3) : Statement (.vcltN d a b k) := ⟨rfl, fun h => h⟩
theorem vclassF (d : BitVec 5) (a : BitVec 5) (k : BitVec 3) : Statement (.vclassF d a k) := ⟨rfl, fun h => h⟩
theorem vaddsF (d : BitVec 5) (a : BitVec 5) (b : BitVec 5) (k : BitVec 3) : Statement (.vaddsF d a b k) := ⟨rfl, fun h => h⟩
theorem vsubsF (d : BitVec 5) (a : BitVec 5) (b : BitVec 5) (k : BitVec 3) : Statement (.vsubsF d a b k) := ⟨rfl, fun h => h⟩
theorem vmulsF (d : BitVec 5) (a : BitVec 5) (b : BitVec 5) (k : BitVec 3) : Statement (.vmulsF d a b k) := ⟨rfl, fun h => h⟩
theorem vfmasF (d : BitVec 5) (a : BitVec 5) (b : BitVec 5) (k : BitVec 3) : Statement (.vfmasF d a b k) := ⟨rfl, fun h => h⟩
theorem vminsF (d : BitVec 5) (a : BitVec 5) (b : BitVec 5) (k : BitVec 3) : Statement (.vminsF d a b k) := ⟨rfl, fun h => h⟩
theorem vmaxsF (d : BitVec 5) (a : BitVec 5) (b : BitVec 5) (k : BitVec 3) : Statement (.vmaxsF d a b k) := ⟨rfl, fun h => h⟩
theorem vaddsI (d : BitVec 5) (a : BitVec 5) (b : BitVec 5) (k : BitVec 3) : Statement (.vaddsI d a b k) := ⟨rfl, fun h => h⟩
theorem vmulsI (d : BitVec 5) (a : BitVec 5) (b : BitVec 5) (k : BitVec 3) : Statement (.vmulsI d a b k) := ⟨rfl, fun h => h⟩
theorem vslls (d : BitVec 5) (a : BitVec 5) (b : BitVec 5) (k : BitVec 3) : Statement (.vslls d a b k) := ⟨rfl, fun h => h⟩
theorem vsrls (d : BitVec 5) (a : BitVec 5) (b : BitVec 5) (k : BitVec 3) : Statement (.vsrls d a b k) := ⟨rfl, fun h => h⟩
theorem vsras (d : BitVec 5) (a : BitVec 5) (b : BitVec 5) (k : BitVec 3) : Statement (.vsras d a b k) := ⟨rfl, fun h => h⟩
theorem vceqsI (d : BitVec 3) (a : BitVec 5) (b : BitVec 5) (k : BitVec 3) : Statement (.vceqsI d a b k) := ⟨rfl, fun h => h⟩
theorem vcltsI (d : BitVec 3) (a : BitVec 5) (b : BitVec 5) (k : BitVec 3) : Statement (.vcltsI d a b k) := ⟨rfl, fun h => h⟩
theorem vsplat (d : BitVec 5) (b : BitVec 5) (k : BitVec 3) : Statement (.vsplat d b k) := ⟨rfl, fun h => h⟩
theorem vinsl (d : BitVec 5) (a : BitVec 5) (b : BitVec 5) : Statement (.vinsl d a b) := ⟨rfl, fun h => h⟩
theorem vextl (d : BitVec 5) (a : BitVec 5) (b : BitVec 5) : Statement (.vextl d a b) := ⟨rfl, fun h => h⟩
theorem vld (d : BitVec 5) (a : BitVec 5) (k : BitVec 3) : Statement (.vld d a k) := ⟨rfl, fun h => h⟩
theorem vlds (d : BitVec 5) (a : BitVec 5) (b : BitVec 5) (k : BitVec 3) : Statement (.vlds d a b k) := ⟨rfl, fun h => h⟩
theorem vldg (d : BitVec 5) (a : BitVec 5) (b : BitVec 5) (k : BitVec 3) : Statement (.vldg d a b k) := ⟨rfl, fun h => h⟩
theorem vldb (d : BitVec 5) (a : BitVec 5) (k : BitVec 3) : Statement (.vldb d a k) := ⟨rfl, fun h => h⟩
theorem vst (d : BitVec 5) (a : BitVec 5) (k : BitVec 3) : Statement (.vst d a k) := ⟨rfl, fun h => h⟩
theorem vsts (d : BitVec 5) (a : BitVec 5) (b : BitVec 5) (k : BitVec 3) : Statement (.vsts d a b k) := ⟨rfl, fun h => h⟩
theorem vstsc (d : BitVec 5) (a : BitVec 5) (b : BitVec 5) (k : BitVec 3) : Statement (.vstsc d a b k) := ⟨rfl, fun h => h⟩
theorem vraddF (d : BitVec 5) (a : BitVec 5) (k : BitVec 3) : Statement (.vraddF d a k) := ⟨rfl, fun h => h⟩
theorem vraddI (d : BitVec 5) (a : BitVec 5) (k : BitVec 3) : Statement (.vraddI d a k) := ⟨rfl, fun h => h⟩
theorem vrminF (d : BitVec 5) (a : BitVec 5) (k : BitVec 3) : Statement (.vrminF d a k) := ⟨rfl, fun h => h⟩
theorem vrmaxF (d : BitVec 5) (a : BitVec 5) (k : BitVec 3) : Statement (.vrmaxF d a k) := ⟨rfl, fun h => h⟩
theorem vrminI (d : BitVec 5) (a : BitVec 5) (k : BitVec 3) : Statement (.vrminI d a k) := ⟨rfl, fun h => h⟩
theorem vrmaxI (d : BitVec 5) (a : BitVec 5) (k : BitVec 3) : Statement (.vrmaxI d a k) := ⟨rfl, fun h => h⟩
theorem vrminN (d : BitVec 5) (a : BitVec 5) (k : BitVec 3) : Statement (.vrminN d a k) := ⟨rfl, fun h => h⟩
theorem vrmaxN (d : BitVec 5) (a : BitVec 5) (k : BitVec 3) : Statement (.vrmaxN d a k) := ⟨rfl, fun h => h⟩
theorem vrand (d : BitVec 5) (a : BitVec 5) (k : BitVec 3) : Statement (.vrand d a k) := ⟨rfl, fun h => h⟩
theorem vrior (d : BitVec 5) (a : BitVec 5) (k : BitVec 3) : Statement (.vrior d a k) := ⟨rfl, fun h => h⟩
theorem vrxor (d : BitVec 5) (a : BitVec 5) (k : BitVec 3) : Statement (.vrxor d a k) := ⟨rfl, fun h => h⟩
theorem vscanF (d : BitVec 5) (a : BitVec 5) (k : BitVec 3) : Statement (.vscanF d a k) := ⟨rfl, fun h => h⟩
theorem vperm (d : BitVec 5) (a : BitVec 5) (b : BitVec 5) (k : BitVec 3) : Statement (.vperm d a b k) := ⟨rfl, fun h => h⟩
theorem vsldu (d : BitVec 5) (a : BitVec 5) (b : BitVec 5) (k : BitVec 3) : Statement (.vsldu d a b k) := ⟨rfl, fun h => h⟩
theorem vsldd (d : BitVec 5) (a : BitVec 5) (b : BitVec 5) (k : BitVec 3) : Statement (.vsldd d a b k) := ⟨rfl, fun h => h⟩
theorem vrev (d : BitVec 5) (a : BitVec 5) (k : BitVec 3) : Statement (.vrev d a k) := ⟨rfl, fun h => h⟩
theorem vzip (d : BitVec 5) (a : BitVec 5) (b : BitVec 5) (k : BitVec 3) : Statement (.vzip d a b k) := ⟨rfl, fun h => h⟩
theorem vuzp (d : BitVec 5) (a : BitVec 5) (b : BitVec 5) (k : BitVec 3) : Statement (.vuzp d a b k) := ⟨rfl, fun h => h⟩
theorem vbcast (d : BitVec 5) (a : BitVec 5) (b : BitVec 5) (k : BitVec 3) : Statement (.vbcast d a b k) := ⟨rfl, fun h => h⟩
theorem vcomp (d : BitVec 5) (a : BitVec 5) (k : BitVec 3) : Statement (.vcomp d a k) := ⟨rfl, fun h => h⟩
theorem vmand (d : BitVec 3) (a : BitVec 3) (b : BitVec 3) : Statement (.vmand d a b) := ⟨rfl, fun h => h⟩
theorem vmor (d : BitVec 3) (a : BitVec 3) (b : BitVec 3) : Statement (.vmor d a b) := ⟨rfl, fun h => h⟩
theorem vmxor (d : BitVec 3) (a : BitVec 3) (b : BitVec 3) : Statement (.vmxor d a b) := ⟨rfl, fun h => h⟩
theorem vmnot (d : BitVec 3) (a : BitVec 3) : Statement (.vmnot d a) := ⟨rfl, fun h => h⟩
theorem vmpopc (d : BitVec 5) (a : BitVec 3) : Statement (.vmpopc d a) := ⟨rfl, fun h => h⟩
theorem vmffs (d : BitVec 5) (a : BitVec 3) : Statement (.vmffs d a) := ⟨rfl, fun h => h⟩
theorem vmfromx (d : BitVec 3) (a : BitVec 5) : Statement (.vmfromx d a) := ⟨rfl, fun h => h⟩
theorem vmtox (d : BitVec 5) (a : BitVec 3) : Statement (.vmtox d a) := ⟨rfl, fun h => h⟩
theorem vsetvl (d : BitVec 5) (a : BitVec 5) : Statement (.vsetvl d a) := ⟨rfl, fun h => h⟩
theorem vcvtfi (d : BitVec 5) (a : BitVec 5) (k : BitVec 3) : Statement (.vcvtfi d a k) := ⟨rfl, fun h => h⟩
theorem vcvtfn (d : BitVec 5) (a : BitVec 5) (k : BitVec 3) : Statement (.vcvtfn d a k) := ⟨rfl, fun h => h⟩
theorem vcvtif (d : BitVec 5) (a : BitVec 5) (k : BitVec 3) : Statement (.vcvtif d a k) := ⟨rfl, fun h => h⟩
theorem vcvtnf (d : BitVec 5) (a : BitVec 5) (k : BitVec 3) : Statement (.vcvtnf d a k) := ⟨rfl, fun h => h⟩
theorem venc (d : BitVec 5) (a : BitVec 5) (b : BitVec 3) (k : BitVec 3) : Statement (.venc d a b k) := ⟨rfl, fun h => h⟩
theorem vdec (d : BitVec 5) (a : BitVec 5) (b : BitVec 3) (k : BitVec 3) : Statement (.vdec d a b k) := ⟨rfl, fun h => h⟩
theorem rgkey (a : BitVec 5) : Statement (.rgkey a) := ⟨rfl, fun h => h⟩
theorem rgctr (a : BitVec 5) (b : BitVec 5) : Statement (.rgctr a b) := ⟨rfl, fun h => h⟩
theorem rggen (d : BitVec 5) (k : BitVec 3) : Statement (.rggen d k) := ⟨rfl, fun h => h⟩
theorem rgskip (a : BitVec 5) (b : BitVec 5) : Statement (.rgskip a b) := ⟨rfl, fun h => h⟩
theorem rgst (a : BitVec 5) : Statement (.rgst a) := ⟨rfl, fun h => h⟩
theorem rgld (a : BitVec 5) : Statement (.rgld a) := ⟨rfl, fun h => h⟩
theorem mclm (u : BitVec 5) : Statement (.mclm u) := ⟨rfl, fun h => h⟩
theorem mrel (w : BitVec 8) (e : BitVec 1) (z : BitVec 3) (u : BitVec 5) : Statement (.mrel w e z u) := ⟨rfl, fun h => h⟩
theorem mfil (w : BitVec 8) (e : BitVec 1) (z : BitVec 3) (s : BitVec 3) (b : BitVec 5) : Statement (.mfil w e z s b) := ⟨rfl, fun h => h⟩
theorem mfts (w : BitVec 8) (e : BitVec 1) (z : BitVec 3) (s : BitVec 3) (b : BitVec 5) : Statement (.mfts w e z s b) := ⟨rfl, fun h => h⟩
theorem mma (w : BitVec 8) (e : BitVec 1) (z : BitVec 3) (c : BitVec 2) (x : BitVec 3) (y : BitVec 3) : Statement (.mma w e z c x y) := ⟨rfl, fun h => h⟩
theorem mmat (w : BitVec 8) (e : BitVec 1) (z : BitVec 3) (c : BitVec 2) (x : BitVec 3) (y : BitVec 3) : Statement (.mmat w e z c x y) := ⟨rfl, fun h => h⟩
theorem mopr (w : BitVec 8) (e : BitVec 1) (z : BitVec 3) (c : BitVec 2) (x : BitVec 3) (y : BitVec 3) : Statement (.mopr w e z c x y) := ⟨rfl, fun h => h⟩
theorem mza (w : BitVec 8) (e : BitVec 1) (z : BitVec 3) (c : BitVec 2) : Statement (.mza w e z c) := ⟨rfl, fun h => h⟩
theorem mdrn (w : BitVec 8) (e : BitVec 1) (z : BitVec 3) (c : BitVec 2) (b : BitVec 5) : Statement (.mdrn w e z c b) := ⟨rfl, fun h => h⟩
theorem msetWrite (a : BitVec 5) (b : BitVec 5) : Statement (.msetWrite a b) := ⟨rfl, fun h => h⟩
theorem msetRead (a : BitVec 5) (b : BitVec 5) : Statement (.msetRead a b) := ⟨rfl, fun h => h⟩
theorem msetReadClear (a : BitVec 5) (b : BitVec 5) : Statement (.msetReadClear a b) := ⟨rfl, fun h => h⟩
theorem mwait (w : BitVec 8) : Statement (.mwait w) := ⟨rfl, fun h => h⟩
theorem xcp (e : BitVec 4) (t : BitVec 3) (a : BitVec 5) : Statement (.xcp e t a) := ⟨rfl, fun h => h⟩
theorem xadv (e : BitVec 4) (t : BitVec 3) (a : BitVec 5) : Statement (.xadv e t a) := ⟨rfl, fun h => h⟩
theorem xtlw (t : BitVec 3) (a : BitVec 5) : Statement (.xtlw t a) := ⟨rfl, fun h => h⟩
theorem xtlwTk (b : BitVec 5) : Statement (.xtlwTk b) := ⟨rfl, fun h => h⟩
theorem xfen (t : BitVec 3) (a : BitVec 5) : Statement (.xfen t a) := ⟨rfl, fun h => h⟩
theorem pbinv (e : BitVec 4) (a : BitVec 5) : Statement (.pbinv e a) := ⟨rfl, fun h => h⟩
theorem xmc (e : BitVec 4) (t : BitVec 3) (a : BitVec 5) : Statement (.xmc e t a) := ⟨rfl, fun h => h⟩
theorem xred (e : BitVec 4) (t : BitVec 3) (a : BitVec 5) : Statement (.xred e t a) := ⟨rfl, fun h => h⟩
theorem xat (e : BitVec 4) (t : BitVec 3) (a : BitVec 5) : Statement (.xat e t a) := ⟨rfl, fun h => h⟩
theorem tsz (e : BitVec 4) (t : BitVec 3) (a : BitVec 5) : Statement (.tsz e t a) := ⟨rfl, fun h => h⟩
theorem tsc (e : BitVec 4) (t : BitVec 3) (a : BitVec 5) (b : BitVec 5) : Statement (.tsc e t a b) := ⟨rfl, fun h => h⟩
theorem tscmp (e : BitVec 4) (t : BitVec 3) (a : BitVec 5) (b : BitVec 5) : Statement (.tscmp e t a b) := ⟨rfl, fun h => h⟩
theorem tsf : Statement (.tsf) := ⟨rfl, fun h => h⟩
theorem thb (a : BitVec 5) (b : BitVec 5) : Statement (.thb a b) := ⟨rfl, fun h => h⟩
theorem thu (b : BitVec 5) : Statement (.thu b) := ⟨rfl, fun h => h⟩
theorem prcfg (p : BitVec 2) (a : BitVec 5) : Statement (.prcfg p a) := ⟨rfl, fun h => h⟩
theorem prput (p : BitVec 2) (t : BitVec 3) (a : BitVec 5) (b : BitVec 5) : Statement (.prput p t a b) := ⟨rfl, fun h => h⟩
theorem prupd (p : BitVec 2) (t : BitVec 3) (a : BitVec 5) (b : BitVec 5) : Statement (.prupd p t a b) := ⟨rfl, fun h => h⟩
theorem prdraw (p : BitVec 2) (t : BitVec 3) (a : BitVec 5) (b : BitVec 5) : Statement (.prdraw p t a b) := ⟨rfl, fun h => h⟩
theorem prwt (p : BitVec 2) (t : BitVec 3) (a : BitVec 5) (b : BitVec 5) : Statement (.prwt p t a b) := ⟨rfl, fun h => h⟩
theorem prsum (p : BitVec 2) (t : BitVec 3) (a : BitVec 5) : Statement (.prsum p t a) := ⟨rfl, fun h => h⟩
theorem prclr (p : BitVec 2) : Statement (.prclr p) := ⟨rfl, fun h => h⟩
theorem sgcfg (a : BitVec 5) : Statement (.sgcfg a) := ⟨rfl, fun h => h⟩
theorem sgcfgRelease (a : BitVec 5) : Statement (.sgcfgRelease a) := ⟨rfl, fun h => h⟩
theorem sginc (t : BitVec 3) (a : BitVec 5) (b : BitVec 5) : Statement (.sginc t a b) := ⟨rfl, fun h => h⟩
theorem sgjoin (t : BitVec 3) (a : BitVec 5) (b : BitVec 5) : Statement (.sgjoin t a b) := ⟨rfl, fun h => h⟩
theorem sglog (t : BitVec 3) (a : BitVec 5) : Statement (.sglog t a) := ⟨rfl, fun h => h⟩
theorem sgrd (t : BitVec 3) (a : BitVec 5) : Statement (.sgrd t a) := ⟨rfl, fun h => h⟩
theorem sgclr (t : BitVec 3) : Statement (.sgclr t) := ⟨rfl, fun h => h⟩
theorem qmopen (m : BitVec 4) (a : BitVec 5) : Statement (.qmopen m a) := ⟨rfl, fun h => h⟩
theorem qmjoin (m : BitVec 4) (t : BitVec 3) (a : BitVec 5) (b : BitVec 5) : Statement (.qmjoin m t a b) := ⟨rfl, fun h => h⟩
theorem qmwait (m : BitVec 4) (a : BitVec 5) : Statement (.qmwait m a) := ⟨rfl, fun h => h⟩
theorem qmrecRead (m : BitVec 4) (t : BitVec 3) (a : BitVec 5) (b : BitVec 5) : Statement (.qmrecRead m t a b) := ⟨rfl, fun h => h⟩
theorem qmrecForce (m : BitVec 4) (t : BitVec 3) (a : BitVec 5) (b : BitVec 5) : Statement (.qmrecForce m t a b) := ⟨rfl, fun h => h⟩
theorem qmexcl (m : BitVec 4) (b : BitVec 5) : Statement (.qmexcl m b) := ⟨rfl, fun h => h⟩
theorem qmclose (m : BitVec 4) : Statement (.qmclose m) := ⟨rfl, fun h => h⟩
theorem csrr (d : BitVec 5) (c : BitVec 10) : Statement (.csrr d c) := ⟨rfl, fun h => h⟩
theorem csrw (d : BitVec 5) (a : BitVec 5) (c : BitVec 10) : Statement (.csrw d a c) := ⟨rfl, fun h => h⟩
theorem csrs (d : BitVec 5) (a : BitVec 5) (c : BitVec 10) : Statement (.csrs d a c) := ⟨rfl, fun h => h⟩
theorem csrc (d : BitVec 5) (a : BitVec 5) (c : BitVec 10) : Statement (.csrc d a c) := ⟨rfl, fun h => h⟩
theorem trap (i : BitVec 10) : Statement (.trap i) := ⟨rfl, fun h => h⟩
theorem rfe : Statement (.rfe) := ⟨rfl, fun h => h⟩
theorem brk (i : BitVec 10) : Statement (.brk i) := ⟨rfl, fun h => h⟩
theorem pbinva : Statement (.pbinva) := ⟨rfl, fun h => h⟩
theorem wfe (i : BitVec 10) : Statement (.wfe i) := ⟨rfl, fun h => h⟩
theorem diag (a : BitVec 5) (i : BitVec 10) : Statement (.diag a i) := ⟨rfl, fun h => h⟩
theorem statWrite (f : CsrFn) (d a : BitVec 5) : Statement (.statWrite f d a) := ⟨rfl, fun h => h⟩
theorem abortWrite (f : CsrFn) (d a : BitVec 5) : Statement (.abortWrite f d a) := ⟨rfl, fun h => h⟩
theorem abcontWrite (f : CsrFn) (d a : BitVec 5) : Statement (.abcontWrite f d a) := ⟨rfl, fun h => h⟩
theorem lensWrite (n : BitVec 3) (f : CsrFn) (d a : BitVec 5) : Statement (.lensWrite n f d a) := ⟨rfl, fun h => h⟩
theorem frmWrite (f : CsrFn) (d a : BitVec 5) : Statement (.frmWrite f d a) := ⟨rfl, fun h => h⟩
theorem fflagsAccess (f : CsrFn) (d a : BitVec 5) : Statement (.fflagsAccess f d a) := ⟨rfl, fun h => h⟩
theorem vlWrite (f : CsrFn) (d a : BitVec 5) : Statement (.vlWrite f d a) := ⟨rfl, fun h => h⟩
theorem lwgtWrite (f : CsrFn) (d a : BitVec 5) : Statement (.lwgtWrite f d a) := ⟨rfl, fun h => h⟩
theorem wspillWrite (f : CsrFn) (d a : BitVec 5) : Statement (.wspillWrite f d a) := ⟨rfl, fun h => h⟩
theorem wdepthWrite (f : CsrFn) (d a : BitVec 5) : Statement (.wdepthWrite f d a) := ⟨rfl, fun h => h⟩
theorem xtlWrite (n : BitVec 3) (f : CsrFn) (d a : BitVec 5) : Statement (.xtlWrite n f d a) := ⟨rfl, fun h => h⟩
theorem pwsizeWrite (f : CsrFn) (d a : BitVec 5) : Statement (.pwsizeWrite f d a) := ⟨rfl, fun h => h⟩
theorem detstatWrite (f : CsrFn) (d a : BitVec 5) : Statement (.detstatWrite f d a) := ⟨rfl, fun h => h⟩
theorem stageWrite (f : CsrFn) (d a : BitVec 5) : Statement (.stageWrite f d a) := ⟨rfl, fun h => h⟩
theorem launchDoorbell (q : Doorbell) (v : BitVec 32) : Statement (.launchDoorbell q v) := ⟨rfl, fun h => h⟩
theorem adminDoorbell (v : BitVec 32) : Statement (.adminDoorbell v) := ⟨rfl, fun h => h⟩
theorem swpintWrite (v : BitVec 32) : Statement (.swpintWrite v) := ⟨rfl, fun h => h⟩
theorem plwaitWrite (v : BitVec 32) : Statement (.plwaitWrite v) := ⟨rfl, fun h => h⟩
theorem fgapWrite (v : BitVec 32) : Statement (.fgapWrite v) := ⟨rfl, fun h => h⟩
theorem fstatClear (v : BitVec 64) : Statement (.fstatClear v) := ⟨rfl, fun h => h⟩
theorem prQlimWrite (die : BitVec 3) (v : BitVec 64) : Statement (.prQlimWrite die v) := ⟨rfl, fun h => h⟩
theorem sgQlimWrite (die : BitVec 3) (v : BitVec 64) : Statement (.sgQlimWrite die v) := ⟨rfl, fun h => h⟩
theorem ceConfigWrite (die : BitVec 3) (v : BitVec 64) : Statement (.ceConfigWrite die v) := ⟨rfl, fun h => h⟩
theorem reliabilityStickyClear (die : BitVec 3) (v : BitVec 64) : Statement (.reliabilityStickyClear die v) := ⟨rfl, fun h => h⟩
theorem plimitWrite (v : BitVec 64) : Statement (.plimitWrite v) := ⟨rfl, fun h => h⟩
theorem deviceRegisterWrite (off : BitVec 32) (size : DevSize) (v : BitVec 64) : Statement (.deviceRegisterWrite off size v) := ⟨rfl, fun h => h⟩
theorem launchCommand (q : BitVec 6) (e : Option (BitVec 512)) : Statement (.launchCommand q e) := ⟨rfl, fun h => h⟩
theorem placement (lnum : BitVec 16) : Statement (.placement lnum) := ⟨rfl, fun h => h⟩
theorem plwaitExpiry (lnum : BitVec 16) : Statement (.plwaitExpiry lnum) := ⟨rfl, fun h => h⟩
theorem createQueue (e : BitVec 512) : Statement (.createQueue e) := ⟨rfl, fun h => h⟩
theorem destroyQueue (e : BitVec 512) : Statement (.destroyQueue e) := ⟨rfl, fun h => h⟩
theorem mapSpace (e : BitVec 512) : Statement (.mapSpace e) := ⟨rfl, fun h => h⟩
theorem unmapSpace (e : BitVec 512) : Statement (.unmapSpace e) := ⟨rfl, fun h => h⟩
theorem invalidate (e : BitVec 512) : Statement (.invalidate e) := ⟨rfl, fun h => h⟩
theorem jobDeclare (e : BitVec 512) (pkgs : Operand) : Statement (.jobDeclare e pkgs) := ⟨rfl, fun h => h⟩
theorem suspend (e : BitVec 512) : Statement (.suspend e) := ⟨rfl, fun h => h⟩
theorem resume (e : BitVec 512) : Statement (.resume e) := ⟨rfl, fun h => h⟩
theorem drain (e : BitVec 512) : Statement (.drain e) := ⟨rfl, fun h => h⟩
theorem drainComplete (die : BitVec 3) (part : BitVec 6) : Statement (.drainComplete die part) := ⟨rfl, fun h => h⟩
theorem testRepair (e : BitVec 512) : Statement (.testRepair e) := ⟨rfl, fun h => h⟩
theorem testRepairComplete (die : BitVec 3) (part : BitVec 6) (usable : Bool) (log : List (BitVec 128)) : Statement (.testRepairComplete die part usable log) := ⟨rfl, fun h => h⟩
theorem resumePart (e : BitVec 512) : Statement (.resumePart e) := ⟨rfl, fun h => h⟩
theorem attest (e : BitVec 512) : Statement (.attest e) := ⟨rfl, fun h => h⟩
theorem formEnclave (e : BitVec 512) (members values : Operand) (f : Formation) : Statement (.formEnclave e members values f) := ⟨rfl, fun h => h⟩
theorem revoke (e : BitVec 512) : Statement (.revoke e) := ⟨rfl, fun h => h⟩
theorem window (e : BitVec 512) (members : Operand) : Statement (.window e members) := ⟨rfl, fun h => h⟩
theorem unwindow (e : BitVec 512) : Statement (.unwindow e) := ⟨rfl, fun h => h⟩
theorem periscope (e : BitVec 512) : Statement (.periscope e) := ⟨rfl, fun h => h⟩
theorem pick (sq : BitVec 16) : Statement (.pick sq) := ⟨rfl, fun h => h⟩
theorem recordReady (grp : BitVec 10) (slot : BitVec 8) : Statement (.recordReady grp slot) := ⟨rfl, fun h => h⟩
theorem waitHoldExpiry (sq : BitVec 16) : Statement (.waitHoldExpiry sq) := ⟨rfl, fun h => h⟩
theorem holdRelease (sq : BitVec 16) : Statement (.holdRelease sq) := ⟨rfl, fun h => h⟩
theorem spillWriteOut (grp : BitVec 10) : Statement (.spillWriteOut grp) := ⟨rfl, fun h => h⟩
theorem recordWriteBack (sq : BitVec 16) : Statement (.recordWriteBack sq) := ⟨rfl, fun h => h⟩
theorem barrierArrival (lnum : BitVec 16) (lv : BitVec 2) (unit : BitVec 10) (member : BitVec 11) (ext : Option Arrival) : Statement (.barrierArrival lnum lv unit member ext) := ⟨rfl, fun h => h⟩
theorem barrierComplete (lnum : BitVec 16) (lv : BitVec 2) (unit : BitVec 10) : Statement (.barrierComplete lnum lv unit) := ⟨rfl, fun h => h⟩
theorem computePhaseBegin (lnum : BitVec 16) (lv : BitVec 2) (unit : BitVec 10) : Statement (.computePhaseBegin lnum lv unit) := ⟨rfl, fun h => h⟩
theorem sweep (lnum : BitVec 16) (far : Option FarSweep) : Statement (.sweep lnum far) := ⟨rfl, fun h => h⟩
theorem preemptStop (sq : BitVec 16) : Statement (.preemptStop sq) := ⟨rfl, fun h => h⟩
theorem asyncTrapEntry (sq : BitVec 16) : Statement (.asyncTrapEntry sq) := ⟨rfl, fun h => h⟩
theorem stationFault (sq : BitVec 16) : Statement (.stationFault sq) := ⟨rfl, fun h => h⟩
theorem vectorBind (tile : BitVec 14) : Statement (.vectorBind tile) := ⟨rfl, fun h => h⟩
theorem matrixDispatch (tile : BitVec 14) : Statement (.matrixDispatch tile) := ⟨rfl, fun h => h⟩
theorem matrixRetire (sq : BitVec 16) : Statement (.matrixRetire sq) := ⟨rfl, fun h => h⟩
theorem copyStart (die : BitVec 3) (id : Nat) : Statement (.copyStart die id) := ⟨rfl, fun h => h⟩
theorem tokenComplete (die : BitVec 3) (id : Nat) : Statement (.tokenComplete die id) := ⟨rfl, fun h => h⟩
theorem copyPerformed (die : BitVec 3) (id : Nat) : Statement (.copyPerformed die id) := ⟨rfl, fun h => h⟩
theorem tsOpComplete (die : BitVec 3) (id : Nat) : Statement (.tsOpComplete die id) := ⟨rfl, fun h => h⟩
theorem messageDelivery (id : Nat) : Statement (.messageDelivery id) := ⟨rfl, fun h => h⟩
theorem prCommandExecute (die : BitVec 3) (tree : BitVec 2) : Statement (.prCommandExecute die tree) := ⟨rfl, fun h => h⟩
theorem sgCommandExecute (grp : BitVec 10) : Statement (.sgCommandExecute grp) := ⟨rfl, fun h => h⟩
theorem qmContributionArrival (grp : BitVec 10) (meeting : BitVec 4) (c : Contribution) : Statement (.qmContributionArrival grp meeting c) := ⟨rfl, fun h => h⟩
theorem qmResultArrival (grp : BitVec 10) (meeting : BitVec 4) (tag : BitVec 32) (vals : List (BitVec 32)) : Statement (.qmResultArrival grp meeting tag vals) := ⟨rfl, fun h => h⟩
theorem packetWrite (p : Packet) : Statement (.packetWrite p) := ⟨rfl, fun h => h⟩
theorem packetReadRequest (p : Packet) : Statement (.packetReadRequest p) := ⟨rfl, fun h => h⟩
theorem packetReadData (p : Packet) : Statement (.packetReadData p) := ⟨rfl, fun h => h⟩
theorem packetAtomic (p : Packet) : Statement (.packetAtomic p) := ⟨rfl, fun h => h⟩
theorem packetAtomicReturn (p : Packet) : Statement (.packetAtomicReturn p) := ⟨rfl, fun h => h⟩
theorem packetReductionContribution (p : Packet) : Statement (.packetReductionContribution p) := ⟨rfl, fun h => h⟩
theorem packetAcknowledgement (p : Packet) (busy : Bool) (outcome : BitVec 3) : Statement (.packetAcknowledgement p busy outcome) := ⟨rfl, fun h => h⟩
theorem packetControl (p : Packet) : Statement (.packetControl p) := ⟨rfl, fun h => h⟩
theorem orderedFlagPerform (src : BitVec 16) (ctx : BitVec 16) : Statement (.orderedFlagPerform src ctx) := ⟨rfl, fun h => h⟩
theorem ackTimeout (die : BitVec 3) (ctx : BitVec 12) (dst : BitVec 11) (oseq : BitVec 32) : Statement (.ackTimeout die ctx dst oseq) := ⟨rfl, fun h => h⟩
theorem windowDelivery (win : BitVec 4) (round : BitVec 16) (closed : Bool) : Statement (.windowDelivery win round closed) := ⟨rfl, fun h => h⟩
theorem jobAnnounce (pkg : BitVec 11) (job : BitVec 32) (space : BitVec 16) : Statement (.jobAnnounce pkg job space) := ⟨rfl, fun h => h⟩
theorem flitCrcError (f : FailedFlit) : Statement (.flitCrcError f) := ⟨rfl, fun h => h⟩
theorem linkDown (port : BitVec 7) : Statement (.linkDown port) := ⟨rfl, fun h => h⟩
theorem keepAlive (b : KeepAliveBeat) : Statement (.keepAlive b) := ⟨rfl, fun h => h⟩
theorem creditReturn (port : BitVec 7) (vc : BitVec 2) (hop : BitVec 2) (total : BitVec 16) : Statement (.creditReturn port vc hop total) := ⟨rfl, fun h => h⟩
theorem keyRotation (domain : BitVec 16) (gen : BitVec 8) (excluded : List (BitVec 11)) (secret : BitVec 384) : Statement (.keyRotation domain gen excluded secret) := ⟨rfl, fun h => h⟩
theorem generationRetire (domain : BitVec 16) : Statement (.generationRetire domain) := ⟨rfl, fun h => h⟩
theorem revokeHalt (domain : BitVec 16) : Statement (.revokeHalt domain) := ⟨rfl, fun h => h⟩
theorem getVersion (r : SpdmRequest) : Statement (.getVersion r) := ⟨rfl, fun h => h⟩
theorem getCapabilities (r : SpdmRequest) : Statement (.getCapabilities r) := ⟨rfl, fun h => h⟩
theorem negotiateAlgorithms (r : SpdmRequest) : Statement (.negotiateAlgorithms r) := ⟨rfl, fun h => h⟩
theorem getDigests (r : SpdmRequest) : Statement (.getDigests r) := ⟨rfl, fun h => h⟩
theorem getCertificate (r : SpdmRequest) : Statement (.getCertificate r) := ⟨rfl, fun h => h⟩
theorem challenge (r : SpdmRequest) : Statement (.challenge r) := ⟨rfl, fun h => h⟩
theorem getMeasurements (r : SpdmRequest) : Statement (.getMeasurements r) := ⟨rfl, fun h => h⟩
theorem keyExchange (r : SpdmRequest) : Statement (.keyExchange r) := ⟨rfl, fun h => h⟩
theorem finish (r : SpdmRequest) : Statement (.finish r) := ⟨rfl, fun h => h⟩
theorem keyUpdate (r : SpdmRequest) : Statement (.keyUpdate r) := ⟨rfl, fun h => h⟩
theorem endSession (r : SpdmRequest) : Statement (.endSession r) := ⟨rfl, fun h => h⟩
theorem unsupportedRequest (r : SpdmRequest) : Statement (.unsupportedRequest r) := ⟨rfl, fun h => h⟩
theorem tdiError (fn : BitVec 4) : Statement (.tdiError fn) := ⟨rfl, fun h => h⟩
theorem powerOn (b : Boot) : Statement (.powerOn b) := ⟨rfl, fun h => h⟩
theorem epochTick : Statement (.epochTick) := ⟨rfl, fun h => h⟩
theorem powerMeasure (milliwatts : BitVec 32) : Statement (.powerMeasure milliwatts) := ⟨rfl, fun h => h⟩
theorem junctionOvertemp : Statement (.junctionOvertemp) := ⟨rfl, fun h => h⟩
theorem thermalPowerOff (belowLimit : Bool) : Statement (.thermalPowerOff belowLimit) := ⟨rfl, fun h => h⟩
theorem correctedError (die : BitVec 3) (loc : BitVec 64) (second : BitVec 32) (spare : Bool) : Statement (.correctedError die loc second spare) := ⟨rfl, fun h => h⟩
theorem patrolRead (unit : Nat) : Statement (.patrolRead unit) := ⟨rfl, fun h => h⟩
theorem wfeTimeout (sq : BitVec 16) : Statement (.wfeTimeout sq) := ⟨rfl, fun h => h⟩
theorem illegalInstruction (w : BitVec 32) : Statement (.illegalInstruction w) := ⟨rfl, fun h => h⟩
theorem qmCommandExecute (grp : BitVec 10) (meeting : BitVec 4) : Statement (.qmCommandExecute grp meeting) := ⟨rfl, fun h => h⟩
theorem tdispLock (fn : BitVec 4) : Statement (.tdispLock fn) := ⟨rfl, fun h => h⟩
theorem tdispRun (fn : BitVec 4) : Statement (.tdispRun fn) := ⟨rfl, fun h => h⟩
theorem ideKm (stream : BitVec 4) (session : BitVec 32) (key : BitVec 256) : Statement (.ideKm stream session key) := ⟨rfl, fun h => h⟩
theorem adminUnknownOp (e : BitVec 512) : Statement (.adminUnknownOp e) := ⟨rfl, fun h => h⟩

end Sys2Proof.Laws.CanonWord
end

