-- ==== Sys2Proof/Laws/Relinked.lean ====
section
/-! SUPPORT. What does not rest on the fabric's links and on the packets that have arrived: a table walk, a translation, the bytes that a packet
names, and whether a contribution meets a fault at its window. -/

namespace Sys2Proof.Machine
/-- The sources and links of the fabric are no part of a table walk. -/
theorem State.walk_relinked (s : State) (srcs : Tab SrcCtx) (links : Tab Link) (space va : Nat) :
    State.walk { s with srcs := srcs, links := links } space va = s.walk space va := by
  have h : ∀ ls base, State.walkFrom { s with srcs := srcs, links := links } va ls base = s.walkFrom va ls base := by
    intro ls
    induction ls with
    | nil => exact fun _ => rfl
    | cons l ls ih =>
      intro base
      have he : ∀ pa, State.readEntry { s with srcs := srcs, links := links } pa = s.readEntry pa := fun _ => rfl
      simp only [State.walkFrom, he, ih]
  simp only [State.walk, h]

/-- Nor of a translation, which leaves them as they are. -/
theorem State.translate_relinked (s : State) (srcs : Tab SrcCtx) (links : Tab Link) (die space va : Nat) :
    State.translate { s with srcs := srcs, links := links } die space va =
      (s.translate die space va).map (fun r => (r.1, r.2.1, { r.2.2 with srcs := srcs, links := links })) := by
  unfold State.translate
  simp only [State.walk_relinked]
  have hd : State.dieAt { s with srcs := srcs, links := links } die = s.dieAt die := rfl
  simp only [hd]
  repeat' split
  all_goals first | rfl | contradiction

theorem State.virtKeys_relinked (die space : Nat) (write : Bool) (srcs : Tab SrcCtx) (links : Tab Link) (n : Nat) :
    ∀ (s : State) (a : Word), State.virtKeys { s with srcs := srcs, links := links } die space write a n =
      (s.virtKeys die space write a n).map (fun r => (r.1, { r.2 with srcs := srcs, links := links })) := by
  induction n with
  | zero => exact fun _ _ => rfl
  | succ n ih =>
    intro s a
    simp only [State.virtKeys, State.translate_relinked]
    split
    · rfl
    · cases s.translate die space a.toNat with
      | error e => rfl
      | ok r =>
        simp only [Except.map, ih]
        have hi : ∀ k, State.allows { s with srcs := srcs, links := links } space a.toNat r.1 k = s.allows space a.toNat r.1 k := fun _ => rfl
        simp only [hi]
        cases r.2.2.virtKeys die space write (a + 1) n <;> by_cases h : (physKind s.form r.2.1 = some .dev ∨
          (!s.allows space a.toNat r.1 (if write then .st else .ld)) = true ∨ write = true ∧ entryAttr r.1 ≠ 0) <;>
          simp only [h, if_true, if_false]

/-- Whether a contribution meets a fault at its window does not rest on the links or on what packets have arrived. -/
theorem State.contributionFaults_relinked (s : State) (srcs : Tab SrcCtx) (links : Tab Link) (w : Window) (p : Packet) :
    State.contributionFaults { s with srcs := srcs, links := links } w p = s.contributionFaults w p := by
  have h : ∀ a, (State.windowKeys { s with srcs := srcs, links := links } w a).isNone = (s.windowKeys w a).isNone := by
    intro a
    simp only [State.windowKeys, State.virtKeys_relinked]
    cases s.virtKeys 0 w.space true (BitVec.ofNat 64 a) (windowSize w.op) with
    | error e => rfl
    | ok r =>
      have hb : ∀ k, State.isBad { r.2 with srcs := srcs, links := links } k 1 = r.2.isBad k 1 := fun _ => rfl
      simp only [Except.map, hb]
      split <;> rfl
  simp only [State.contributionFaults, h]

end Sys2Proof.Machine
end

