-- ==== Sys2Proof/Tests/Slice0.lean ====
section
/-! SUPPORT. Tests: ill-formed instructions that the checks refuse, words of the spec decoded, values of the spec's tables, and for each statement
states that meet its hypotheses. -/

namespace Sys2Proof.Tests
set_option Elab.async false
open Sys2Proof.Machine Sys2Proof.Spec

/-! ## Small states -/

/-- A continuation in user mode on tile 0, role 2, of launch 1, whose footprint is group 0 and whose handler is at 0x4000. -/
def user : State :=
  { State.reset with
    bootStep := 8
    q := { Seq.reset 2 with mode := .run, k := { Cont.reset with pc := fetchPc, lnum := 1, party := 1, csr := [(0x005, 0x4000), (0x020, 64), (0x032, 16)] } }
    launches := [(1, { State.Launch.empty with space := 1, foot := List.range 16 })]
    spaces := [(1, { root := 0x100000, parts := 1, bytes := 0x1800000 })] }
def withRegs (s : State) (xs : List (Nat × Word)) : State := s.setK { s.q.k with gpr := xs.foldl (fun g p => put g p.1 p.2) s.q.k.gpr }
def withCsrs (s : State) (xs : List (Nat × Word)) : State := xs.foldl (fun s p => s.setCsr p.1 p.2) s
/-- Runtime mode. -/
def runtime : State := withCsrs user [(0x000, 1)]
/-- The launch of `user`, changed. -/
def withLaunch (s : State) (f : Launch → Launch) : State := { s with launches := s.launches.map (fun p => (p.1, f p.2)) }
/-- With one 64 KiB page of space 1 mapped for reading, writing and fetching, from 2^40. -/
def mapped : State := fetchPages user 0
/-- What a test reads of the state that an instruction answers. -/
def after {α : Type} (i : Instr) (s : State) (f : State → α) : Option α :=
  match exec i s with
  | .next t => some (f t)
  | _ => none
def next? (i : Instr) (s : State) : Bool := (after i s (fun _ => ())).isSome

/-! ## Ill-formed instructions: one that each check refuses, and its word decodes to nothing -/

theorem test_illFormed_csr : (Instr.csrr 1 0x016).wellFormed = false ∧ decode 0xC0200016#32 = .error .reservedValue := by decide +kernel
theorem test_illFormed_scope : (Instr.fence 5).wellFormed = false ∧ decode 0x580000A0#32 = .error .reservedValue := by decide +kernel
theorem test_illFormed_span : (Instr.extz 1 2 63 1).wellFormed = false ∧ (decode 0x2C227F01#32).isOk = false := by decide +kernel
theorem test_illFormed_unit : (Instr.mclm 12).wellFormed = false ∧ (Instr.mrel 0 0 0 12).wellFormed = false := by decide +kernel
theorem test_illFormed_set : (Instr.mza 1 1 0 0).wellFormed = false ∧ (Instr.mza 0 0 1 0).wellFormed = false := by decide +kernel
theorem test_illFormed_engine : (Instr.xcp 6 0 1).wellFormed = false ∧ (Instr.tsz 15 0 1).wellFormed = false := by decide +kernel
theorem test_illFormed_order : (Instr.ldsg 1 2 2 0 0).wellFormed = false := by decide +kernel
theorem test_illFormed_role : (Instr.spawn 1 2 0 3).wellFormed = false := by decide +kernel
theorem test_illFormed_mask : (Instr.vceqF 0 1 2 0).wellFormed = false ∧ (Instr.vmand 0 1 2).wellFormed = false := by decide +kernel
theorem test_illFormed_lens : (Instr.venc 1 2 0 0).wellFormed = false := by decide +kernel
theorem test_illFormed_tokens : (Instr.xtlwTk 0).wellFormed = false := by decide +kernel

/-- 11 R119: the word of zeros and the word of ones are reserved; so is a word whose must-be-zero field is not zero. -/
theorem test_decode_reserved :
    decode 0#32 = .error .reservedOpcode ∧ decode 0xFFFFFFFF#32 = .error .reservedOpcode ∧ decode 0x0422081C#32 = .error .fixedField := by
  decide +kernel

/-! ## Decoding: one word of each row that has an encoding, written from 11 R107 to R118 -/

theorem test_decode_opcode_01 :
    ∀ p ∈ ([(0x07527800#32, Instr.add 26 18 15), (0x07527801#32, Instr.sub 26 18 15), (0x07527802#32, Instr.and 26 18 15),
      (0x07527803#32, Instr.or 26 18 15), (0x07527804#32, Instr.xor 26 18 15), (0x07527805#32, Instr.andn 26 18 15),
      (0x07527806#32, Instr.orn 26 18 15), (0x07527807#32, Instr.xnor 26 18 15), (0x07527808#32, Instr.sll 26 18 15),
      (0x07527809#32, Instr.srl 26 18 15), (0x0752780A#32, Instr.sra 26 18 15), (0x0752780B#32, Instr.rol 26 18 15),
      (0x0752780C#32, Instr.ror 26 18 15), (0x0752780D#32, Instr.min 26 18 15), (0x0752780E#32, Instr.max 26 18 15),
      (0x0752780F#32, Instr.minn 26 18 15), (0x07527810#32, Instr.maxn 26 18 15), (0x07527811#32, Instr.slt 26 18 15),
      (0x07527812#32, Instr.sltn 26 18 15), (0x07527813#32, Instr.seq 26 18 15), (0x07527814#32, Instr.sne 26 18 15),
      (0x07527815#32, Instr.mul 26 18 15), (0x07527816#32, Instr.mulh 26 18 15), (0x07527817#32, Instr.mulhn 26 18 15),
      (0x07527818#32, Instr.div 26 18 15), (0x07527819#32, Instr.divn 26 18 15), (0x0752781A#32, Instr.rem 26 18 15),
      (0x0752781B#32, Instr.remn 26 18 15), (0x0752001C#32, Instr.clz 26 18), (0x0752001D#32, Instr.ctz 26 18),
      (0x0752001E#32, Instr.popc 26 18), (0x0752001F#32, Instr.brev 26 18), (0x07520020#32, Instr.bswap 26 18),
      (0x07527821#32, Instr.addw 26 18 15), (0x07527822#32, Instr.subw 26 18 15), (0x07527823#32, Instr.mulw 26 18 15),
      (0x07527824#32, Instr.sllw 26 18 15), (0x07527825#32, Instr.srlw 26 18 15), (0x07527826#32, Instr.sraw 26 18 15)] : List (BitVec 32 × Instr)),
      decode p.1 = .ok p.2 := by decide +kernel

theorem test_decode_opcode_02 :
    ∀ p ∈ ([(0x0B52D30F#32, Instr.addi 26 18 0xD30F)] : List (BitVec 32 × Instr)),
      decode p.1 = .ok p.2 := by decide +kernel

theorem test_decode_opcode_03 :
    ∀ p ∈ ([(0x0F52D30F#32, Instr.andi 26 18 0xD30F)] : List (BitVec 32 × Instr)),
      decode p.1 = .ok p.2 := by decide +kernel

theorem test_decode_opcode_04 :
    ∀ p ∈ ([(0x1352D30F#32, Instr.ori 26 18 0xD30F)] : List (BitVec 32 × Instr)),
      decode p.1 = .ok p.2 := by decide +kernel

theorem test_decode_opcode_05 :
    ∀ p ∈ ([(0x1752D30F#32, Instr.xori 26 18 0xD30F)] : List (BitVec 32 × Instr)),
      decode p.1 = .ok p.2 := by decide +kernel

theorem test_decode_opcode_06 :
    ∀ p ∈ ([(0x1B52D30F#32, Instr.slti 26 18 0xD30F)] : List (BitVec 32 × Instr)),
      decode p.1 = .ok p.2 := by decide +kernel

theorem test_decode_opcode_07 :
    ∀ p ∈ ([(0x1F52D30F#32, Instr.sltin 26 18 0xD30F)] : List (BitVec 32 × Instr)),
      decode p.1 = .ok p.2 := by decide +kernel

theorem test_decode_opcode_08 :
    ∀ p ∈ ([(0x2352000F#32, Instr.slli 26 18 0xF), (0x2352400F#32, Instr.srli 26 18 0xF), (0x2352800F#32, Instr.srai 26 18 0xF),
      (0x2352C00F#32, Instr.rori 26 18 0xF), (0x2352100F#32, Instr.slliW 26 18 15), (0x2352500F#32, Instr.srliW 26 18 15),
      (0x2352900F#32, Instr.sraiW 26 18 15), (0x2352D00F#32, Instr.roriW 26 18 15)] : List (BitVec 32 × Instr)),
      decode p.1 = .ok p.2 := by decide +kernel

theorem test_decode_opcode_09 :
    ∀ p ∈ ([(0x27478BD2#32, Instr.lih 26 0x78BD2)] : List (BitVec 32 × Instr)),
      decode p.1 = .ok p.2 := by decide +kernel

theorem test_decode_opcode_0A :
    ∀ p ∈ ([(0x2B478BD2#32, Instr.adpc 26 0x78BD2)] : List (BitVec 32 × Instr)),
      decode p.1 = .ok p.2 := by decide +kernel

theorem test_decode_opcode_0B :
    ∀ p ∈ ([(0x2E2A1529#32, Instr.exts 17 10 0x15 0x29), (0x2E2A5529#32, Instr.extz 17 10 0x15 0x29), (0x2E2A9529#32, Instr.dep 17 10 0x15 0x29),
      (0x2E2AD529#32, Instr.depz 17 10 0x15 0x29)] : List (BitVec 32 × Instr)),
      decode p.1 = .ok p.2 := by decide +kernel

theorem test_decode_opcode_0C :
    ∀ p ∈ ([(0x33408BD2#32, Instr.lis 26 0x8BD2)] : List (BitVec 32 × Instr)),
      decode p.1 = .ok p.2 := by decide +kernel

theorem test_decode_opcode_10 :
    ∀ p ∈ ([(0x4352130F#32, Instr.ldb 26 18 0x130F), (0x4352530F#32, Instr.ldh 26 18 0x130F), (0x4352930F#32, Instr.ldw 26 18 0x130F)] : List (BitVec 32 × Instr)),
      decode p.1 = .ok p.2 := by decide +kernel

theorem test_decode_opcode_11 :
    ∀ p ∈ ([(0x4752130F#32, Instr.ldbz 26 18 0x130F), (0x4752530F#32, Instr.ldhz 26 18 0x130F), (0x4752930F#32, Instr.ldwz 26 18 0x130F),
      (0x4752D30F#32, Instr.ldd 26 18 0x130F)] : List (BitVec 32 × Instr)),
      decode p.1 = .ok p.2 := by decide +kernel

theorem test_decode_opcode_12 :
    ∀ p ∈ ([(0x4B52130F#32, Instr.stb 26 18 0x130F), (0x4B52530F#32, Instr.sth 26 18 0x130F), (0x4B52930F#32, Instr.stw 26 18 0x130F),
      (0x4B52D30F#32, Instr.std 26 18 0x130F)] : List (BitVec 32 × Instr)),
      decode p.1 = .ok p.2 := by decide +kernel

theorem test_decode_opcode_13 :
    ∀ p ∈ ([(0x4F5202F0#32, Instr.ldsg 26 18 1 3 1)] : List (BitVec 32 × Instr)),
      decode p.1 = .ok p.2 := by decide +kernel

theorem test_decode_opcode_14 :
    ∀ p ∈ ([(0x535206F0#32, Instr.stsg 26 18 3 3 1)] : List (BitVec 32 × Instr)),
      decode p.1 = .ok p.2 := by decide +kernel

theorem test_decode_opcode_15 :
    ∀ p ∈ ([(0x57527817#32, Instr.amoadd 26 18 15 1 3 1), (0x57527857#32, Instr.amoand 26 18 15 1 3 1), (0x57527897#32, Instr.amoor 26 18 15 1 3 1),
      (0x575278D7#32, Instr.amoxor 26 18 15 1 3 1), (0x57527917#32, Instr.amosmin 26 18 15 1 3 1),
      (0x57527957#32, Instr.amosmax 26 18 15 1 3 1), (0x57527997#32, Instr.amonmin 26 18 15 1 3 1),
      (0x575279D7#32, Instr.amonmax 26 18 15 1 3 1), (0x57527A17#32, Instr.amoswap 26 18 15 1 3 1),
      (0x57527A57#32, Instr.amocas 26 18 15 1 3 1), (0x57527A97#32, Instr.amofadd 26 18 15 1 3 1)] : List (BitVec 32 × Instr)),
      decode p.1 = .ok p.2 := by decide +kernel

theorem test_decode_opcode_16 :
    ∀ p ∈ ([(0x58000060#32, Instr.fence 3), (0x58000160#32, Instr.fencea 3), (0x58000260#32, Instr.fencer 3), (0x58000360#32, Instr.tfence 3)] : List (BitVec 32 × Instr)),
      decode p.1 = .ok p.2 := by decide +kernel

theorem test_decode_opcode_17 :
    ∀ p ∈ ([(0x5C1A900F#32, Instr.msgs 26 18 15), (0x5C1A0022#32, Instr.waitc 26 2), (0x5C1A0042#32, Instr.ctradd 26 2),
      (0x5F400062#32, Instr.ctrrd 26 2), (0x5F520080#32, Instr.tkget 26 18), (0x5C1A90A0#32, Instr.tkwait 26 18),
      (0x5C1A00C0#32, Instr.tknext 26), (0x5C1A00E2#32, Instr.chwf 26 2), (0x5C1A0102#32, Instr.chwe 26 2), (0x5C1A0122#32, Instr.chap 26 2),
      (0x5C1A0142#32, Instr.chac 26 2), (0x5F400162#32, Instr.chrd 26 2), (0x5C1A9187#32, Instr.chset 26 18 7),
      (0x5C1A91A3#32, Instr.bara 26 18 3), (0x5C0001C2#32, Instr.barw 2), (0x5C1A91E6#32, Instr.spawn 26 18 1 2), (0x5C000200#32, Instr.susp),
      (0x5C000220#32, Instr.yield), (0x5C000240#32, Instr.done), (0x5C000262#32, Instr.exend 2), (0x5C000282#32, Instr.xwt 2)] : List (BitVec 32 × Instr)),
      decode p.1 = .ok p.2 := by decide +kernel

theorem test_decode_opcode_18 :
    ∀ p ∈ ([(0x606A530F#32, Instr.beq 26 18 0x130F), (0x60EA530F#32, Instr.bne 26 18 0x130F), (0x616A530F#32, Instr.blt 26 18 0x130F),
      (0x61EA530F#32, Instr.bge 26 18 0x130F), (0x626A530F#32, Instr.bltn 26 18 0x130F), (0x62EA530F#32, Instr.bgen 26 18 0x130F)] : List (BitVec 32 × Instr)),
      decode p.1 = .ok p.2 := by decide +kernel

theorem test_decode_opcode_19 :
    ∀ p ∈ ([(0x64680BD2#32, Instr.beqz 26 0xBD2), (0x64E80BD2#32, Instr.bnez 26 0xBD2), (0x65680BD2#32, Instr.bltz 26 0xBD2),
      (0x65E80BD2#32, Instr.bgez 26 0xBD2), (0x66680BD2#32, Instr.bgtz 26 0xBD2), (0x66E80BD2#32, Instr.blez 26 0xBD2)] : List (BitVec 32 × Instr)),
      decode p.1 = .ok p.2 := by decide +kernel

theorem test_decode_opcode_1A :
    ∀ p ∈ ([(0x6AB4F87A#32, Instr.j 0x2B4F87A)] : List (BitVec 32 × Instr)),
      decode p.1 = .ok p.2 := by decide +kernel

theorem test_decode_opcode_1B :
    ∀ p ∈ ([(0x6EB4F87A#32, Instr.call 0x2B4F87A)] : List (BitVec 32 × Instr)),
      decode p.1 = .ok p.2 := by decide +kernel

theorem test_decode_opcode_1C :
    ∀ p ∈ ([(0x701A0000#32, Instr.jr 26)] : List (BitVec 32 × Instr)),
      decode p.1 = .ok p.2 := by decide +kernel

theorem test_decode_opcode_1D :
    ∀ p ∈ ([(0x741A0000#32, Instr.callr 26)] : List (BitVec 32 × Instr)),
      decode p.1 = .ok p.2 := by decide +kernel

theorem test_decode_opcode_1E :
    ∀ p ∈ ([(0x78000000#32, Instr.ret)] : List (BitVec 32 × Instr)),
      decode p.1 = .ok p.2 := by decide +kernel

theorem test_decode_opcode_1F :
    ∀ p ∈ ([(0x7F520000#32, Instr.jlr 26 18)] : List (BitVec 32 × Instr)),
      decode p.1 = .ok p.2 := by decide +kernel

theorem test_decode_opcode_20 :
    ∀ p ∈ ([(0x83527900#32, Instr.vaddF 26 18 15 1), (0x83527901#32, Instr.vsubF 26 18 15 1), (0x83527902#32, Instr.vmulF 26 18 15 1),
      (0x83527903#32, Instr.vdivF 26 18 15 1), (0x83520704#32, Instr.vsqrtF 26 18 7), (0x83527905#32, Instr.vfmaF 26 18 15 1),
      (0x83527906#32, Instr.vfmsF 26 18 15 1), (0x83527907#32, Instr.vminF 26 18 15 1), (0x83527908#32, Instr.vmaxF 26 18 15 1),
      (0x83520709#32, Instr.vabsF 26 18 7), (0x8352070A#32, Instr.vnegF 26 18 7), (0x8352790B#32, Instr.vaddI 26 18 15 1),
      (0x8352790C#32, Instr.vsubI 26 18 15 1), (0x8352790D#32, Instr.vmulI 26 18 15 1), (0x8352790E#32, Instr.vmulhI 26 18 15 1),
      (0x8352790F#32, Instr.vmulhN 26 18 15 1), (0x83527910#32, Instr.vminI 26 18 15 1), (0x83527911#32, Instr.vmaxI 26 18 15 1),
      (0x83527912#32, Instr.vminN 26 18 15 1), (0x83527913#32, Instr.vmaxN 26 18 15 1), (0x83527914#32, Instr.vand 26 18 15 1),
      (0x83527915#32, Instr.vor 26 18 15 1), (0x83527916#32, Instr.vxor 26 18 15 1), (0x83527917#32, Instr.vsll 26 18 15 1),
      (0x83527918#32, Instr.vsrl 26 18 15 1), (0x83527919#32, Instr.vsra 26 18 15 1), (0x8352791A#32, Instr.vsel 26 18 15 1),
      (0x8352071B#32, Instr.vmov 26 18 7), (0x8052791C#32, Instr.vceqF 2 18 15 1), (0x8052791D#32, Instr.vcltF 2 18 15 1),
      (0x8052791E#32, Instr.vcleF 2 18 15 1), (0x8052791F#32, Instr.vcunF 2 18 15 1), (0x80527920#32, Instr.vceqI 2 18 15 1),
      (0x80527921#32, Instr.vcltI 2 18 15 1), (0x80527922#32, Instr.vcltN 2 18 15 1), (0x83520723#32, Instr.vclassF 26 18 7)] : List (BitVec 32 × Instr)),
      decode p.1 = .ok p.2 := by decide +kernel

theorem test_decode_opcode_21 :
    ∀ p ∈ ([(0x87527900#32, Instr.vaddsF 26 18 15 1), (0x87527901#32, Instr.vsubsF 26 18 15 1), (0x87527902#32, Instr.vmulsF 26 18 15 1),
      (0x87527903#32, Instr.vfmasF 26 18 15 1), (0x87527904#32, Instr.vminsF 26 18 15 1), (0x87527905#32, Instr.vmaxsF 26 18 15 1),
      (0x87527906#32, Instr.vaddsI 26 18 15 1), (0x87527907#32, Instr.vmulsI 26 18 15 1), (0x87527908#32, Instr.vslls 26 18 15 1),
      (0x87527909#32, Instr.vsrls 26 18 15 1), (0x8752790A#32, Instr.vsras 26 18 15 1), (0x8452790B#32, Instr.vceqsI 2 18 15 1),
      (0x8452790C#32, Instr.vcltsI 2 18 15 1), (0x8740970D#32, Instr.vsplat 26 18 7), (0x8752780E#32, Instr.vinsl 26 18 15),
      (0x8752780F#32, Instr.vextl 26 18 15)] : List (BitVec 32 × Instr)),
      decode p.1 = .ok p.2 := by decide +kernel

theorem test_decode_opcode_22 :
    ∀ p ∈ ([(0x8B520700#32, Instr.vld 26 18 7), (0x8B527901#32, Instr.vlds 26 18 15 1), (0x8B527902#32, Instr.vldg 26 18 15 1),
      (0x8B520703#32, Instr.vldb 26 18 7)] : List (BitVec 32 × Instr)),
      decode p.1 = .ok p.2 := by decide +kernel

theorem test_decode_opcode_23 :
    ∀ p ∈ ([(0x8F520700#32, Instr.vst 26 18 7), (0x8F527901#32, Instr.vsts 26 18 15 1), (0x8F527902#32, Instr.vstsc 26 18 15 1)] : List (BitVec 32 × Instr)),
      decode p.1 = .ok p.2 := by decide +kernel

theorem test_decode_opcode_24 :
    ∀ p ∈ ([(0x93520700#32, Instr.vraddF 26 18 7), (0x93520701#32, Instr.vraddI 26 18 7), (0x93520702#32, Instr.vrminF 26 18 7),
      (0x93520703#32, Instr.vrmaxF 26 18 7), (0x93520704#32, Instr.vrminI 26 18 7), (0x93520705#32, Instr.vrmaxI 26 18 7),
      (0x93520706#32, Instr.vrminN 26 18 7), (0x93520707#32, Instr.vrmaxN 26 18 7), (0x93520708#32, Instr.vrand 26 18 7),
      (0x93520709#32, Instr.vrior 26 18 7), (0x9352070A#32, Instr.vrxor 26 18 7), (0x9352070B#32, Instr.vscanF 26 18 7)] : List (BitVec 32 × Instr)),
      decode p.1 = .ok p.2 := by decide +kernel

theorem test_decode_opcode_25 :
    ∀ p ∈ ([(0x97527900#32, Instr.vperm 26 18 15 1), (0x97527901#32, Instr.vsldu 26 18 15 1), (0x97527902#32, Instr.vsldd 26 18 15 1),
      (0x97520703#32, Instr.vrev 26 18 7), (0x97527904#32, Instr.vzip 26 18 15 1), (0x97527905#32, Instr.vuzp 26 18 15 1),
      (0x97527906#32, Instr.vbcast 26 18 15 1), (0x97520707#32, Instr.vcomp 26 18 7)] : List (BitVec 32 × Instr)),
      decode p.1 = .ok p.2 := by decide +kernel

theorem test_decode_opcode_26 :
    ∀ p ∈ ([(0x98423800#32, Instr.vmand 2 2 7), (0x98423801#32, Instr.vmor 2 2 7), (0x98423802#32, Instr.vmxor 2 2 7),
      (0x98420003#32, Instr.vmnot 2 2), (0x9B420004#32, Instr.vmpopc 26 2), (0x9B420005#32, Instr.vmffs 26 2),
      (0x98520006#32, Instr.vmfromx 2 18), (0x9B420007#32, Instr.vmtox 26 2)] : List (BitVec 32 × Instr)),
      decode p.1 = .ok p.2 := by decide +kernel

theorem test_decode_opcode_27 :
    ∀ p ∈ ([(0x9F520000#32, Instr.vsetvl 26 18), (0x9F520701#32, Instr.vcvtfi 26 18 7), (0x9F520702#32, Instr.vcvtfn 26 18 7),
      (0x9F520703#32, Instr.vcvtif 26 18 7), (0x9F520704#32, Instr.vcvtnf 26 18 7), (0x9F523905#32, Instr.venc 26 18 7 1),
      (0x9F523906#32, Instr.vdec 26 18 7 1)] : List (BitVec 32 × Instr)),
      decode p.1 = .ok p.2 := by decide +kernel

theorem test_decode_opcode_28 :
    ∀ p ∈ ([(0xA0000160#32, Instr.mclm 11), (0xA2978560#32, Instr.mrel 0xA5 1 6 11), (0xA2978869#32, Instr.mfil 0xA5 1 6 3 9),
      (0xA2978C69#32, Instr.mfts 0xA5 1 6 3 9), (0xA2979128#32, Instr.mma 0xA5 1 6 1 1 2), (0xA2979528#32, Instr.mmat 0xA5 1 6 1 1 2),
      (0xA2979928#32, Instr.mopr 0xA5 1 6 1 1 2), (0xA2979C20#32, Instr.mza 0xA5 1 6 1), (0xA297A029#32, Instr.mdrn 0xA5 1 6 1 9),
      (0xA0002752#32, Instr.msetWrite 26 18), (0xA2942800#32, Instr.mwait 0xA5)] : List (BitVec 32 × Instr)),
      decode p.1 = .ok p.2 := by decide +kernel

theorem test_decode_opcode_2A :
    ∀ p ∈ ([(0xA95001E0#32, Instr.xcp 5 2 15), (0xA95005E0#32, Instr.xadv 5 2 15), (0xA8100A40#32, Instr.xtlw 2 18),
      (0xA800081A#32, Instr.xtlwTk 26), (0xA8100E40#32, Instr.xfen 2 18), (0xA9401240#32, Instr.pbinv 5 18),
      (0xA95015E0#32, Instr.xmc 5 2 15), (0xA95019E0#32, Instr.xred 5 2 15), (0xA9501DE0#32, Instr.xat 5 2 15)] : List (BitVec 32 × Instr)),
      decode p.1 = .ok p.2 := by decide +kernel

theorem test_decode_opcode_2B :
    ∀ p ∈ ([(0xAD5001E0#32, Instr.tsz 5 2 15), (0xAD5005F1#32, Instr.tsc 5 2 15 17), (0xAD5009F1#32, Instr.tscmp 5 2 15 17),
      (0xAC000C00#32, Instr.tsf), (0xAC001352#32, Instr.thb 26 18), (0xAC00141A#32, Instr.thu 26)] : List (BitVec 32 × Instr)),
      decode p.1 = .ok p.2 := by decide +kernel

theorem test_decode_opcode_2C :
    ∀ p ∈ ([(0xB0800240#32, Instr.prcfg 2 18), (0xB09005F1#32, Instr.prput 2 2 15 17), (0xB09009F1#32, Instr.prupd 2 2 15 17),
      (0xB0900DF1#32, Instr.prdraw 2 2 15 17), (0xB09011F1#32, Instr.prwt 2 2 15 17), (0xB09015E0#32, Instr.prsum 2 2 15),
      (0xB0801800#32, Instr.prclr 2)] : List (BitVec 32 × Instr)),
      decode p.1 = .ok p.2 := by decide +kernel

theorem test_decode_opcode_2D :
    ∀ p ∈ ([(0xB4000340#32, Instr.sgcfg 26), (0xB410064F#32, Instr.sginc 2 18 15), (0xB4100A4F#32, Instr.sgjoin 2 18 15),
      (0xB4100E40#32, Instr.sglog 2 18), (0xB4101240#32, Instr.sgrd 2 18), (0xB4101400#32, Instr.sgclr 2)] : List (BitVec 32 × Instr)),
      decode p.1 = .ok p.2 := by decide +kernel

theorem test_decode_opcode_2E :
    ∀ p ∈ ([(0xBA800240#32, Instr.qmopen 10 18), (0xBA9005F1#32, Instr.qmjoin 10 2 15 17), (0xBA800A40#32, Instr.qmwait 10 18),
      (0xBA900DF1#32, Instr.qmrecRead 10 2 15 17), (0xBA801012#32, Instr.qmexcl 10 18), (0xBA801400#32, Instr.qmclose 10)] : List (BitVec 32 × Instr)),
      decode p.1 = .ok p.2 := by decide +kernel

theorem test_decode_opcode_2F :
    ∀ p ∈ ([(0xBC1A0000#32, Instr.rgkey 26), (0xBC1A9001#32, Instr.rgctr 26 18), (0xBF400202#32, Instr.rggen 26 2),
      (0xBC1A9003#32, Instr.rgskip 26 18), (0xBC1A0004#32, Instr.rgst 26), (0xBC1A0005#32, Instr.rgld 26)] : List (BitVec 32 × Instr)),
      decode p.1 = .ok p.2 := by decide +kernel

theorem test_decode_opcode_30 :
    ∀ p ∈ ([(0xC3400223#32, Instr.csrr 26 0x223), (0xC35204B6#32, Instr.csrw 26 18 0xB6), (0xC352090F#32, Instr.csrs 26 18 0x10F),
      (0xC3520C9E#32, Instr.csrc 26 18 0x9E), (0xC000107A#32, Instr.trap 0x7A), (0xC0001400#32, Instr.rfe), (0xC000187A#32, Instr.brk 0x7A),
      (0xC0001C00#32, Instr.pbinva), (0xC000207A#32, Instr.wfe 0x7A), (0xC01A27D2#32, Instr.diag 26 0x3D2)] : List (BitVec 32 × Instr)),
      decode p.1 = .ok p.2 := by decide +kernel

/-! ## Words and values of the spec's own examples and tables -/

/-- `DIV l0, l1, l2`, `BSWAP l0, l1` (R133), `ANDI l5, l6, 0xFF00` (R134), `EXTZ l0, l1, 8, 12` (R138), `BEQ l0, l1, .+8`, `BLTN l0, l1, .-8` (R139),
`JLR g7, l3` (R140), `CALL .+0x40` (R141), `RET` (R142). -/
theorem test_decode_examples :
    ∀ p ∈ ([(0x05CF8018#32, Instr.div 14 15 16), (0x05CF0020#32, Instr.bswap 14 15), (0x0E74FF00#32, Instr.andi 19 20 0xFF00),
      (0x2DCF4B08#32, Instr.extz 14 15 11 8), (0x6039E002#32, Instr.beq 14 15 2), (0x6239FFFE#32, Instr.bltn 14 15 0x1FFE),
      (0x7CF10000#32, Instr.jlr 7 17), (0x6C000010#32, Instr.call 0x10), (0x78000000#32, Instr.ret)] : List (BitVec 32 × Instr)),
      decode p.1 = .ok p.2 := by decide +kernel

/-- The value that an instruction leaves in x3, from x1 and x2. -/
def result (i : Instr) (a b : Word) : Option Word := after i (withRegs user [(1, a), (2, b)]) (fun s => s.x 3)

/-- The values of R133, and the corner of its first table. -/
theorem test_alu_values :
    result (.div 3 1 2) (-7) 2 = some (-3) ∧ result (.rem 3 1 2) (-7) 2 = some (-1) ∧ result (.divn 3 1 2) 7 0 = some 0xFFFFFFFFFFFFFFFF ∧
    result (.mulhn 3 1 2) (-1) (-1) = some 0xFFFFFFFFFFFFFFFE ∧ result (.mulh 3 1 2) (-1) (-1) = some 0 ∧
    result (.addw 3 1 2) 0x7FFFFFFF 1 = some 0xFFFFFFFF80000000 ∧ result (.sraw 3 1 2) 0x80000000 4 = some 0xFFFFFFFFF8000000 ∧
    result (.sll 3 1 2) 1 65 = some 2 ∧ result (.bswap 3 1) 0x0102030405060708 0 = some 0x0807060504030201 ∧ result (.clz 3 1) 0 0 = some 64 ∧
    result (.ctz 3 1) 0 0 = some 64 ∧ result (.div 3 1 2) 0x8000000000000000 (-1) = some 0x8000000000000000 ∧
    result (.rem 3 1 2) 0x8000000000000000 (-1) = some 0 := by decide +kernel

/-- R138's example, and a source that is also the destination. -/
theorem test_bitField_values :
    result (.extz 3 1 11 8) 0x00ABCDEF 0 = some 0x0BCD ∧ after (.dep 1 1 3 8) (withRegs user [(1, 0xF5)]) (fun s => s.x 1) = some 0x5F5 := by
  decide +kernel

/-- R77's example: 300.0 and 500.0 as E4M3. -/
theorem test_encode_e4m3 :
    (encode32 0x0011075C 127 none 0x43960000).1 = 0x79 ∧ (encode32 0x0015075C 127 (some 40960) 0x43960000).1 = 0x7A ∧
    (encode32 0x0011075C 127 none 0x43FA0000).1 = 0x7E ∧ (encode32 0x0001075C 127 none 0x43FA0000).1 = 0x7F := by decide +kernel

/-- R167's example: the counter after RGGEN at VL 10, and after RGSKIP. -/
theorem test_random_counter :
    let s := withCsrs (withRegs user [(14, 0xFFFFFFFFFFFFFFFF)]) [(0x020, 10), (0x050, 0xFFFFFFFE), (0x051, 0xFFFFFFFF)]
    (after (.rggen 7 0) s (·.rngCtr) = some (2 ^ 64 + 1)) ∧
    (match exec (.rggen 7 0) s with
      | .next t => after (.rgskip 14 15) t (·.rngCtr) == some (2 ^ 65)
      | _ => false) = true := by decide +kernel

/-- Little-endian stores and loads at the top of the raw window (19 R190, 23 R215), and a sign. -/
theorem test_store_load :
    (match exec (.std 1 2 0) (withRegs user [(1, 0x8877665544332211), (2, 0x17FF8)]) with
      | .next t => after (.ldbz 3 2 1) t (fun s => s.x 3) == some 0x22 && after (.ldb 3 2 7) t (fun s => s.x 3) == some 0xFFFFFFFFFFFFFF88
      | _ => false) = true := by decide +kernel

/-- A trap's entry: `TRAP 5` with a handler at 0x4000 (35 R331, R332): CAUSE holds INFO 5 and CODE 0x13, EPC the next instruction. -/
theorem test_trap_entry :
    after (.trap 5) user (fun t => (t.csr 0x001, t.csr 0x002, t.pc)) = some (0x50013, fetchPc + 4, 0x4000) := by decide +kernel

/-! ## States that meet the hypotheses of the statements -/

theorem witness_ImmediateInstructionsWriteTheirResult : (0#6).toNat + (63#6).toNat < 64 ∧ (63#6).toNat + (0#6).toNat < 64 := by decide

theorem witness_RegisterJumpsAndWindowLimits :
    (field ((withRegs user [(1, 0x40)]).x 1#5) 1 0 = 0) ∧
    (HasHandler (withRegs user [(1, 3)]) ∧ field ((withRegs user [(1, 3)]).x 1#5) 1 0 ≠ 0) ∧
    (let s := withCsrs (withRegs user [(13, 2)]) [(0x030, 1)]; HasHandler s ∧ field (s.csr 0x030) 15 0 ≠ 0 ∧ field (s.x 13#5) 1 0 ≠ 0) ∧
    (let s := withCsrs user [(0x030, 16)]; HasHandler s ∧ field (s.csr 0x032) 15 0 ≤ field (s.csr 0x030) 15 0 ∧ field (s.x 1#5) 1 0 = 0) ∧
    (HasHandler user ∧ field (user.csr 0x030) 15 0 = 0) := by
  unfold HasHandler; decide +kernel

/-- A state with call depth 7, all seven windows resident and frames in the mapped page. -/
def deep : State := withCsrs mapped [(0x030, 0x70007), (0x031, 0x10000001000)]
/-- A state of depth 1 with no window resident, its caller's frame still in the spill buffer. -/
def spilt : State :=
  (withCsrs user [(0x030, 1)]).setGroup 0 { Group.reset with spills := [{ party := 1, space := 1, sq := 2, addr := 0, data := List.replicate 18 5 }] }

/-- The same with the frame in the mapped page, whose translation the station has cached. -/
def unwound : State :=
  let s := withCsrs mapped [(0x030, 1), (0x031, 0x10000001000)]
  match s.translate 0 1 0x10000001000 with
  | .ok (_, _, t) => t
  | .error _ => s

theorem witness_CallsMoveTheRegisterWindow :
    (field (user.csr 0x030) 15 0 < field (user.csr 0x032) 15 0 ∧ field (user.csr 0x030) 19 16 < 7 ∧ field user.pc 1 0 = 0) ∧
    (let s := withCsrs user [(0x030, 0x10001)]; field (s.csr 0x030) 15 0 ≠ 0 ∧ field (s.csr 0x030) 19 16 ≠ 0 ∧ field (s.x 13#5) 1 0 = 0) ∧
    (let a : Word := 0x10000001000
     field (deep.csr 0x030) 15 0 < field (deep.csr 0x032) 15 0 ∧ field (deep.csr 0x030) 19 16 = 7 ∧ regionOf a.toNat = .xlat ∧
     (match deep.translate deep.die deep.launch.space a.toNat with
      | .ok (l, _, s1) => (match s1.translate deep.die deep.launch.space (a + 143).toNat with
        | .ok (m, _, _) => permits l .st && permits m .st
        | .error _ => false)
      | .error _ => false) = true ∧ deep.inText deep.launch.space a.toNat = false ∧ deep.inText deep.launch.space (a + 143).toNat = false ∧
     (deep.groupAt deep.grp).spilled + 144 ≤ 0xC000 ∧ field (deep.x 1#5) 1 0 = 0) ∧
    (field (spilt.csr 0x030) 15 0 ≠ 0 ∧ field (spilt.csr 0x030) 19 16 = 0 ∧ field (spilt.x 13#5) 1 0 = 0 ∧
      (spilt.groupAt spilt.grp).findSpill spilt.q.k.party (BitVec.ofNat 64 (field (spilt.csr 0x031) 55 4 * 16) + 144 * 0) = some (List.replicate 18 5)) ∧
    (match exec (.call 4#26) user with
      | .next t => next? .ret t
      | _ => false) = true := by
  decide +kernel

theorem witness_CallsMoveTheRegisterWindow_memory :
    field (unwound.csr 0x030) 15 0 ≠ 0 ∧ field (unwound.csr 0x030) 19 16 = 0 ∧ field (unwound.x 13#5) 1 0 = 0 ∧
    (unwound.groupAt unwound.grp).findSpill unwound.q.k.party (BitVec.ofNat 64 (field (unwound.csr 0x031) 55 4 * 16) + 144 * 0) = none ∧
    ∀ n, n < 18 →
      let a := (BitVec.ofNat 64 (field (unwound.csr 0x031) 55 4 * 16) + 144 * 0 + 8 * BitVec.ofNat 64 n).toNat
      regionOf a = .xlat ∧ unwound.isBad (0x201000 + 8 * n) 8 = false ∧
      (match unwound.translate unwound.die unwound.launch.space a with
        | .ok (leaf, pa, t) => decide (leaf = 0x20001F#64 ∧ pa = 0x201000 + 8 * n ∧ t = unwound) && permits leaf .ld
        | .error _ => false) = true := by
  decide +kernel

theorem witness_TrapEntrySavesTheState : HasHandler user := by unfold HasHandler; decide +kernel

theorem witness_FatalTrapHaltsTheLaunch :
    let s := withCsrs user [(0x000, 8)]
    ¬ HasHandler s ∧ s.q.mode = .run ∧ (s.launchAt? s.q.k.lnum).map (·.halted) = some none := by
  unfold HasHandler; decide +kernel

theorem witness_RfeReturnsFromTheHandler :
    ((runtime.csr 0x000).getLsbD 0 = true ∧ runtime.q.k.heldAcc = [] ∧ runtime.dies = []) ∧ (HasHandler user ∧ (user.csr 0x000).getLsbD 0 = false) := by
  unfold HasHandler; decide +kernel

/-- An access that a station holds, and an early write of the continuation to the last doubleword of its tile, which waits for the compute phase of
its group (21 R205). -/
def heldAccess (kind : HeldKind) (target : Option Target) : HeldAcc :=
  { addr := 0x10000000000, bytes := [1, 2, 3, 4, 5, 6, 7, 8], nib := none, kind := kind, at_ := target, no := 3, ep := 0 }
def waitingWrite : Staged :=
  { lnum := 1, key := tileKey 0 0x17FF8, bytes := [8, 7, 6, 5, 4, 3, 2, 1], nib := none, addr := 0x17FF8, lv := .tile, unit := 0, place := 2, ts := 0,
    seqNo := 0, party := 1, grp := 0, deferred := some .group, steps := [0, 0, 0, 0], ep := 0, bad := false }
def holding (s : State) (h : HeldAcc) (handled : Nat) : State := s.setK { s.q.k with heldAcc := [h], handled := handled }

/-- A replay that ends, of a ticket's release; and one of which the release waits for an earlier write. -/
theorem witness_RfeReturnsFromTheHandler_replay :
    (let s := holding runtime (heldAccess (.ticket 0 0) none) 1
     (s.csr 0x000).getLsbD 0 = true ∧ s.replayHeld.replayWaits = false ∧ s.replayHeld.q.k.heldAcc = []) ∧
    (let s := holding { runtime with staged := [waitingWrite] } (heldAccess (.ticket 0 0) none) 1
     (s.csr 0x000).getLsbD 0 = true ∧ s.replayHeld.replayWaits = true) := by
  decide +kernel

theorem witness_CsrReadsGiveTheRegister :
    Access (.csrr 1#5 0x007#10) .read 1#5 0#5 0x007 ∧ user.q.vq = [] ∧ NoDrains user ∧ Runtime runtime ∧
    Access (.csrr 1#5 0x223#10) .read 1#5 0#5 0x223 ∧ Access (.csrr 1#5 0x10F#10) .read 1#5 0#5 (0x100 + 15) :=
  ⟨.csrr _ _, by decide, by unfold NoDrains; decide +kernel, by unfold Runtime; decide +kernel, .csrr _ _, .csrr _ _⟩

theorem witness_CsrWritesLeaveTheNewValue :
    Access (.csrw 1#5 2#5 0x055#10) .write 1#5 2#5 0x055 ∧ (0x055, 0xFFFFFFFF#64) ∈ freelyWritten ∧
    Access (.csrs 1#5 2#5 0x223#10) .set 1#5 2#5 0x223 ∧ Runtime runtime ∧ (0x223, 0x00FFFFFFFFFFFFFD#64) ∈ runtimeWritten :=
  ⟨.csrw _ _ _, by decide, .csrs _ _ _, by unfold Runtime; decide +kernel, by decide⟩

theorem witness_CsrWritesKeepTheRulesOfTheRegister :
    Access (.statWrite .write 1#5 2#5) .write 1#5 2#5 0x000 ∧
    ((user.readCsr 0x000 ^^^ newValue .write (user.readCsr 0x000) ((withRegs user [(2, 0xFF04)]).x 2#5)) &&& 0xB#64 = 0#64) ∧
    (user.q.vq = [] ∧ NoDrains user) ∧ Access (.csrc 1#5 2#5 0x201#10) .clear 1#5 2#5 0x201 ∧ field (4#64) 2 0 < 5 ∧ dImpossible 0x04000000#32 = false ∧
    user.ownsCtx 1 0 23 = true ∧ user.ownsCtx 1 0 24 = false ∧
    (user.groupAt user.grp).spills.all (fun e => e.sq != user.cur) = true ∧ user.launchAt? user.q.k.lnum ≠ none ∧ Runtime runtime ∧
    ¬ Runtime user ∧ (withRegs user [(2, 0x8000000000000000)]).x 2#5 = 0x8000000000000000#64 :=
  ⟨.stat _ _ _, by decide +kernel, by unfold NoDrains; decide +kernel, .csrc _ _ _, by decide, by decide +kernel, by decide +kernel, by decide +kernel, by decide +kernel, by decide +kernel,
    by unfold Runtime; decide +kernel, by unfold Runtime; decide +kernel, by decide +kernel⟩

theorem witness_CsrAccessesThatTrap :
    HasHandler user ∧ ¬ Runtime user ∧ 0x200 ∈ hiddenCsrs ∧ 0x001 ∈ guardedCsrs ∧ 0x010 ∈ readOnlyCsrs ∧
    (user.csr 0x000 ^^^ newValue .write (user.csr 0x000) ((withRegs user [(2, 1)]).x 2#5)) &&& 0xB#64 ≠ 0#64 ∧
    dImpossible 0xFFFFFFFF#32 = true ∧ 5 ≤ field (5#64) 2 0 ∧ user.ownsCtx user.q.k.lnum user.die (field 0xFFF#64 11 0) = false := by
  unfold HasHandler Runtime; decide +kernel

theorem witness_AddressesAndTheirChecks :
    (match user.locate .ld 0x17FF8#64 8 with
      | .ok (g, _) => g.key == tileKey 0 0x17FF8
      | .error _ => false) = true ∧
    (match user.locate .ld 0x2020000#64 8 with
      | .ok (g, _) => g.key == tileKey 1 0
      | .error _ => false) = true ∧
    (match user.locate .st 0x1000000#64 8 with
      | .ok (g, _) => g.key == groupKey 0 0
      | .error _ => false) = true ∧
    regionOf 0x18000 = .none ∧ regionOf 0x10EC000 = .ctx ∧ 0x18000 < (0x17FFC#64).toNat + 8 ∧ (0x17FF4#64).toNat % 8 ≠ 0 ∧
    (withLaunch user (fun x => { x with shSize := 0x100 })).outsideShare 1 0 0xFC 8 = some 4 ∧
    (let s := withLaunch user (fun x => { x with zones := [⟨.group, 0, 0x40, 0x40⟩] })
     s.outsideShare 1 0 0x40 8 = none ∧ s.frozenAt 1 0 0 0x3C 8 = some 4 ∧ s.frozenAt 1 0 0 0x80 8 = none) := by
  decide +kernel

/-- The target of an access whose checks pass, or the failure, has a property. -/
def finds (s : State) (k : Acc) (a : Word) (n : Nat) (p : Target → Bool) : Bool :=
  match s.locate k a n with
  | .ok (g, _) => p g
  | .error _ => false
def fails (s : State) (k : Acc) (a : Word) (n : Nat) (p : Fail → Bool) : Bool :=
  match s.locate k a n with
  | .ok _ => false
  | .error f => p f
/-- The page of `mapped`, uncached. -/
def uncached : State := mapped.poke 0x240000 (leBytes 8 0x200000000020001F)
def page : Word := 0x10000000000#64
/-- The page of `mapped`, on the device registers from offset 0. -/
def registered : State := mapped.poke 0x240000 (leBytes 8 0x0E000000001F)

theorem witness_FailedAccessesTrap :
    (HasHandler user ∧ user.vectorStores = false ∧ fails user .ld 0x17FF9#64 8 (fun f => f.code == 5 && f.addr == 0x18000) = true ∧
      fails user .st 0x17FF8#64 8 (fun _ => true) = false ∧ fails user .st 0x17FF4#64 8 (fun f => f.code == 4 && !f.station) = true ∧
      fails user .sigLd 2#64 4 (fun _ => true) = true ∧ fails user .sigSt 4#64 8 (fun f => !f.station) = true ∧
      fails user .amo 0x810000#64 4 (fun f => f.code == 5) = true) ∧
    (0#3 ≠ 4#3 ∧ 7#3 ≠ 4#3) := by
  unfold HasHandler; decide +kernel

theorem witness_LoadsGiveTheBytesOfMemory :
    (user.vectorStores = false ∧ finds user .ld (address user 0#5 0x2FFF#14 8) 8 (fun _ => false) = false ∧
      finds user .ld (address user 0#5 0x17FF#14 8) 8 (fun g => g.path == .now && g.lens == 0 && !user.viewBad g.key 8) = true ∧
      user.faultHeld = false) ∧
    finds uncached .ld page 8 (fun g => g.path == .device && g.lens == 0 && !uncached.viewBad g.key 8) = true ∧
    -- in the handler, of a store that the station holds
    (let s := holding uncached (heldAccess .store none) 1
     s.faultHeld = false ∧ s.staged = [] ∧
       finds s .ld page 8 (fun g => g.path == .device && g.lens == 0 && !s.viewBad g.key 8 && g.addr == page &&
         (List.range 8).all (fun j => s.heldByte HeldKind.stores (g.addr.toNat + j) == some (3, BitVec.ofNat 8 (j + 1)))) = true) ∧
    (∀ n ∈ [4, 8], finds registered .ld (page + 0xFFF8) n (fun g => g.path == .register 0xFFF8) = true) := by
  decide +kernel

/-- Bytes under two staged stores, the later one of a half byte. -/
theorem test_newest :
    let e : Staged := { waitingWrite with key := 8, bytes := [0xAB, 0xCD] }
    newest [{ e with key := 9, bytes := [0x12], nib := some true }, e] 9 0x77 = 0x1D ∧ newest [{ e with key := 9, bytes := [0x12], nib := some false }, e] 9 0x77 = 0xC2 ∧
    newest [e] 8 0x77 = 0xAB ∧ newest [e] 10 0x77 = 0x77 ∧ newest [e] 7 0x77 = 0x77 := by
  decide +kernel

theorem witness_ParameterLoadsReadTheWindow :
    let s := withCsrs user [(0x081, 64)]
    s.vectorStores = false ∧ finds s .ld 0x800038#64 8 (fun g => !s.viewBad g.key 8) = true ∧ finds s .ld 0x80003C#64 4 (fun _ => true) = true ∧
    finds s .ld 0x800040#64 8 (fun _ => true) = true ∧ regionOf 0x80FFF8 = .param 0xFFF8 ∧ (s.csr 0x081).getLsbD 63 = false := by
  decide +kernel

theorem witness_StoresReachMemory :
    (user.vectorStores = false ∧ user.faultHeld = false ∧
      finds user .st 0x17FF8#64 8 (fun g => g.lens == 0 && g.path == .now && user.ownLevel g.key 8 == none) = true ∧
      finds user .st 0x2017FFF#64 1 (fun g => g.lens == 0 && g.path == .now && user.ownLevel g.key 1 == none) = true) ∧
    finds uncached .st page 8 (fun g => g.lens == 0 && g.path == .device) = true ∧ uncached.heldOver HeldKind.stores page.toNat 8 = false ∧
    (∀ n ∈ [4, 8], finds registered .st (page + 0xFFF8) n (fun g => g.path == .register 0xFFF8 && g.lens == 0) = true) := by
  decide +kernel

theorem witness_OtherStoresAreStagedOrHeld :
    (user.vectorStores = false ∧ user.faultHeld = false ∧ finds user .st 0x1000000#64 8 (fun g => g.path == .staged .group 0) = true ∧
      finds user .st 0x2020000#64 4 (fun g => g.path == .staged .group 0) = true ∧
      finds mapped .st page 1 (fun g => g.path == .staged .group 0) = true) ∧
    (user.q.k.fault = none ∧ fails user .st page 8 (fun f => f.station) = true) := by
  decide +kernel

/-- A store that reaches the station behind a held one, one to a device page over a held one, one to the own tile over a held one; and one that waits,
for the group's exchange reads its bytes. -/
theorem witness_OtherStoresAreStagedOrHeld_behind :
    (let s := holding mapped (heldAccess .store none) 0
     s.vectorStores = false ∧ s.faultHeld = true ∧ finds s .st page 8 (fun g => g.lens == 0) = true ∧ regionOf page.toNat = .xlat) ∧
    (let s := holding uncached (heldAccess .store none) 1
     s.vectorStores = false ∧ s.heldOver HeldKind.stores page.toNat 8 = true ∧ finds s .st page 8 (fun g => g.lens == 0 && g.path == .device) = true) ∧
    (let s : State := { user with staged := [{ waitingWrite with deferred := some .tile }] }
     s.ownLevel (tileKey 0 0x17FF8) 8 = some .tile ∧ finds s .st 0x17FF8#64 8 (fun g => g.lens == 0 && g.path == .now && g.key == tileKey 0 0x17FF8) = true ∧
       regionOf (0x17FF8#64).toNat ≠ .xlat) ∧
    (let s : State := { user with staged := [waitingWrite] }
     s.faultHeld = false ∧ s.ownLevel (tileKey 0 0x17FF8) 8 = some .group ∧
       finds s .st 0x17FF8#64 8 (fun g => g.lens == 0 && g.path == .now && g.key == tileKey 0 0x17FF8) = true) := by
  decide +kernel

theorem witness_SignalAccessesAndAtomics :
    NothingAhead user ∧
    finds user .sigLd 0x10FC000#64 (signalSize 1#1) (fun g => !user.isBad g.key 8 && g.path == .now) = true ∧
    finds user .sigSt 0x10FFFFC#64 (signalSize 0#1) (fun g => !user.isBad g.key 4 && !user.sourceHeld user.q.k.lnum g.key 4) = true ∧
    finds user .amo 0x17FF8#64 (signalSize 1#1) (fun g => !user.isBad g.key 8 && !user.sourceHeld user.q.k.lnum g.key 8) = true ∧
    leNat ((List.range 8).map (fun j => look user.mem (tileKey 0 0x17FF8 + j))) = (user.x 1#5).toNat % 2 ^ 64 ∧
    leNat ((List.range 8).map (fun j => look user.mem (tileKey 0 0x17FF8 + j))) ≠ ((withRegs user [(1, 9)]).x 1#5).toNat % 2 ^ 64 := by
  unfold NothingAhead; decide +kernel

theorem witness_SignalAccessesAndAtomics_registers :
    NothingAhead registered ∧ (∀ z ∈ [0#1, 1#1], ∀ k ∈ [Acc.sigLd, .sigSt, .amo],
      finds registered k (page + 0xF000) (signalSize z) (fun g => g.path == .register 0xF000 && !registered.ownHeld g.key (signalSize z)) = true) ∧
    part (devRead registered 0xF000) 0xF000 8 = 0 ∧ (registered.x 1#5).toNat = 0 ∧ ((withRegs registered [(1, 1)]).x 1#5).toNat = 1 := by
  unfold NothingAhead; decide +kernel

theorem witness_FencesComplete : (3#3 : BitVec 3) ≠ 4#3 ∧ NothingAhead user := by unfold NothingAhead; decide +kernel

/-! ## Synchronisation -/

/-- A channel 0 of four slots, two of them filled. -/
def channeled : State := user.setTile 0 { Tile.reset with chan := [(0, { base := 0, size := 32, count := 4, filled := 2, free := 2, pptr := 3, cptr := 1 })] }

theorem witness_CountersTicketsAndChannels :
    NothingAhead user ∧
    (∀ n ∈ [1, 2], ((withRegs channeled [(1, BitVec.ofNat 64 n)]).x 1#5).toNat = n ∧ n ≠ 0 ∧ n ≤ (channel channeled 0#3).free ∧
      n ≤ (channel channeled 0#3).filled) ∧
    NothingAhead channeled ∧ HasHandler channeled ∧ (channel channeled 0#3).free < 3 ∧ (channel channeled 0#3).filled < 3 ∧
    (channel channeled 0#3).count < 5 ∧ (user.x 1#5).toNat = 0 ∧
    (let s := withRegs user [(1, 0), (2, 0x180800)]
     field (s.x 2#5) 63 23 = 0 ∧ field (s.x 2#5) 15 13 = 0 ∧ field (s.x 2#5) 22 16 = 24 ∧ field (s.x 2#5) 12 0 = 2048 ∧
       field (s.x 1#5) 63 17 = 0 ∧ (s.x 1#5).toNat + 24 * 2048 ≤ 0x18000 ∧ s.outsideShare s.q.k.lnum s.homeTile 0 (24 * 2048) = none) ∧
    (let s := withRegs user [(1, 0), (2, 0x301000)]
     field (s.x 2#5) 22 16 = 48 ∧ field (s.x 2#5) 12 0 = 4096 ∧ 0x18000 < (s.x 1#5).toNat + 48 * 4096) ∧
    field (0x411000#64) 22 16 = 65 ∧
    ((withLaunch user (fun x => { x with shSize := 32 })).outsideShare 1 user.homeTile 0 64).isSome = true := by
  unfold NothingAhead HasHandler; decide +kernel

theorem witness_WaitsCompleteOrHold :
    (field (user.x 1#5) 47 0 ≤ (counter user 3#4).toNat ∧ field (user.x 2#5) 47 0 ≤ (nowServing user 1#5).toNat ∧
      (let s := withRegs channeled [(1, 2)]
       (s.x 1#5).toNat ≤ (channel s 0#3).count ∧ (s.x 1#5).toNat < 2 ^ 48 ∧ (s.x 1#5).toNat ≤ (channel s 0#3).filled ∧
         (s.x 1#5).toNat ≤ (channel s 0#3).free) ∧
      (let s : State := { user with bars := [(barKey 1 .group 0, { Bar.reset with exch := false })] }
       s.q.hold = none ∧ (s.barOf s.q.k.lnum (s.lvOf 0#2) s.grp).exch = false)) ∧
    (let s := withRegs user [(1, 1)]
     s.q.hold = none ∧ s.q.mode = .run ∧ field s.q.whold 15 0 ≠ 0 ∧ field ({ s with q := { s.q with whold := 0 } } : State).q.whold 15 0 = 0) := by
  decide +kernel

/-- Each wait, on a state in which its condition does not hold. -/
theorem witness_WaitsCompleteOrHold_not :
    let s := withRegs user [(1, 1), (2, 0x80)]
    let full := withRegs channeled [(1, 3)]
    NotYet s (.waitc 1 15) 1 15 1 ∧ NotYet s (.tkwait 1 1) 2 1 1 ∧ NotYet full (.chwf 1 0) 5 0 3 ∧ NotYet full (.chwe 1 0) 6 0 3 ∧
    NotYet { user with bars := [(barKey 1 .group 0, { Bar.reset with arrs := [{ party := 1, member := 2, ts := 0, value := 0, code := 0, ended := false, under := [] }] })] }
      (.barw 0) 3 0 1 ∧
    NotYet user (.xwt 0) 10 0 0 ∧ NotYet s (.xtlw 7 1) 4 (field (s.csr (0x0B0 + 7)) 11 0) 1 ∧
    NotYet (s.setK { s.q.k with tok := [(7, 255)] }) (.xtlwTk 2) 7 0x80 0 :=
  ⟨.waitc 1 15 (by decide +kernel), .tkwait 1 1 (by decide +kernel), .chwf 1 0 (by decide +kernel) (by decide +kernel) (by decide +kernel),
   .chwe 1 0 (by decide +kernel) (by decide +kernel) (by decide +kernel), .barw 0 (by decide +kernel) (by decide +kernel) (by decide +kernel),
   .xwt 0 (by decide +kernel), .xtlw 7 1 (by decide +kernel), .xtlwTk 2 7 (by decide) (by decide +kernel) (by decide +kernel)⟩

/-- A message of 8 bytes to tile 0, on its way. -/
def sentMessage : Message := { id := 0, lnum := 1, sender := 2, fromTile := 1, toTile := 0, off := 0x17FF8, mcn := 15, sec := false, data := [1, 2, 3, 4, 5, 6, 7, 8] }

theorem witness_MessagesArePostedAndDelivered :
    (msgFault (withRegs user [(1, 0x17FF8), (2, 0x37FF8)]) 0x17FF8#64 0x37FF8#64 = none ∧ NothingAhead user ∧ HasHandler user ∧
      0x18000 < (0x17FFC#64).toNat + 8 ∧ (0x17FF4#64).toNat + 8 ≤ 0x18000 ∧ field (0x37FF8#64) 16 0 + 8 ≤ 0x18000 ∧ (0x17FF4#64).toNat % 8 ≠ 0 ∧
      field (0x37FF4#64) 16 0 % 8 ≠ 0) ∧
    (let s : State := { user with msgs := [sentMessage] }
     s.msgs.find? (fun o => o.id == sentMessage.id) = some sentMessage ∧
       (∀ o ∈ s.msgs, o.sender = sentMessage.sender → o.toTile = sentMessage.toTile → sentMessage.id ≤ o.id) ∧
       s.frozenAt 1 0 0 0x17FF8 8 = none ∧ s.sourceHeld 1 (tileKey 0 0x17FF8) 8 = false) := by
  unfold NothingAhead HasHandler; decide +kernel

/-- A unit whose release escalated to the die. -/
def escalated : State :=
  { withLaunch user (fun x => { x with foot := List.range 32 }) with
    bars := [(barKey 1 .group 0, { Bar.reset with esc := some { level := .die, code := 0xF1, opened := 0, ref := 0, owed := [1] } })] }

theorem witness_ArrivalsExendAndBarw :
    (user.vectorStores = false ∧ user.stationHeld = false ∧ user.owes = none ∧ user.insideEscaped (user.lvOf 3#2) = false ∧
      user.copiesBefore user.q.k.lnum user.homeTile user.q.k.role.toNat (user.lvOf 3#2) user.grp = false ∧
      user.baraWaits .group (user.lvOf 3#2) = false) ∧
    user.drainsOpen = false ∧ escalated.drainsOpen = false ∧
    (escalated.insideEscaped (escalated.lvOf 0#2) = true ∧ escalated.vectorStores = false ∧ escalated.stationHeld = false) ∧
    (user.barAt user.q.k.lnum (user.lvOf 0#2) (unitOf (user.lvOf 0#2) user.grp)).exch = true ∧
    (user.q.hold = none ∧ user.arrivedAt (user.lvOf 0#2) = false) := by
  decide +kernel

/-- A launch of one tile, and group 0's barrier in its compute phase. -/
def computing : State :=
  { withLaunch user (fun x => { x with foot := [0], placed := true }) with bars := [(barKey 1 .group 0, { Bar.reset with exch := false })] }

theorem witness_BarriersCompleteAndLaunchesEnd :
    (computing.barUnit 1 0#2 0 = some .group ∧ (0 ∈ computing.unitMembers 1 .group 0 ∧ 2 ∈ computing.unitMembers 1 .group 0) ∧
      find? (computing.barAt 1 .group 0).members 2 = none ∧ computing.unitReady 1 .group 0 2 = true) ∧
    (let s : State := { computing with bars := [] }
     s.barUnit 1 0#2 0 = some .group ∧ s.computeReady 1 .group 0 = true ∧ (∀ d ∈ s.dies, ∀ c ∈ d.2.copies, c.lnum ≠ 1) ∧
       (∀ b ∈ s.bars, b.1 / 2048 / 5 = 1 → b.2.reads = []) ∧ ∀ e ∈ s.staged, e.lnum = 1 → e.lv ≠ .tile → ∀ w, e.deferred = some w → w = .group ∧ unitOf .group e.grp = 0) ∧
    (match computing.launchAt? 1 with
      | some x => x.halted == none && x.placed && !x.pods && x.sweep == none && decide (x.nextSweep ≤ computing.clk)
      | none => false) = true ∧
    (computing.launchIdle 1 = true ∧ computing.sentSum 1 = computing.receivedSum 1) ∧
    (match (withLaunch computing (fun x => { x with sweep := some (0, 0) })).launchAt? 1 with
      | some x => x.sweep == some (computing.sentSum 1, computing.receivedSum 1)
      | none => false) = true ∧
    (∀ code ∈ [0, 0xF1],
      let s : State := { computing with bars := [(barKey 1 .group 0, { Bar.reset with exch := false, members := [(0, (7, 0)), (1, (8, code)), (2, (9, 0))] })] }
      s.barUnit 1 0#2 0 = some .group ∧ s.completeReady 1 .group 0 = true ∧ (s.releaseValue 1 .group 0).2 = code) := by
  decide +kernel

/-- A store of one byte that is due at group 0's barrier, or deferred by an exchange. -/
def stagedByte (key : Nat) (ts : Word) (deferred : Option Level) : Staged :=
  { lnum := 1, key := key, bytes := [7], nib := none, addr := 0, lv := .group, unit := 0, place := 2, ts := ts, seqNo := 0, party := 1, grp := 0, deferred := deferred,
    steps := [0, 0, 0, 0], ep := 0, bad := false }
def arrival (ts v : Word) : ContArr := { party := 1, member := 2, ts := ts, value := v, code := 0, ended := false, under := [] }

/-- Two stores of one byte, the earlier one first; a byte that the die's exchange reads; two arrivals of one member; a deferred store that is due. -/
theorem witness_BarriersCompleteAndLaunchesEnd_commits :
    (AppliedBefore computing 1 (stagedByte 9 1 none) (stagedByte 9 2 none) ∧ Covers (stagedByte 9 1 none) 9 ∧ ¬ Covers (stagedByte 9 1 none) 10) ∧
    ((computing.openReads 1).any (fun r => decide (Level.group.num < r.1.num) && overlaps r.2.1 r.2.2.1 9 1) = false ∧
      (({ escalated with bars := [(barKey 1 .die 0, { Bar.reset with reads := [(9, 1, 0)] })] } : State).openReads 1).any (fun r =>
        decide (Level.group.num < r.1.num) && overlaps r.2.1 r.2.2.1 9 1) = true) ∧
    ([arrival 1 4, arrival 2 5].Pairwise (fun a b => TsLower (computing.launchAt 1).det (computing.barAt 1 .group 0).count a.ts b.ts) ∧
      (let s : State := { computing with bars := [(barKey 1 .group 0, { Bar.reset with arrs := [arrival 2 5, arrival 1 4] })] }
       [arrival 1 4, arrival 2 5].Perm ((s.barAt 1 .group 0).arrs.filter (fun a => a.member == 0 * 48 + 2)) ∧ s.unitReady 1 .group 0 2 = true)) ∧
    (∀ e ∈ ({ computing with staged := [stagedByte 9 1 (some .die)] } : State).staged, e.lnum = 1 → e.lv ≠ .tile → ∀ w, e.deferred = some w →
      w = .die ∧ unitOf .die e.grp = 0) ∧
    (computing.launchAt 1).barOps.getD 0 0 ≤ 9 := by
  unfold AppliedBefore Covers TsLower; decide +kernel

/-- No end of a launch clears byte 0 of HBM4. -/
theorem witness_BarriersCompleteAndLaunchesEnd_kept : ¬ ClearedAtEnd computing 1 0 := by
  rintro (⟨g, i, -, h, -⟩ | ⟨h, -⟩ | ⟨d, x, b, -, h | h, -⟩)
  · simp only [recKey, groupKey] at h; omega
  · simp only [paramKey] at h; omega
  · exact absurd h (by change ¬ x ∈ List.map _ []; exact List.not_mem_nil)
  · exact absurd h (by change ¬ x ∈ []; exact List.not_mem_nil)

theorem witness_ContinuationsSpawnSuspendAndEnd :
    let s := withLaunch user (fun x => { x with poolSize := 73792, areaSize := 65536 })
    s.q.vq = [] ∧ s.stationHeld = false ∧ s.q.hold = none ∧ field (s.x 1#5) 1 0 = 0 ∧ s.launch.freeArea = some 0 ∧ s.launch.det = false ∧
    (withLaunch s (fun x => { x with det := true })).spawnsNow ≠ 65536 ∧ s.freeSlotOf s.grp = some 0 ∧ s.launchAt? s.q.k.lnum ≠ none ∧
    s.q.k.lnum < 65536 ∧ s.yieldsTo = false ∧ ((s.setGroup 0 { Group.reset with side := [] }).poke (recKey 0 1 + 16) [1, 0, 6, 0, 0, 0, 0, 0]).yieldsTo = true := by
  decide +kernel

/-! ## Vector instructions -/

def ventry (op : VOp) (vl : Nat) : VEntry :=
  { op := op, vl := vl, rm := 0, ftz := false, lens := [], lscl := [], ctr := 0, drawn := false, key := 0 }
/-- Its sequencer's turn, with one entry of 64 lanes queued. -/
def vectored (op : VOp) : State :=
  let s := user.setTile 0 { Tile.reset with deficit := [0, 0, 8] }
  { s with q := { s.q with vq := [ventry op 64] } }

theorem witness_VectorInstructionsArePushed :
    user.q.vq.length < 16 ∧ ({ user with q := { user.q with vq := List.replicate 15 (ventry (.gen 0 0) 64) } } : State).q.vq.length < 16 ∧
    ((withCsrs user [(0x096, 0x04000000)]).csr (0x08F + (7#3).toNat)).setWidth 32 ≠ 0#32 ∧ HasHandler user ∧
    (user.csr (0x08F + (7#3).toNat)).setWidth 32 = 0#32 := by
  unfold HasHandler; decide +kernel

theorem witness_VectorLanesGetTheirFunction :
    Alone (vectored (.lane .addI 3 1 (.vec 2) 0)) 0#14 (ventry (.lane .addI 3 1 (.vec 2) 0) 64) ∧
    Alone (vectored (.perm .perm 3 1 (.vec 2) 0)) 0#14 (ventry (.perm .perm 3 1 (.vec 2) 0) 64) ∧
    Alone (vectored (.red .addF 3 1 0)) 0#14 (ventry (.red .addF 3 1 0) 64) ∧
    Alone (vectored (.mask .xor 7 1 2)) 0#14 (ventry (.mask .xor 7 1 2) 64) :=
  ⟨⟨by decide +kernel, rfl, by decide +kernel, by decide +kernel, by decide +kernel, by decide⟩,
   ⟨by decide +kernel, rfl, by decide +kernel, by decide +kernel, by decide +kernel, by decide⟩,
   ⟨by decide +kernel, rfl, by decide +kernel, by decide +kernel, by decide +kernel, by decide⟩,
   ⟨by decide +kernel, rfl, by decide +kernel, by decide +kernel, by decide +kernel, by decide⟩⟩

/-- Lens window 7 holds E4M3 elements (07 R74's table), or 4-bit ones; 0xB5 stands at the end of the tile SRAM. -/
def lensed (desc : Word) : State := (withRegs (withCsrs user [(0x096, desc)]) [(1, 0x700000)]).poke (tileKey 0 0) [0xB5]

theorem witness_VectorLanesGetTheirFunction_lens :
    (∀ desc ∈ [0x0011075C#64, 0x000201CA#64],
      let s := lensed desc
      regionOf (address s 1#5 0#14 4).toNat = .lens 7 0 ∧ LensElement s 7 0 (desc.setWidth 32) 0 127 (if desc = 0x0011075C#64 then 0xB5 else 5) ∧
        s.vectorStores = false ∧ s.stationHeld = false ∧ s.ownLevel (tileKey s.tile 0) 1 = none ∧
        s.lensBad (desc.setWidth 32) (s.csr 0x09E) s.tile 0 = false ∧ s.scaleBad (desc.setWidth 32) (s.csr 0x09E) s.tile 0 = false ∧
        (s.locate .ld (address s 1#5 0#14 4) 4).isOk = true ∧ (s.locate .st (address s 1#5 0#14 4) 4).isOk = true ∧
        dBlk (desc.setWidth 32) = 0 ∧ 0 + 8 ≤ 4 * (786432 / dWidth (desc.setWidth 32))) ∧
    (HasHandler (lensed 0) ∧ ((lensed 0).csr 0x096).setWidth 32 = 0#32 ∧ regionOf (address (lensed 0) 1#5 0#14 4).toNat = .lens 7 0) := by
  have h (s : State) (d : BitVec 32) (x c : Nat) (h : d = (s.csr (0x08F + 7)).setWidth 32 ∧ d ≠ 0#32) (hb : dBlk d = 0) (hx : x = 127)
      (hc : c = if dWidth d = 4 then (s.viewByte (tileKey s.tile (0 / 8))).toNat / 2 ^ (0 % 8) % 16
        else leNat ((List.range (dWidth d / 8)).map (fun i => s.viewByte (tileKey s.tile (0 / 8) + i)))) : LensElement s 7 0 d 0 x c :=
    ⟨h, by simp, by simp only [hb, hx, true_or, if_true], hc⟩
  unfold HasHandler
  refine ⟨?_, by decide +kernel⟩
  simp only [List.mem_cons, List.not_mem_nil, or_false, forall_eq_or_imp, forall_eq]
  exact ⟨⟨by decide +kernel, h _ _ _ _ (by decide +kernel) (by decide +kernel) rfl (by decide +kernel), by decide +kernel⟩,
    by decide +kernel, h _ _ _ _ (by decide +kernel) (by decide +kernel) rfl (by decide +kernel), by decide +kernel⟩

/-- 07 R86's example: the scan of 16,777,216, 1, 1, 1; and 15 R165 with the counter and key of zeros, its rounds counted in the two ways. -/
theorem test_scanNode :
    (let xs : List (BitVec 32) := [0x4B800000, 0x3F800000, 0x3F800000, 0x3F800000]
     (List.range 4).map (fun i => scanNode (redJoin .addF 0 false) (fun j => xs[j]?) (i + 1)) =
       [some 0x4B800000#32, some 0x4B800000#32, some 0x4B800000#32, some 0x4B800001#32] ∧
     treeNode (redJoin .addF 0 false) (fun j => if j = 1 then none else xs[j]?) 2 0 = some 0x4B800001#32) ∧
    philoxBlock 5 (2 ^ 64 - 2) = (List.range 4).map (fun j => BitVec.ofNat 32 (philoxWord 5 (2 ^ 64 - 2) j)) := by
  decide +kernel

theorem witness_VectorLoadsFillTheirLanes :
    let s := withRegs user [(1, 0x17F00)]
    s.q.vq = [] ∧ s.q.hold ≠ some .vectorLoad ∧ field (s.csr 0x020) 6 0 = 64 ∧
    (∀ j, j < 64 → regionOf (s.x 1#5 + BitVec.ofNat 64 (4 * j)).toNat ≠ .xlat ∧
      finds s .ld (s.x 1#5 + BitVec.ofNat 64 (4 * j)) 4 (fun g => g.lens == 0 && g.path == .now && !s.viewBad g.key 4) = true) := by
  decide +kernel

theorem witness_VectorStoresAndFaultingLanes :
    (let s := withRegs user [(1, 0x17F00)]
     s.q.vq = [] ∧ field (s.csr 0x020) 6 0 ≤ 64 ∧
       ∀ j, j < 64 → regionOf (s.x 1#5 + BitVec.ofNat 64 (4 * j)).toNat ≠ .xlat ∧ finds s .st (s.x 1#5 + BitVec.ofNat 64 (4 * j)) 4 (fun g => !s.storeBad g) = true) ∧
    (let s := withRegs user [(1, 0x17FF8)]
     HasHandler s ∧ s.q.vq = [] ∧ s.q.hold = none ∧ 2 < field (s.csr 0x020) 6 0 ∧ selects s 0#3 2 = true ∧
       (∀ i, i < 2 → regionOf (s.x 1#5 + BitVec.ofNat 64 (4 * i)).toNat ≠ .xlat ∧ finds s .ld (s.x 1#5 + BitVec.ofNat 64 (4 * i)) 4 (fun _ => true) = true ∧
         finds s .st (s.x 1#5 + BitVec.ofNat 64 (4 * i)) 4 (fun _ => true) = true) ∧
       regionOf (s.x 1#5 + 8).toNat = .none) ∧
    regionOf page.toNat = .xlat ∧ (0x17FFA#64).toNat + 4 ≤ 0x18000 ∧ (0x17FFA#64).toNat % 4 ≠ 0 := by
  unfold HasHandler; decide +kernel

theorem witness_VectorStateReadsAndVsetvl : user.q.vq = [] ∧ field (user.csr 0x020) 6 0 ≤ 64 := by decide +kernel

theorem witness_RandomStreamStateMoves :
    let s := withRegs user [(1, 0x17FE0)]
    s.vectorStores = false ∧ (s.x 1#5).toNat % 32 = 0 ∧ (s.x 1#5).toNat + 32 ≤ 0x18000 ∧
    s.outsideShare s.q.k.lnum s.tile (s.x 1#5).toNat 32 = none ∧ s.frozenAt s.q.k.lnum s.grp 0 (s.x 1#5).toNat 32 = none ∧
    s.ownLevel (tileKey s.tile (s.x 1#5).toNat) 32 = none ∧ s.viewBad (tileKey s.tile (s.x 1#5).toNat) 24 = false := by
  decide +kernel

theorem witness_WfePbinvaAndDiag :
    (∀ h ∈ [Hold.wfe 0 false, Hold.wfe 64 true],
      ({ user with q := { user.q with hold := some h } } : State).q.hold = some h) ∧
    (0 ≤ user.clk) ∧ (∀ d woken, user.q.hold ≠ some (.wfe d woken)) ∧
    (let s : State := { user with q := { user.q with hold := some (.wfe 0 false) } }
     (s.seqAt 2).mode = .run ∧ (s.seqAt 2).hold = some (.wfe 0 false)) ∧
    user.launch.scope = none ∧
    (∀ size ∈ [40, 39],
      let s := withLaunch user (fun x => { x with scope := some (0x4000, size) })
      s.launch.scope = some (0x4000, size) ∧ s.launch.scopeFrom ≤ s.scopeLog.length ∧ s.scopeUsed s.q.k.lnum = 0) := by
  refine ⟨by decide +kernel, by decide, ?_, by decide +kernel, by decide +kernel, by decide +kernel⟩
  intro d w h; cases h

/-! ## The matrix engine -/

/-- The continuation holds slots 0 and 1 and accumulator 0, with tags for both slots. -/
def claimed (tag : BitVec 32) : State :=
  let own : Owner := { party := 1, lnum := 1, releasing := false }
  user.setTile 0 { Tile.reset with owner := [(0, own), (1, own), (8, own)], accTag := [(0, tag), (1, tag)], tag := [(0, tag), (1, tag)] }
/-- A sequencer's buffer holds one command. -/
def commanded (op : MOp) (running : Bool) : State :=
  let s := claimed 0x010000BA
  let e : MEntry := { s.mEntry op 0 1 0 with tagA := 0x010000BA, tagB := 0x010000BA, running := running }
  { s with q := { s.q with mq := [e] } }

/-- A drain that nothing holds back is open, and BARA waits for it. -/
theorem witness_ArrivalsExendAndBarw_drains : (commanded (.drn 0 0) false).drainsOpen = true := by decide +kernel

theorem witness_MatrixCommandsAreAcceptedOrTrap :
    (find? (user.tileAt user.tile).owner 31 = none ∧ user.mFull = false) ∧
    (let s := claimed 0x010000BA
     s.mayRelease 8 = true ∧ s.mayName 8 = true ∧ s.mayName 0 = true ∧ s.mayName 1 = true ∧ s.vectorStores = false ∧ s.accTagOf 0 ≠ 0#32 ∧
       typesOk (s.accTagOf 0) (s.accTagOf 1) = true ∧ dBlk (s.accTagOf 1) = 0 ∧ s.launch.zones = [] ∧ HasHandler s ∧
       find? (s.tileAt s.tile).owner 0 ≠ none ∧ [8 + 1, 0, 1].all s.mayName = false ∧ s.mayRelease 9 = false) ∧
    (claimed 0).accTagOf 0 = 0#32 ∧
    (let s := (claimed 0x010000BA).setK { user.q.k with bank := [(0x00, 32), (0x01, 128), (0x02, 0x010000BA)] }
     (match s.rowFault 0#64 (strideOf (look s.q.k.bank 0x00)) true with
       | .ok w => decide (dClass w.desc < 4)
       | .error _ => false) = true ∧
       (match s.rowFault 0x17000#64 (strideOf (look s.q.k.bank 0x01)) false with
         | .ok _ => true
         | .error _ => false) = true) := by
  unfold HasHandler; decide +kernel

theorem witness_EngineRegistersAndMwait :
    (0x03, 0xFFFE0000FFFE0000#64) ∈ bankReserved ∧ 0x0001FFFF0001FFFF#64 &&& 0xFFFE0000FFFE0000#64 = 0#64 ∧ 0xFF#64 &&& 0xFFFFFFFFFFFFFF00#64 = 0#64 ∧
    (let s := withRegs user [(2, 0x17FF8)]
     s.q.mq = [] ∧ s.vectorStores = false ∧ s.ownLevel (tileKey s.tile (s.x 2#5).toNat) 8 = none ∧ field (s.x 2#5) 2 0 = 0 ∧ (s.x 2#5).toNat + 8 ≤ 0x18000 ∧
       s.outsideShare s.q.k.lnum s.tile (s.x 2#5).toNat 8 = none ∧ s.frozenAt s.q.k.lnum s.grp 0 (s.x 2#5).toNat 8 = none) ∧
    HasHandler user ∧ field (0x300#64) 9 8 = 3 ∧ field (0x400#64) 9 8 = 0 ∧ field (0x400#64) 63 10 ≠ 0 ∧ field (0x1FF#64) 9 8 = 1 ∧
    0x18000 ≤ (0x18000#64).toNat ∧ (0x17FFC#64).toNat < 0x18000 ∧ field (0x17FFC#64) 2 0 ≠ 0 ∧
    (user.tileAt user.tile).slots user.q.k.sec &&& 0xFF#8 = 0xFF#8 ∧ (Tile.reset.putSlot false 7 false).slots false &&& 0x80#8 ≠ 0x80#8 := by
  unfold HasHandler; decide +kernel

/-- Both slots hold elements of one descriptor, and a command on them is next. -/
def tagged (tag : BitVec 32) (op : MOp) : State :=
  let s := claimed tag
  { s with q := { s.q with mq := [{ s.mEntry op 0 1 0 with tagA := tag, tagB := tag }] } }
/-- A fetch of a bound handle, in the exchange that it belongs to. -/
def filling (h : Handle) : State :=
  let s := (claimed 0x010000BA).setDie 0 { Die.reset with handles := [(0, h)] }
  { s with q := { s.q with mq := [{ s.mEntry (.fts 7 0) 0 1 0 with hdl := some h, exch := true }] } }
/-- A drain of accumulator 0 as words at the start of the tile. -/
def draining : State :=
  let s := claimed 0x010000BA
  { s with q := { s.q with mq := [{ s.mEntry (.drn 0 0) 0 1 0 with desc := 0x04000000, stride := 128 }] } }

theorem witness_MatrixDispatchAndRetire :
    (∀ op ∈ [MOp.mza 0, MOp.rel 0, MOp.rel 8, MOp.mma 0 0 1, MOp.mmat 0 0 1],
      ((commanded op false).mPick 0).map (fun p => (p.1, p.2.op)) = some (2, op) ∧ ((commanded op false).tileAt 0).badUnit = []) ∧
    dClass 0x010000BA#32 = 1 ∧ (8 : Nat) < 12 ∧
    (let s := commanded (.mza 0) true
     (s.seqAt 2).mq.length = 1 ∧ (s.seqAt 2).mq.all (fun e => e.running && decide (e.until_ ≤ s.clk) && e.set == some 0 && e.flags == 0#5) = true) := by
  decide +kernel

theorem witness_MatrixDispatchAndRetire_data :
    (((tagged 0x04000000 (.mma 0 0 1)).mPick 0).map (fun p => (p.2.op, p.2.tagA)) = some (.mma 0 0 1, 0x04000000#32) ∧
      ((tagged 0x04000000 (.mmat 0 0 1)).mPick 0).map (fun p => (p.2.op, p.2.tagA)) = some (.mmat 0 0 1, 0x04000000#32) ∧
      ((tagged 0x04000000 (.mopr 0 0 1)).mPick 0).map (fun p => (p.2.op, p.2.tagA)) = some (.mopr 0 0 1, 0x04000000#32) ∧
      ((tagged 0x010000BA (.mopr 0 0 1)).mPick 0).map (fun p => (p.2.op, p.2.tagA)) = some (.mopr 0 0 1, 0x010000BA#32)) ∧
    (let s := tagged 0x04000000 (.mma 0 0 1)
     Clean s 0 0 0x04000000 (List.range 32) ∧ Clean s 0 1 0x04000000 [31] ∧ 512 + 0 ∉ (s.tileAt 0).badUnit) ∧
    dClass 0x04000000#32 ≠ 1 ∧
    -- fills and drains: of rows of INT8 codes, of a bound handle, and of FP32 words
    (let s := commanded (.fil 7 0) false
     (s.mPick 0).map (fun p => (p.2.op, p.2.shadowBad)) = some (.fil 7 0, []) ∧ dWidth 0x010000BA#32 ≤ 16 ∧ s.bad = []) ∧
    (let h : Handle := { desc := 0x010000BA, first := 0, count := 64, rows := 64, cols := 64, base := 0, lnum := 1, tree := none }
     let s := filling h
     (s.mPick 0).map (fun p => (p.2.op, p.2.hdl)) = some (.fts 7 0, some h) ∧ s.bad = [] ∧ (s.dieAt (0 / 2048)).parts = [] ∧ dWidth h.desc ≤ 16) ∧
    (let s := draining
     (s.mPick 0).map (fun p => (p.2.op, p.2.desc)) = some (.drn 0 0, 0x04000000#32) ∧ regionOf 0 = .raw 0 ∧ dWidth 0x04000000#32 = 32) := by
  unfold Clean; decide +kernel

/-! ## Copies and the tensor store -/

/-- A parameter block at 0x17FC0: one element of 8 bytes, or of 4, from 0 to 0x40 of the tile. -/
def blocked (kind esz : Nat) : State :=
  (withRegs user [(1, 0x17FC0)]).poke (tileKey 0 0x17FC0)
    (leBytes 4 (kind * 2 ^ 30 + esz * 2 ^ 25) ++ leBytes 4 0 ++ leBytes 8 0 ++ leBytes 8 0x40 ++ leBytes 2 1)

theorem witness_CopiesArePosted :
    HasHandler user ∧ field (0x17FC1#64) 5 0 ≠ 0 ∧ (field (0x18000#64) 5 0 = 0 ∧ regionOf 0x18000 = .none) ∧
    (∀ p ∈ [(0, 3), (1, 2), (2, 2)],
      let s := blocked p.1 p.2
      field (s.x 1#5) 5 0 = 0 ∧ regionOf (s.x 1#5).toNat = .raw 0x17FC0 ∧ look s.q.k.tok 7 ≠ 0xFF#8 ∧
      s.unstarted 15 + 1 ≤ 1024 ∧ s.vectorStores = false ∧ s.stationHeld = false ∧
      (match s.readBlock 15 (s.x 1#5) with
        | .ok (bs, s') => s'.blockOk (parseBlock bs) bs p.1 && (s'.elementFault (parseBlock bs) (field (s.csr 0x081) 16 0)).isNone
            && !s'.blockOk (parseBlock bs) bs (3 - p.1)
        | .error _ => false) = true) := by
  unfold HasHandler; decide +kernel

theorem witness_CopyControl :
    (field (user.x 1#5) 47 0 ≤ field (look (user.dieAt user.die).timeline (context user 7)) 47 0 ∧ look user.q.k.tok 7 = 0#8) ∧
    (field (user.x 1#5) 47 0 ≤ (look user.launch.stageCtr user.die).toNat ∧ HasHandler user ∧ 0 + 256 < field (257#64) 47 0 ∧
      field (256#64) 47 0 ≤ 0 + 256 ∧ (user.stageLists 15 (range 1 256)).1.length = 0 ∧ (look user.launch.stageCtr user.die).toNat = 0 ∧ user.launchAt? user.q.k.lnum ≠ none ∧ (look user.q.k.tok 7).toNat + 0 ≤ 255 ∧ HasRoom user 15 0) ∧
    (user.vectorStores = false ∧ user.stationHeld = false ∧
      (look (user.dieAt user.die).posted (context user 0)).toNat ≤ (look (user.dieAt user.die).timeline (context user 0)).toNat ∧
      (let s := user.setDie 0 { Die.reset with posted := [(0, 1)] }
       ¬ (look (s.dieAt s.die).posted (context s 0)).toNat ≤ (look (s.dieAt s.die).timeline (context s 0)).toNat) ∧
      (let s := withRegs user [(1, 0x17FE0)]
       field (s.x 1#5) 4 0 = 0 ∧ (s.x 1#5).toNat + 32 ≤ 0x18000 ∧ s.outsideShare s.q.k.lnum s.tile (s.x 1#5).toNat 32 = none ∧
         s.frozenAt s.q.k.lnum s.grp 0 (s.x 1#5).toNat 32 = none ∧ s.sourceHeld s.q.k.lnum (tileKey s.tile (s.x 1#5).toNat) 32 = false)) := by
  unfold HasHandler HasRoom; decide +kernel

/-- A bound FP32 handle of 64 by 64 elements: four blocks. -/
def tensor : Handle := { desc := 0x06000000, first := 0, count := 64, rows := 64, cols := 64, base := 0, lnum := 1, tree := none }
def bound : State := user.setDie 0 { Die.reset with handles := [(0, tensor), (1, tensor)] }

theorem witness_TensorStoreCommands :
    (let s := withRegs bound [(1, BitVec.ofNat 64 (4 * 2 ^ 38)), (2, 1)]
     HasRoom s 0 1 ∧ s.handleOf (field (s.x 1#5) 11 0) = some tensor ∧ field (s.x 1#5) 63 38 = 4 ∧ field (s.x 1#5) 37 12 + 4 ≤ tensor.blocks ∧
       s.handleOf (field (s.x 2#5) 11 0) = some tensor ∧ field (s.x 2#5) 63 38 = 0 ∧ field (s.x 2#5) 37 12 + 4 ≤ tensor.blocks ∧ HasHandler s ∧
       tensor.blocks < 0 + field (BitVec.ofNat 64 (5 * 2 ^ 38)) 63 38 ∧ s.tensorOpen = false ∧ s.handleOf 2 = none) ∧
    (let s := (withRegs user [(1, 0x17FE0), (2, 4095)]).poke (tileKey 0 0x17FE0) (leBytes 4 0x06000000 ++ leBytes 4 64 ++ leBytes 8 (32 + 32 * 2 ^ 26))
     let bs := s.peek (tileKey s.tile (s.x 1#5).toNat) 32
     let h := parseHandle bs s.q.k.lnum
     field (s.x 1#5) 4 0 = 0 ∧ (s.x 1#5).toNat + 32 ≤ 0x18000 ∧ s.outsideShare s.q.k.lnum s.tile (s.x 1#5).toNat 32 = none ∧ s.vectorStores = false ∧
       s.isBad (tileKey s.tile (s.x 1#5).toNat) 32 = false ∧ handleFieldsOk bs h = true ∧
       find? (s.dieAt s.die).handles (field (s.x 2#5) 11 0) = none ∧
       (match find? s.spaces s.launch.space with
         | some sp => decide (sp.bytes ≤ 0x1800000) && h.fits sp.bytes (fun p => sp.parts.getLsbD p)
         | none => false) = true) := by
  unfold HasHandler HasRoom; decide +kernel

/-- A block that copies one doubleword. -/
def oneWord : Block := parseBlock (leBytes 4 0x06000000 ++ leBytes 4 0 ++ leBytes 8 0 ++ leBytes 8 0x17FF8 ++ leBytes 2 1)
def copying (op : CopyOp) (st : CopySt) : Copy :=
  { id := 0, eng := 0, op := op, ctx := 0, num := 1, tok := some 7, party := 1, sq := 2, lnum := 1, space := 1, sec := false, tile := 0, home := 0, level := .group,
    desc := 0, hsrc := none, hdst := none, joins := [], exch := none, st := st, status := 0, psz := 0, dests := [], unsent := [], ep := 0, signalled := false,
    held := false }
def withCopy (c : Copy) : State := (user.setDie 0 { Die.reset with copies := [c] }).setK { user.q.k with party := 1 }

/-- Four doublewords, of which two go to one place and two to the next; to this tile, or to tile 1. -/
def fourWords (dk : Nat) : Block :=
  { oneWord with ndim := 2, ext := [2, 2], ss := [0, 0], ds := [0, 1], dk := dk, dst := if dk = 3 then 0x30000 else 0x10000 }
def fourData : List (Nat × List Byte) := (List.range 4).map (fun e => (e, List.replicate 8 (BitVec.ofNat 8 e)))

theorem witness_CopiesStartAndArePerformed_elements :
    ∀ dk ∈ [0, 3],
      let b := fourWords dk
      let c := copying (.block b) (.started fourData [])
      let s := withCopy c
      let key (e : Nat) : Nat := tileKey (if dk = 3 then 1 else 0) 0x10000 + 8 * (e / 2)
      s.copyAt 0 0 = some c ∧ b.count = 4 ∧ b.bytes = 8 ∧ b.kind = 0 ∧ b.rdir = 0 ∧ b.of = false ∧ s.writesHeld 0 c b = false ∧ s.copyFrozen c b = false ∧
      (∀ p ∈ fourData, p.2.length = b.bytes ∧
        (match (if dk = 3 then s.tileWordKey 1 (b.dstAt p.1) 8 else s.localKey 1 0 0 false (b.dstAt p.1) 8) with
          | .ok k => k == key p.1
          | .error _ => false) = true) ∧
      key 1 + 8 ≤ key 2 ∧ key 0 = key 1 := by
  decide +kernel

/-- The tensor store: the blocks 0 and 1 of a handle of four and the blocks 2 and 3 of another at a later place; and handles of unequal slots. -/
theorem witness_CopiesStartAndArePerformed_tensors :
    let h2 : Handle := { tensor with base := 0x100000 }
    let wide : Handle := { tensor with desc := 0x010000BA, base := 0x200000 }
    (∀ op ∈ [CopyOp.tsc tensor 0 2 h2 2, CopyOp.tscmp tensor 0 2 h2 2 4095, CopyOp.tsc tensor 0 2 wide 2, CopyOp.tscmp tensor 0 2 wide 2 4095],
      let c := copying op .waiting
      let s := (withCopy c).setDie 0 { (withCopy c).dieAt 0 with handles := [(0, tensor), (1, h2), (4095, wide)] }
      s.copyAt 0 0 = some c ∧ c.op = op ∧ c.status = 0 ∧ s.opWaits 0 c = false ∧
      (∀ h ∈ [tensor, h2, wide], s.stillBound 0 h = true ∧ s.rangeOffline 0 h 0 4 = false ∧ s.rangeBad 0 h 0 4 = false)) ∧
    tensor.slotSize = h2.slotSize ∧ tensor.slotSize ≠ wide.slotSize ∧ (h2.key 0 2 + tensor.slotSize ≤ h2.key 0 3 ∨ h2.key 0 3 + tensor.slotSize ≤ h2.key 0 2) := by
  decide +kernel

theorem witness_CopiesStartAndArePerformed :
    (let c := copying (.block oneWord) .waiting
     (withCopy c).copyAt 0 0 = some c ∧ (withCopy c).mayStart 0 c oneWord = true ∧ oneWord.rdir = 0) ∧
    (let c := copying (.block oneWord) (.started [(0, [1, 2, 3, 4, 5, 6, 7, 8])] [])
     (withCopy c).copyAt 0 0 = some c ∧ c.sourceDone = true ∧ (withCopy c).q.mode ≠ .idle ∧ (withCopy c).grp = grpOf c.tile ∧ oneWord.kind = 0 ∧
       oneWord.of = false ∧ oneWord.dk = 0 ∧ oneWord.bytes = 8 ∧ (withCopy c).writesHeld 0 c oneWord = false ∧ (withCopy c).copyFrozen c oneWord = false ∧
       (match (withCopy c).localKey 1 0 0 false (oneWord.dstAt 0) 8 with
         | .ok key => key == tileKey 0 0x17FF8
         | .error _ => false) = true) ∧
    (let c := copying (.tsz tensor 0 4) .waiting
     let s := (withCopy c).setDie 0 { (withCopy c).dieAt 0 with handles := [(0, tensor)] }
     s.copyAt 0 0 = some c ∧ c.status = 0 ∧ s.stillBound 0 tensor = true ∧ s.rangeOffline 0 tensor 0 4 = false ∧
       s.opWaits 0 c = false) := by
  decide +kernel

/-! ## The engines -/

def tree : Tree :=
  { lnum := 1, hid := 0, nleaf := 16, beta := 0, key := 0, prio := [], gen := [], staged := [], stale := 0, refused := 0, refusedSt := 0, hdl := none, clrBy := [],
    failed := false, badStore := false, queue := [] }
def treed (t : Tree) : State := user.setDie 0 { Die.reset with trees := [(0, t)] }
def prCmd (op : PrOp) : PrCmd :=
  { op := op, addr := 0x17FE0, tile := 0, home := 0, role := 2, ts := 0, party := 1, ctx := 0, num := 1, beta := 0, key := 0, order := 0, step := 0, ep := 0 }
def sigHeld : Sig := { Sig.reset with held := some 1, d := 2, m := 1 }
def signed (x : Sig) : State := user.setGroup 0 { Group.reset with sig := x }
def sgCmd (op : SgOp) : SgCmd := { op := op, addr := 0x17FF8, tile := 0, party := 1, ctx := 0, num := 1, step := none, ep := 0 }
def meeting : Meeting :=
  { lnum := 1, space := 1, home := true, len := 1, n := 3, quorum := 2, lambda := 0, open_ := 5, resKey := tileKey 0 0x17FE0, work := 0, link := 0, replay := false,
    bcast := false, members := [0, 0, 0], onTime := [], late := [], back := [], next := [], done := [], excluded := [], senders := [], lagDrop := [],
    refused := 0, dropped := 0, records := [], forced := [], failed := none, badWork := false, queue := [] }
def meets (x : Meeting) : State := user.setGroup 0 { Group.reset with meet := [(0, x)] }
def qmCmd (op : QmOp) : QmCmd := { op := op, addr := 0, tile := 0, party := 1, ctx := 0, num := 1, sent := false, status := 0, ep := 0 }

theorem witness_TreeSignatureAndMeetingCommands_trees :
    (HasHandler user ∧ user.treeOf 3 = none ∧ user.sigOf = none ∧ user.meetOf 15 = none) ∧
    (let s := withRegs (treed tree) [(1, 0x17FF0), (2, 1)]
     (s.treeOf 0).isSome = true ∧ 16 * (s.x 2#5).toNat ≤ treeLimit (.put 1) ∧ InTile s (s.x 1#5) 16 16 ∧ s.prFull = false ∧ s.vectorStores = false ∧
       s.stationHeld = false) ∧
    (let s := (withRegs (treed tree) [(1, 0x17FC0), (2, 0x17FF0)]).poke (tileKey 0 0x17FC0) [1]
     let key := tileKey s.tile (s.x 1#5).toNat
     InTile s (s.x 1#5) 32 32 ∧ s.isBad key 32 = false ∧ drawOk (s.peek key 32) = true ∧ s.peekNat (key + 2) 1 = 0 ∧
       InTile s (s.x 2#5) (16 * s.peekNat key 2) 16) ∧
    (let s := (withRegs bound [(1, 0x17FE0)]).poke (tileKey 0 0x17FE0) (leBytes 4 1 ++ leBytes 4 16 ++ leBytes 4 0x42800000)
     let key := tileKey s.tile (s.x 1#5).toNat
     let fp32 : Handle := { tensor with desc := 0x04000000 }
     let s := s.setDie 0 { s.dieAt 0 with handles := [(1, fp32)] }
     InTile s (s.x 1#5) 32 32 ∧ s.vectorStores = false ∧ s.isBad key 32 = false ∧ treeConfigOk (s.peek key 32) = true ∧
       find? (s.dieAt s.die).trees 0 = none ∧ s.handleOf (s.peekNat key 2) = some fp32 ∧ 4 * 2 ^ log2up (s.peekNat (key + 4) 4) ≤ 64 * 64 ∧
       s.handleBusy fp32 = false) := by
  unfold HasHandler InTile; decide +kernel

theorem witness_TreeSignatureAndMeetingCommands_signatures :
    (let s := withRegs (signed sigHeld) [(1, 0x17FF8), (2, 1)]
     s.sigOf = some sigHeld ∧ 1 ≤ (s.x 2#5).toNat ∧ (s.x 2#5).toNat ≤ 4096 ∧ InTile s (s.x 1#5) 8 4 ∧
       sigHeld.queue.length < (s.dieAt s.die).sgQlim ∧ s.launch.secondary = false ∧ (s.groupAt s.grp).sig.held = some s.q.k.lnum) ∧
    (let s := withRegs user [(1, 0x610)]
     (s.groupAt s.grp).sig.held = none ∧ s.x 1#5 &&& 0xFFFFFFFFFFFFF8E0#64 = 0#64 ∧ field (s.x 1#5) 4 0 = 16 ∧ shapeOk 2 6 false = true ∧
       shapeOk 16 3 false = true ∧ 0 ∈ s.footOf s.q.k.lnum ∧ (s.groupAt s.grp).sig.queue = []) := by
  unfold InTile; decide +kernel

theorem witness_TreeSignatureAndMeetingCommands_meetings :
    (let s := withRegs (meets meeting) [(1, 0x17FE0), (2, 0x700000005)]
     s.meetOf 0 = some meeting ∧ field (s.x 2#5) 63 43 = 0 ∧ InTile s (s.x 1#5) 4 32 ∧ s.qmFull = false ∧ field (4#64) 31 0 < meeting.open_ ∧
       2 < meeting.n ∧ 2 ∉ meeting.excluded ∧ meeting.quorum + 0 < meeting.n ∧ find? s.seqs s.cur = none) ∧
    -- a member meeting whose home is meeting 0 of this group, which sends no results
    (let x : Meeting := { meeting with home := false, link := 1 * 2 ^ 21 }
     let s := withRegs (user.setGroup 0 { Group.reset with meet := [(1, { meeting with home := true }), (2, x)] }) [(1, 5)]
     s.meetOf 2 = some x ∧ HasHandler s ∧ x.open_ ≤ field (s.x 1#5) 31 0 ∧ s.homeSilent x = true) ∧
    (let s := (withRegs user [(1, 0x17F80)]).poke (tileKey 0 0x17F80) ([1, 0] ++ leBytes 2 1 ++ leBytes 8 0 ++ leBytes 4 9 ++ leBytes 8 0x17FE0)
     let key := tileKey s.tile (s.x 1#5).toNat
     InTile s (s.x 1#5) 64 32 ∧ s.isBad key 64 = false ∧ s.meetAt s.grp 0 = none ∧ s.peekNat key 1 = 1 ∧
       meetingFieldsOk (s.peek key 64) (parseMeeting (s.peek key 64)) = true ∧ InTile s (BitVec.ofNat 64 (s.peekNat (key + 16) 8)) 4 32) := by
  unfold InTile HasHandler; decide +kernel

/-- Member 2 of package 1 contributes 7 to round 5 of meeting 0, and its packet has arrived. -/
def fromOne : Contribution := { pkg := 1, member := 2, tag := 5, vals := [7], fromMeeting := 0 }
def contributed (x : Meeting) : State :=
  { meets x with
    srcs := [(65536, { SrcCtx.empty with
      flags := [(0, { blankPacket 5 [7, 0, 0, 0] with src := 1, win := 0xFF, cidx := 2, rnd := 5, oseq := 1 })], marks := [1] })] }

theorem witness_EngineCommandsExecute :
    (∀ op ∈ [PrOp.sum, PrOp.put 1],
      let x : Tree := { tree with queue := [prCmd op] }
      let s := treed x
      s.treeToRun 0 0 = some (x, false) ∧ x.failed = false ∧ (s.barOf 1 .die 0).exch = true ∧ (prCmd op).step.toNat ≤ (s.barOf 1 .die 0).count.toNat ∧
        s.prFrozen 1 (prCmd op) = false) ∧
    -- PRSUM of a tree whose handle is bound to it, its blocks online and in no error
    (let x : Tree := { tree with hdl := some tensor, queue := [prCmd .sum] }
     let s := (treed x).setDie 0 { (treed x).dieAt 0 with handles := [(0, { tensor with tree := some 0 })] }
     s.treeToRun 0 0 = some (x, false) ∧ x.failed = false ∧ x.badStore = false ∧ find? (s.dieAt 0).handles x.hid = some { tensor with tree := some (0#2).toNat } ∧
       (s.barOf 1 .die 0).exch = true ∧ (prCmd .sum).step.toNat ≤ (s.barOf 1 .die 0).count.toNat ∧ s.prFrozen 1 (prCmd .sum) = false ∧
       s.rangeOffline 0 tensor 0 tensor.blocks = false ∧ s.rangeBad 0 tensor 0 tensor.blocks = false) ∧
    (∀ op ∈ [SgOp.clr, SgOp.inc 1],
      let x : Sig := { sigHeld with queue := [sgCmd op] }
      let s := signed x
      (s.groupAt 0).sig = x ∧ x.failed = false ∧ x.team = false ∧ x.badStore = false ∧ x.m = 1 ∧ (sgCmd op).step = none ∧ s.sgFrozen 1 0 { x with queue := [] } (sgCmd op) = false ∧
        s.sgFrozen 1 0 x (sgCmd op) = false ∧ s.isBad (State.sgKey 0 (sgCmd op)) 8 = false ∧ s.waitingOf 1 (sgCmd op).party = []) ∧
    (let x : Meeting := { meeting with members := [0, 0, 1], queue := [qmCmd (.recRead 5)] }
     let s := contributed x
     s.meetAt 0 0 = some x ∧ Arrived s 0 0 fromOne ∧ x.len = fromOne.vals.length ∧ (qmCmd (.recRead 5)).sent = false ∧ s.qmFrozen 1 0 0 2336 = false ∧ x.badWork = false ∧ x.home = true ∧ x.replay = false ∧ x.open_ = 5 ∧
       x.known 2 5 = false ∧ x.onTime.length + 1 < x.quorum ∧ field ((x.members.getD 2 0).setWidth 64) 10 0 = fromOne.pkg.toNat ∧
       (meets { x with home := false }).meetAt 0 0 = some { x with home := false } ∧ [7#32].length = x.len) := by
  unfold Arrived; decide +kernel

theorem witness_EngineEventsComplete :
    (∀ leaving ∈ [false, true],
      let x : Tree := { tree with queue := [prCmd (.upd 1)] }
      let s := if leaving then user.setDie 0 { Die.reset with leaving := [(0, x)] } else treed x
      s.treeToRun 0 0 = some (x, leaving) ∧ (s.barOf 1 .die 0).exch = true ∧ (prCmd (.upd 1)).step.toNat ≤ (s.barOf 1 .die 0).count.toNat ∧
        s.prFrozen 1 (prCmd (.upd 1)) = false) ∧
    (∀ waits ∈ [false, true],
      let c : SgCmd := { sgCmd (.inc 1) with step := if waits then some 0 else none }
      let s := signed { sigHeld with queue := [c] }
      (s.groupAt 0).sig.held = some 1 ∧ (s.barOf 1 .group 0).exch = true ∧ (0#64).toNat ≤ (s.barOf 1 .group 0).count.toNat ∧
        s.sgFrozen 1 0 (s.groupAt 0).sig c = false) ∧
    (∀ op ∈ [QmOp.recRead 5, .recForce 5, .join 5 2],
      let x : Meeting := { meeting with queue := [{ qmCmd op with sent := true }, qmCmd op] }
      let s := meets x
      s.meetAt 0 0 = some x ∧ x.queue.find? (fun c => !c.sent) = some (qmCmd op) ∧ s.qmFrozen 1 0 0 2336 = false ∧ s.qmFrozen 1 0 0 (4 * x.len) = false) ∧
    -- a home in package 1, whose space for the job is known
    (let x : Meeting := { meeting with home := false, link := 1, queue := [qmCmd (.join 5 2)] }
     let s : State := { withLaunch (meets x) (fun y => { y with job := 1 }) with jobs := [(1, [0, 1])], jobSpaces := [(1, 1, 3)] }
     s.meetAt 0 0 = some x ∧ field x.link 10 0 = 1 ∧ s.index = 0 ∧ s.remote 1 1 ≠ .waits ∧
       s.unacked 0 (qmCmd (.join 5 2)).ctx 1 + (4 * x.len + 255) / 256 ≤ 4096) ∧
    Arrived (contributed meeting) 0 0 fromOne ∧
    (let x : Meeting := { meeting with home := false }
     (meets x).meetAt 0 0 = some x ∧ x.open_ ≤ (5#32).toNat ∧ x.open_ ≤ (0xFFFFFFFF#32).toNat) := by
  unfold Arrived; decide +kernel

/-! ## The schedule, launches and the admin queue -/

/-- Group 0's record 0: ready or waiting, on tile 0, role 2, of launch 1, with its registers still in the spill buffer. -/
def recorded (st : Nat) : State :=
  let s := { (withLaunch user (fun x => { x with placed := true })).setGroup 0 { Group.reset with spills := [{ party := 0, space := 1, sq := 2, addr := 0, data := List.replicate 128 0 }] } with
    q := Seq.reset 2 }
  (s.poke (recKey 0 0) (leBytes 8 0x4000)).poke (recKey 0 0 + 16) ([1, 0, BitVec.ofNat 8 (4 * st + 2)])

/-- The contexts that a filled record holds are all that the check of them changes. -/
theorem ownContexts_csr (s : State) (g : Nat) (k : Cont) : ∃ c, s.ownContexts g k = { k with csr := c } := by
  suffices h : ∀ (xs : List Nat) (k : Cont), ∃ c, xs.foldl (fun k n =>
      if s.ownsCtx k.lnum (g / 128) (bits (look k.csr (0x0B0 + n)) 11 0) then k
      else { k with csr := put k.csr (0x0B0 + n) (slotContext g k.sec n) }) k = { k with csr := c } from h _ k
  intro xs
  induction xs with
  | nil => exact fun k => ⟨k.csr, rfl⟩
  | cons n xs ih =>
    intro k
    simp only [List.foldl_cons]
    split
    · exact ih k
    · obtain ⟨c, hc⟩ := ih { k with csr := put k.csr (0x0B0 + n) (slotContext g k.sec n) }
      exact ⟨c, hc⟩

/-- The record that a pick loads has no cause pending. -/
theorem recorded_loads : ((recorded 1).loadCont 2 0).1.pend = none ∧ ((recorded 1).loadCont 2 0).1.pendMore = [] := by
  have h1 : grpOf (tileOf 2) = 0 := rfl
  have h2 : (recorded 1).recLnum 0 0 = 1 := by decide +kernel
  have h3 : (recorded 1).recDword 0 0 8 = 0 := by decide +kernel
  have h4 : find? ((recorded 1).groupAt 0).side 0 = none := by decide +kernel
  have h5 : (recorded 1).fillWords 0 0 ((recorded 1).launchAt 1).space 0 128 = (List.replicate 128 0, [], recorded 1) := by
    have : ((recorded 1).groupAt 0).findSpill 0 0 = some (List.replicate 128 0) := by decide +kernel
    simp only [State.fillWords, this]
  have h6 : (recorded 1).recDword 0 0 48 = 0 := by decide +kernel
  have h7 : (recorded 1).recDword 0 0 32 = 0 := by decide +kernel
  simp only [State.loadCont, h1, h2, h3, h4, h5, h6, h7, Option.getD_none, List.isEmpty_nil, if_true]
  rw [(ownContexts_csr _ _ _).choose_spec]
  exact ⟨rfl, rfl⟩

def seqWith (f : Seq → Seq) : State := { user with q := f user.q }

theorem witness_SchedulingSteps :
    (let s := recorded 1
     s.seqFree 2 = true ∧ s.pickTurn 2 = true ∧ s.pickSlot 2 = some 0) ∧
    (recorded 3).recordDue 0 0 = true ∧
    (let s := seqWith (fun q => { q with hold := some (.wait (0x1000000000000001#64) 0) })
     (s.seqAt 2).mode = .run ∧ (s.focusOn 2).waitHolds (0x1000000000000001#64) = false ∧
       (s.focusOn 2).waitHolds (0x1000000000000000#64) = true) ∧
    (let s := seqWith (fun q => { q with hold := some .other, stop := true, k := { q.k with fault := some (0x0B, 0x10000000000), pend := none } })
     (s.seqAt 2).k.pend = none ∧ (s.seqAt 2).hold = some .other ∧ (s.seqAt 2).stop = true ∧ (s.seqAt 2).k.fault = some (0x0B, 0x10000000000)) ∧
    (let s := seqWith (fun q => { q with k := { q.k with pend := some (0x0B, 0) } })
     HasHandler (s.focusOn 2) ∧ (s.seqAt 2).k.pend = some (0x0B, 0)) ∧
    (let s := seqWith (fun q => { q with mode := .writeBack 0 })
     (s.seqAt 2).mode = .writeBack 0 ∧ (s.seqAt 2).vq = [] ∧ s.underWay (s.seqAt 2).k.lnum (s.seqAt 2).k.party = false ∧ (s.seqAt 2).k.fault = none ∧ (s.seqAt 2).k.lnum < 65536 ∧
        (s.groupAt 0).spilled + (s.seqAt 2).k.saveSize ≤ 0xC000) ∧
    (let s := mapped.setGroup 0 { Group.reset with spills := [{ party := 0, space := 1, sq := 2, addr := page, data := [7] }] }
     (s.groupAt 0).spills.length = 1 ∧ s.inText 1 page.toNat = false ∧
       (match s.translate 0 1 page.toNat with
         | .ok (leaf, pa, _) => permits leaf .st && physKind s.form pa != some .dev
         | .error _ => false) = true) := by
  unfold HasHandler; decide +kernel

/-! ## Launches and device registers -/

/-- Queue 0, of which the host has announced one entry; a space with a mapped page. -/
def queued : Queue := { cls := 3, base := 0, n := 4, hbm := false, function := 0, space := 1, head := 0x9000, read := 0, stopped := false }
def ringed : State :=
  { fetchPages State.reset 0 with
    bootStep := 8, queues := [(0, queued)], dev := put State.reset.dev 0 1, spaces := [(1, { root := 0x100000, parts := 1, bytes := 0x1800000 })] }
/-- A launch that waits for its placement on one tile. -/
def waits (x : Launch) : State := { ringed with launches := [(1, x)], accepted := [1], clk := 105001 }

theorem witness_LaunchesAreAcceptedAndPlaced :
    (ringed.nextQueue = some 0 ∧ find? ringed.queues 0 = some queued ∧ queued.hbm = false ∧ operandAt 2#512 0 1 ≠ 1 ∧ operandAt 1#512 0 1 = 1 ∧
      (ringed.checkLaunch 0 queued (entryBytes 1#512)).isNone = true) ∧
    (let x : Launch := { State.Launch.empty with space := 1, foot := [0], placed := false }
     (waits x).launchAt? 1 = some x ∧ (waits x).placeTurn 1 x = true ∧ (waits x).chooseFoot x = some [0] ∧ ((waits x).readParts x).isSome = true ∧
       (waits x).accepted = [] ++ 1 :: [] ∧ (waits x).plHalt = none ∧ field (look (waits x).dev 0x100008) 31 0 ≠ 0 ∧
       x.acceptedAt + field (look (waits x).dev 0x100008) 31 0 * 1050 < (waits x).clk) ∧
    (let x : Launch := { State.Launch.empty with space := 1, foot := [0], placed := false, parts := [(0, 1)] }
     (waits x).chooseFoot x = some [0] ∧ ((waits x).readParts x).isNone = true) := by
  decide +kernel

/-- An image that declares one launch of one tile, in a page of 1 GiB, and a command for it. -/
def imaged : State :=
  ((((({ ringed with mem := [] } : State).poke 0x100010 (leBytes 8 0x220001)).poke 0x220000 (leBytes 8 0x4000001F)).poke 0x40000000
    (asciiBytes "VRM8IMG" ++ [0] ++ leBytes 4 1 ++ leBytes 4 1)).poke 0x40000020 (leBytes 8 64)).poke 0x40000060 (leBytes 4 4096)
def launchEntry : BitVec 512 := BitVec.ofNat 512 (1 + 7 * 2 ^ 16 + 2 ^ 40 * 2 ^ 64 + 2 ^ 256 + 2 ^ 288)

theorem witness_LaunchesAreAcceptedAndPlaced_accepted :
    operandAt launchEntry 0 1 = 1 ∧ operandAt launchEntry 2 2 = 7 ∧ (imaged.checkLaunch 0 queued (entryBytes launchEntry)).isSome = true := by
  decide +kernel

theorem witness_DeviceRegistersTakeTheirValue :
    find? ringed.queues 0 = some queued ∧ queued.function = (0#4).toNat ∧ queued.function ≠ (15#4).toNat ∧ find? ringed.queues 63 = none ∧ field (look ringed.dev 0x200008) 31 0 < (1#32).toNat ∧
    (0#32).toNat ≤ field (look ringed.dev 0x200008) 31 0 ∧ field (look ringed.dev 0x200008) 31 0 + 1 < 2 ^ 32 ∧ (7#3).toNat < dieCount ringed.form ∧ dieCount .v8d ≤ (7#3).toNat ∧
    1 ≤ field (0x0000003C00000003#64) 63 32 ∧ field (0x00000E1000000003#64) 63 32 ≤ 3600 ∧ devMask (0xFFFFFFF8 / 8 * 8) = none := by
  decide +kernel

/-! ## The admin queue -/

/-- The admin queue has one entry. -/
def admin (s : State) : State := { s with bootStep := 8, dev := put State.reset.dev 0x40000 1 }
/-- An entry by its operands: value and byte offset. -/
def entry (xs : List (Nat × Nat)) : BitVec 512 := BitVec.ofNat 512 (xs.foldl (fun n x => n + x.1 * 256 ^ x.2) 0)
/-- AdminReady, as it is evaluated. -/
def ready (s : State) (e : BitVec 512) (op : Nat) (named : List (Nat × Nat)) : Bool :=
  s.adminWaits && s.bootStep == 8 && s.adminOut.isEmpty && fieldAt (entryBytes e) 0 1 == op && !strayByte (entryBytes e) named

theorem witness_AdminQueueCommands_queuesAndSpaces :
    (let e := entry [(1, 0), (63, 8), (3, 9), (16, 10), (1, 11), (15, 12), (1, 14), (0x8000, 16), (0x9000, 24)]
     ready (admin ringed) e 0x01 [(8, 5), (14, 18)] = true ∧ operandAt e 8 1 = 63 ∧ operandAt e 9 1 = 3 ∧ operandAt e 10 1 = 16 ∧ operandAt e 11 1 = 1 ∧
       operandAt e 12 1 = 15 ∧ find? (admin ringed).spaces (operandAt e 14 2) ≠ none ∧ find? (admin ringed).queues 63 = none ∧
       (admin ringed).tdiOf 15 = .unlocked ∧ find? (admin ringed).queues 0 ≠ none) ∧
    -- a queue, a space and a launch that do not exist
    (ready (admin ringed) (entry [(1, 0), (9, 14)]) 0x01 [(8, 5), (14, 18)] = true ∧ find? (admin ringed).spaces 9 = none ∧
      ready (admin ringed) (entry [(4, 0), (9, 8)]) 0x04 [(8, 2)] = true ∧ operandAt (entry [(4, 0), (9, 8)]) 8 2 = 9 ∧
      (admin ringed).launchAt? 9 = none ∧ ready (admin ringed) (entry [(7, 0), (9, 8)]) 0x07 [(8, 2)] = true ∧
      ready (admin ringed) (entry [(8, 0), (9, 8)]) 0x08 [(8, 2)] = true ∧ ready (admin ringed) (entry [(17, 0), (9, 8)]) 0x11 [(8, 2), (16, 12)] = true) ∧
    (let e := entry [(2, 0)]
     ready (admin ringed) e 0x02 [(8, 1)] = true ∧ operandAt e 8 1 = 0 ∧ find? (admin ringed).queues 0 = some queued ∧
       (admin ringed).fnFrozen queued.function = false) ∧
    (let e := entry [(3, 0), (0xFFFF, 8), (0x100000, 16), (1, 24), (0x1800000, 32)]
     ready (admin ringed) e 0x03 [(8, 2), (16, 20)] = true ∧ operandAt e 16 8 % 2 ^ 20 = 0 ∧ operandAt e 32 4 % 512 = 0 ∧ operandAt e 32 4 ≤ 0x1800000 ∧
       (admin ringed).spaceFrozen 0xFFFF = false) ∧
    (let e := entry [(4, 0), (1, 8)]
     ready (admin ringed) e 0x04 [(8, 2)] = true ∧ find? (admin ringed).spaces (operandAt e 8 2) ≠ none ∧ (admin ringed).launches = [] ∧
       (admin ringed).spaceFrozen 1 = false ∧ ready (admin ringed) (entry [(5, 0), (1, 8)]) 0x05 [(8, 2)] = true ∧
       ready (admin ringed) (entry [(5, 0), (2, 8)]) 0x05 [(8, 2)] = true ∧ find? (admin ringed).spaces 2 = none) := by
  decide +kernel

theorem witness_AdminQueueCommands_jobsAndLaunches :
    (let e := entry [(6, 0), (0xFFFFFFFF, 8), (2, 12)]
     ready (admin ringed) e 0x06 [(8, 6), (16, 8)] = true ∧ operandAt e 8 4 ≠ 0 ∧ operandAt e 12 2 = [0, 2047].length ∧ (∀ x ∈ [0, 2047], x < 2048) ∧
       (admin ringed).jobFrozen (operandAt e 8 4) = false) ∧
    (let s := admin user
     (s.launchAt? (operandAt (entry [(7, 0), (1, 8)]) 8 2)).map (·.suspended) = some false ∧ ready s (entry [(7, 0), (1, 8)]) 0x07 [(8, 2)] = true ∧
       s.q.mode = .run ∧ s.q.k.lnum = 1 ∧ ready s (entry [(8, 0), (1, 8)]) 0x08 [(8, 2)] = true ∧
       ((withLaunch s (fun x => { x with suspended := true })).launchAt? 1).map (·.suspended) = some true ∧
       ready s (entry [(17, 0), (1, 8), (4096, 16), (64, 24)]) 0x11 [(8, 2), (16, 12)] = true) ∧
    ((admin ringed).adminWaits = true ∧ (admin ringed).adminOut = [] ∧ operandAt (entry [(0, 0)]) 0 1 = 0 ∧ 0x11 < operandAt (entry [(0x12, 0)]) 0 1) ∧
    (15#4 ≠ 0#4 ∧ ringed.tdiOf 15 = .unlocked ∧ ({ ringed with tdi := [(15, .locked)] } : State).tdiOf 15 = .locked) := by
  decide +kernel

/-- An enclave of this package and package 1. -/
def enclave : Enclave := { members := [0, 1], gen := 255, secret := 0, oldGen := none, excluded := [], waiting := [], acked := [], rotatedAt := 0, pkts := [] }
def parted (p : Part) : State := (admin ringed).setDie 7 { Die.reset with parts := [(63, p)] }
def pending (j : AdminJob) (s : State) : State := { s with adminOut := [{ index := 1, job := j, done := none }] }

theorem witness_AdminPartitionAndEnclaveCommands_partitions :
    (let e (op : Nat) := entry [(op, 0), (7, 8), (63, 9)]
     operandAt (e 9) 8 1 < dieCount ringed.form ∧ operandAt (e 9) 9 1 < 64 ∧ ready (parted .online) (e 9) 0x09 [(8, 2)] = true ∧
       (parted .online).partAt 7 63 = .online ∧ ready (parted .offline) (e 10) 0x0A [(8, 2), (16, 12)] = true ∧ (parted .offline).partAt 7 63 = .offline ∧
       ready (parted .offline) (e 11) 0x0B [(8, 2)] = true) ∧
    (let s := pending (.drain 7 63) (parted .draining)
     s.partAt 7 63 = .draining ∧ (s.dieAt 7).copies = [] ∧ s.adminOut = [{ index := 1, job := .drain 7 63, done := none }]) ∧
    (let s := pending (.test 7 63 0 8) (parted .testing)
     let none_ : BitVec 128 := 4 + 1 * 2 ^ 8 + 63 * 2 ^ 16
     s.partAt 7 63 = .testing ∧ true = !([] : List (BitVec 128)).any (fun x => field (x.setWidth 64) 7 0 == 4) ∧
       (1 ≤ none_.toNat % 2 ^ 8 ∧ none_.toNat % 2 ^ 8 ≤ 4 ∧ none_.toNat / 2 ^ 8 % 2 ^ 8 ≤ 1 ∧ none_.toNat / 2 ^ 16 % 2 ^ 8 = 63 ∧
         none_.toNat / 2 ^ 24 % 2 ^ 8 = 0 ∧ none_.toNat / 2 ^ 64 = 0) ∧
       false = !([none_] : List (BitVec 128)).any (fun x => field (x.setWidth 64) 7 0 == 4) ∧ s.adminOut = [{ index := 1, job := .test 7 63 0 8, done := none }]) := by
  decide +kernel

theorem witness_AdminPartitionAndEnclaveCommands_enclaves :
    ready (admin ringed) (entry [(12, 0), (0x8000, 16), (4, 24)]) 0x0C [(16, 12), (32, 32)] = true ∧
    (let e := entry [(13, 0), (0xFFFF, 8), (2, 10), (1, 32)]
     ready (admin ringed) e 0x0D [(8, 4), (16, 18)] = true ∧ Admin.fits (.list [0, 2047]) (operandAt e 10 2) 2 = true ∧
       Admin.fits (.list [5]) (operandAt e 32 2) 48 = true ∧ operandAt e 8 2 ≠ 0 ∧ (admin ringed).index ∈ [0, 2047] ∧
       find? (admin ringed).enclaves (operandAt e 8 2) = none ∧
       -- this package leads; package 1 does not
       [0, 2047].min? = some (admin ringed).index ∧ [0, 2047].min? ≠ some ({ admin ringed with pkg := 1 } : State).index ∧
       ({ admin ringed with pkg := 1 } : State).index = 1 ∧
       (∀ last ∈ [5, 6],
         let a : MemberAnswer := { pkg := 2047, meas := List.replicate 7 0 ++ [BitVec.ofNat 384 last], accepts := true }
         a.meas.length = 8 ∧ (last = 5 ↔ a.meas.all (fun m => m == 0#384 || ([5].map (BitVec.ofNat 384)).contains m) = true))) ∧
    (let s : State := { admin ringed with enclaves := [(1, enclave)] }
     ready s (entry [(14, 0), (1, 8), (0, 10)]) 0x0E [(8, 4)] = true ∧ ready s (entry [(14, 0), (1, 8), (1, 10)]) 0x0E [(8, 4)] = true ∧
       find? s.enclaves 1 = some enclave ∧ 0 ∈ enclave.members ∧ 1 ∈ enclave.members ∧ s.groups = [] ∧ s.index = 0 ∧ enclave.oldGen = none ∧
       s.leads enclave [1] = true) ∧
    (let e := entry [(15, 0), (15, 8), (5, 9), (0, 10), (1, 12), (1, 14), (0x100, 16), (0x100, 24)]
     ready (admin ringed) e 0x0F [(8, 20), (28, 12)] = true ∧ operandAt e 8 1 ≤ 15 ∧ operandAt e 9 1 ≤ 5 ∧ operandAt e 10 2 < 2048 ∧ [0].length = operandAt e 12 2 ∧
       operandAt e 16 8 % 256 = 0 ∧ operandAt e 24 8 % 256 = 0 ∧ operandAt e 24 8 ≤ 2 ^ 30 ∧ find? (admin ringed).spaces (operandAt e 14 2) ≠ none ∧
       find? (admin ringed).windows 15 = none) ∧
    ready (admin ringed) (entry [(16, 0), (15, 8)]) 0x10 [(8, 1)] = true := by
  decide +kernel

/-! ## Packets -/

/-- A packet from package 1 to this one, at byte 0x17FF8 of tile 0. -/
def packet (kind : Nat) (payload : List Byte) : Packet :=
  { blankPacket kind payload with src := 1, dst := 0, addr := 0x17FF8, dkind := 1, oseq := 1, job := 1 }
/-- A job of packages 0 and 1 runs on tile 0, and package 1's context 0 is known. -/
def jobbed (flags : List (Word × Packet)) (marks : List Nat) : State :=
  { withLaunch user (fun x => { x with placed := true, job := 1 }) with
    jobs := [(1, [0, 1])], srcs := [(1 * 65536, { SrcCtx.empty with flags := flags, marks := marks })] }

theorem packet_arrives (kind : Nat) (pl : List Byte) (f : List (Word × Packet)) (m : List Nat) (h : kind < 256) :
    Arrives (jobbed f m) (packet kind pl) kind :=
  ⟨by simp only [packet, blankPacket, BitVec.toNat_ofNat]; omega, rfl, rfl, rfl⟩

theorem witness_PacketsReachTheirTarget :
    (∀ m ∈ [[], [1]],
      let s := jobbed [] m
      let p := packet 0 [1, 2, 3, 4, 5, 6, 7, 8]
      s.srcs.length < 8192 ∧ (s.srcAt p).expect.getD p.lane.toNat 0 = p.lseq.toNat ∧ (s.srcAt p).expect.length = 4 ∧ (s.srcAt p).accepted.length = 4 ∧
      (s.srcAt p).seen p.oseq.toNat = decide (m = [1]) ∧ (s.srcAt p).flags = [] ∧ (s.srcAt p).outcomes = []) ∧
    (let s := jobbed [] []
     let p := packet 1 []
     (jobbed [] []).packetLaunch p 0 = some (1, 0) ∧ s.isBad (tileKey 0 0x17FF8) 8 = false ∧ s.targetShut (packet 0 [1, 2, 3, 4, 5, 6, 7, 8]) = false ∧ s.targetShut p = false ∧ s.windows = [] ∧ p.dkind = 1#8 ∧ p.addr.toNat < 2 ^ 31 ∧ tileWordTile (p.addr.setWidth 64) = 0 ∧
       tileWordOff (p.addr.setWidth 64) = 0x17FF8 ∧
       s.jobLaunch p.src.toNat (fun x => x.job == p.job.toNat && x.foot.contains 0 && decide (x.shBase ≤ 0x17FF8) && decide (0x17FF8 + 8 ≤ x.shBase + x.shSize)) ≠ none ∧
       s.jobLaunch p.src.toNat (fun x => x.job == p.job.toNat && x.space == 1) ≠ none ∧ s.windowAt s.index (p.addr.setWidth 64) = none) ∧
    (jobbed [] []).packetLaunch (packet 1 [0, 0, 0, 0]) 4 = some (1, 0) :=
  ⟨by decide +kernel, by decide +kernel, by decide +kernel⟩

/-- A packet of another job than the launch's, one past the end of the tile, one to a tile outside the footprint, one beyond the chip, and one
to a space that no launch of the job has. -/
theorem witness_PacketsReachTheirTarget_nowhere :
    Nowhere (jobbed [] []) { packet 0 [1] with job := 2 } 1 ∧ Nowhere (jobbed [] []) (packet 0 (List.replicate 9 1)) 9 ∧
    Nowhere (jobbed [] []) { packet 0 [1] with addr := 0x00217FF8 } 1 ∧ Nowhere (jobbed [] []) { packet 0 [1] with addr := 0x80000000 } 1 ∧
    Nowhere (jobbed [] []) { packet 0 [1] with dkind := 0, spid := 2 } 1 := by
  unfold Nowhere; decide +kernel

/-- The last word of the mapped page, as a job's packet names it. -/
def toPage : Packet := { packet 0 [1, 2, 3, 4, 5, 6, 7, 8] with dkind := 0, spid := 1, addr := 0x1000000FFF8 }
def jobPage : State := { withLaunch mapped (fun x => { x with placed := true, job := 1 }) with jobs := [(1, [0, 1])] }

theorem witness_PacketsReachTheirTarget_translated : Located jobPage toPage true 8 0x20FFF8 := by
  have h : (match jobPage.virtKeys 0 1 true (toPage.addr.setWidth 64) 8 with
      | .ok (ks, t) => decide (ks = range 0x20FFF8 8 ∧ t = { jobPage with dies := t.dies, free := t.free })
      | .error _ => false) = true := by decide +kernel
  refine ⟨by decide +kernel, by decide +kernel, .inr ⟨by decide, by decide +kernel, fun srcs links => ?_⟩⟩
  rw [State.virtKeys_relinked]
  change ∃ d f, Except.map _ (jobPage.virtKeys 0 1 true (toPage.addr.setWidth 64) 8) = _
  generalize jobPage.virtKeys 0 1 true (toPage.addr.setWidth 64) 8 = r at h
  cases r with
  | error e => exact Bool.noConfusion h
  | ok r =>
    obtain ⟨hk, ht⟩ := of_decide_eq_true h
    exact ⟨r.2.dies, r.2.free, by rw [Except.map, hk, ht]⟩

/-- An ordered flag that counts n packets on lane 0. -/
def orderedFlag (n : BitVec 16) : Packet := { packet 0 [1, 0, 0, 0] with of := true, lcnt := [n, 0, 0, 0] }

/-- Package 1's context 0, as `jobbed` has it, with the flag held. -/
def heldFlag (n : BitVec 16) : SrcCtx := { SrcCtx.empty with flags := [(0, orderedFlag n)], marks := [1] }

theorem witness_PacketsReachTheirTarget_flags :
    ∀ n ∈ [0#16, 1#16], (jobbed [(0, orderedFlag n)] [1]).targetShut (orderedFlag n) = false ∧
      (jobbed [(0, orderedFlag n)] [1]).earlierContribution (orderedFlag n) = false ∧
      ∃ x, find? (jobbed [(0, orderedFlag n)] [1]).srcs 65536 = some x ∧ x.flags = [(0, orderedFlag n)] ∧ x.ready (orderedFlag n) = (n == 0) := by
  simp only [List.mem_cons, List.not_mem_nil, or_false, forall_eq_or_imp, forall_eq]
  exact ⟨⟨by decide +kernel, by decide +kernel, heldFlag 0, rfl, rfl, by decide +kernel⟩, by decide +kernel, by decide +kernel, heldFlag 1, rfl, rfl,
    by decide +kernel⟩

/-- An operation of copy 0 that waits for an answer from package 1. -/
def outPacket (kind : Nat) : OutPacket :=
  { die := 0, copy := some 0, packet := { blankPacket kind [] with src := 0, dst := 1, oseq := 1 }, tries := 8, busy := false, at_ := 0, elems := [0],
    lnum := 1 }
def sending (kind : Nat) : State :=
  { withCopy (copying (.block oneWord) (.started [] [1])) with out := [outPacket kind], clk := 21000 }

theorem witness_AnswersEndTheirOperation :
    (user.awaited (packet 6 []) = none) ∧
    (let s := sending 0
     s.awaited (packet 6 []) = some (outPacket 0) ∧ (s.copyAt 0 0).map (·.st) = some (.started [] [1]) ∧ (∀ x ∈ (s.dieAt 0).copies, x.unsent = []) ∧
       (outPacket 0).elems = [0] ∧ oneWord.ret = false ∧
       (s.out.find? (fun o => o.die == 0 && o.packet.ctx.toNat % 4096 == 0 && o.packet.dst.toNat == 1 && o.packet.oseq == 1)) = some (outPacket 0) ∧
       (outPacket 0).at_ + field (look s.dev 0x200108) 31 0 ≤ s.clk ∧ field (look s.dev 0x200110) 7 0 ≤ (outPacket 0).tries ∧
       7 < field (look s.dev 0x200110) 7 0 ∧ s.domainRevoked (outPacket 0).packet.domain.toNat 1 = false ∧
       ({ s with enclaves := [(0, { enclave with excluded := [1] })] } : State).domainRevoked (outPacket 0).packet.domain.toNat
         (outPacket 0).packet.dst.toNat = true) ∧
    (let b := parseBlock (leBytes 4 0x84000010 ++ leBytes 4 0 ++ leBytes 8 0x17FF8)
     b.ret = true ∧ (match user.localKey 1 0 0 true (b.srcAt 0) b.bytes with
       | .ok k => k == tileKey 0 0x17FF8
       | .error _ => false) = true) := by
  decide +kernel

/-- A window of one package at the mapped page, and a contribution of one word to it. -/
def window (xs : List (Word × Packet)) : Window :=
  { op := 0, homePkg := 0, n := 1, space := 1, base := page, size := 256, members := [1], round := 0, contribs := xs, route := none, delivered := [],
    done := [] }
def contribution : Packet := { packet 5 [1, 0, 0, 0] with win := 0, addr := 0x100000000FC }
def windowed (w : Window) : State := { mapped with windows := [(0, w)] }

theorem witness_WindowsLinksAndAnnouncements :
    ((packet 5 []).win = 0xFF#8 ∧ regionOf (packet 5 []).addr.toNat ≠ .xlat ∧ (user.meetingHere (packet 5 [])) = false ∧
      (meets meeting).meetingHere { packet 5 [] with addr := 0x2000000 } = true ∧ regionOf 0x2000000 ≠ .xlat ∧ regionOf page.toNat = .xlat ∧ contribution.win ≠ 0xFF#8 ∧ find? user.windows 15 = none ∧ (window []).accepts contribution contribution.op.toNat (windowSize contribution.op.toNat) = true ∧
      (let s : State := { windowed (window [(0, contribution)]) with launches := [] }
       find? s.windows 0 = some (window [(0, contribution)]) ∧ (window []).homePkg = s.index ∧ contribution.cidx = 0#16 ∧ contribution.enc = false ∧
         contribution.payload.length = 4 ∧
         s.roundClosed (window [(0, contribution)]) 0 = true ∧
         (match s.virtKeys 0 1 true (contribution.addr.setWidth 64) 4 with
           | .ok (ks, _) => ks == range 0x2000FC 4 && !s.isBad 0x2000FC 4
           | .error _ => false) = true)) ∧
    (∀ n ∈ [0, 15, 16], ∀ clk ∈ [255, 256, 1023, 1024],
      let l : Link := { Link.trained 0 with failSeq := 7, replays := n }
      let s : State := { user with clk := clk, links := [(95, l)] }
      find? s.links (95#7).toNat = some l ∧ l.up = true ∧ (clk < 256 ↔ s.clk < l.sentAt + 256) ∧ (clk < 1024 ↔ s.clk < l.last + 1024) ∧
        (n < 16 ↔ (if l.failSeq = 7#16 then l.replays + 1 else 1) ≤ 16)) := by
  decide +kernel

/-- Whatever the sources and the links are, the contribution meets no fault, and it meets one where the window's space is not mapped. -/
theorem witness_WindowsLinksAndAnnouncements_faults :
    (window []).accepts (decodedPacket contribution) contribution.op.toNat 4 = true ∧
    (∀ srcs links, State.contributionFaults { windowed (window []) with srcs := srcs, links := links } (window []) (decodedPacket contribution) = false) ∧
    ∀ srcs links, State.contributionFaults { windowed (window []) with srcs := srcs, links := links } { window [] with space := 9 }
      (decodedPacket contribution) = true :=
  ⟨by decide +kernel, fun _ _ => by rw [State.contributionFaults_relinked]; decide +kernel,
   fun _ _ => by rw [State.contributionFaults_relinked]; decide +kernel⟩

/-! ## Security, reliability and power -/

theorem witness_SpdmRequestsAreAnswered :
    (let s : State := { user with algorithms := true, sessions := [7], handshakes := [8] }
     (∀ a ∈ [SpdmAlgorithm.ecdsaP384, .sha384, .secp384r1, .aes256Gcm], a ∈ [SpdmAlgorithm.other, .aes256Gcm, .secp384r1, .sha384, .ecdsaP384]) ∧
     s.algorithms = true ∧ (7 : BitVec 32) ∈ s.sessions ∧ (8 : BitVec 32) ∈ s.handshakes ∧ (9 : BitVec 32) ∉ s.sessions ∧ (9 : BitVec 32) ∉ s.handshakes ∧ (8#4).toNat ≤ 8) ∧
    user.algorithms = false := by
  decide +kernel

theorem witness_GenerationsRotateRetireAndHalt :
    let retiring : Enclave := { enclave with gen := 1, oldGen := some (255, 0, [0, 1]), acked := [2048 * 1 + 0, 2048 * 1 + 1] }
    let s : State := { user with clk := 3150, enclaves := [(0xFFFF, enclave), (1, retiring)] }
    let wait := 2 * field (look s.dev 0x200000) 31 0
    find? s.enclaves 1 = some retiring ∧ (∀ p ∈ retiring.members, 2048 * retiring.gen + p ∈ retiring.acked) ∧ retiring.rotatedAt + wait ≤ s.clk ∧
    3149 < retiring.rotatedAt + wait ∧ (∃ p ∈ retiring.members, 2048 * retiring.gen + p ∉ [2048 * 1 + 0]) ∧ retiring.waiting = [] ∧
    find? s.enclaves 0xFFFF = some enclave ∧ (1#8).toNat = (if enclave.gen = 255 then 1 else enclave.gen + 1) ∧ s.index ∉ [1] ∧ s.index ∉ enclave.excluded ∧
    s.groups = [] ∧ (find? s.enclaves 1).map (·.oldGen.isSome) = some true ∧ enclave.waiting = [] := by
  decide +kernel

theorem witness_PowerAndReliability :
    (State.reset.bootStep = 0 ∧ [0#384, 0#384, 0#384].length = 3 ∧ ({ State.reset with bootStep := 6 } : State).bootStep = 6 ∧
      ({ State.reset with bootStep := 6, form := .v8d } : State).form = .v8d ∧ 8 < (9#5).toNat ∧ (8#5).toNat ≤ 8 ∧
      State.hasPort .v8d (8#5).toNat (7#7).toNat = true ∧ State.hasPort State.reset.form (0#5).toNat (95#7).toNat = true) ∧
    (let s : State := { user with clk := 1024 }
     s.epoch.toNat < s.clk / 1024) ∧
    (1000 * powerLimit user < (4000001#32).toNat ∧ (0#32).toNat * 100 < 95 * (1000 * powerLimit user) ∧
      (3800000#32).toNat ≤ 1000 * powerLimit user ∧ 95 * (1000 * powerLimit user) ≤ (3800000#32).toNat * 100) ∧
    ({ user with hot := some 0, clk := 104999999 } : State).clk < 0 + 105000000 ∧ (0 : Nat) + 105000000 ≤ ({ user with hot := some 0, clk := 105000000 } : State).clk ∧
    (0#32).toNat = user.clk / 1050000000 ∧ (7#3).toNat < dieCount user.form ∧
    (let s : State := { user with tracks := [(0, { loc := 9, stamps := [1, 2] })] }
     let mine := (List.range 64).filterMap (fun i => (find? s.tracks (64 * 0 + i)).map (fun t => (i, t)))
     (∀ p ∈ mine, p.2.loc ≠ 8) ∧ mine.find? (fun p => p.2.loc == 9) = some (0, { loc := 9, stamps := [1, 2] }) ∧
       field (look s.dev 0x300000) 3 0 = 2 + 1 ∧ s.clk ≤ 1 + 1050000000 * field (look s.dev 0x300000) 63 32) ∧
    patrolDie user.form (8 * (tileKey 0 0 / 8)) ≠ none ∧ tileKey 0 0 / 8 ∉ user.bad := by
  decide +kernel

/-! ## The machine as a whole -/

/-- `mapped` with a word at its PC, about to execute it. -/
def about (w : Nat) : State := { fetchPages user w with agenda := [.run] }
/-- The checks of a fetch pass, and the word and the breakpoint have a property. -/
def fetches (u : State) (p : State → BitVec 32 → Bool) : Bool :=
  match u.translate u.die u.launch.space u.pc.toNat with
  | .ok (leaf, pa, s') => permits leaf .fetch && physKind u.form pa != some .dev && !s'.isBad pa 4 && p s' (BitVec.ofNat 32 (s'.peekNat pa 4))
  | .error _ => false

theorem witness_StepRunsTheDecodedInstruction :
    ((about 0).powered = true ∧ (about 0).agenda = [.run] ∧ (tick (about 0)).q.mode = .run ∧ (tick (about 0)).q.k.pend = none ∧ (tick (about 0)).q.stop = false ∧
      (let s := about 0
       (tick { s with q := { s.q with stop := true } }).q.stop = true) ∧
      ((tick (about 0)).setK { (tick (about 0)).q.k with pend := some (0x14, 0) }).q.k.pend ≠ none ∧ regionOf (tick (about 0)).pc.toNat = .xlat) ∧
    fetches (tick (about 0x05CF8018)) (fun s' w => w == 0x05CF8018#32 && (breakpoint s').isNone) = true ∧
    ((tick (about 0)).launch.textWord (tick (about 0)).pc).isNone = true ∧
    fetches (tick (about 0)) (fun s' w => w == 0#32 && (breakpoint s').isNone) = true ∧
    fetches (tick (withCsrs (about 0) [(0x223, 0x10000000001)])) (fun s' _ => breakpoint s' == some 3) = true ∧
    regionOf (tick ((about 0).setPc 0x1000)).pc.toNat ≠ .xlat ∧
    (match (uncached.poke 0x240000 (leBytes 8 0x20000F)).translate 0 1 page.toNat with
      | .ok (leaf, _, _) => !permits leaf .fetch
      | .error _ => false) = true ∧
    -- text: pages that may be executed whatever their leaf says, a word that the host has rewritten, and one that it has not
    (let s := withLaunch (about 0) (fun x => { x with textBase := fetchPc, textSize := 65536, text := [(0, [0x18, 0x80, 0xCF, 0x05])] })
     (tick s).inText (tick s).launch.space (tick s).pc.toNat = true ∧ (tick s).launch.textWord (tick s).pc = some 0x05CF8018#32 ∧
       (∀ k ∈ (tick s).rewritten, k < 0x200000 ∨ 0x200000 + 4 ≤ k) ∧
       ∃ k ∈ (tick { s with rewritten := [0x200003] }).rewritten, 0x200000 ≤ k ∧ k < 0x200000 + 4) ∧
    ((tick (about 0)).inText (tick (about 0)).launch.space (tick (about 0)).pc.toNat = false) ∧
    ({ user with agenda := [.ev .epochTick] } : State).agenda = [.ev .epochTick] := by
  decide +kernel

theorem witness_DecodeOfEncode_EncodeOfDecode :
    (Instr.div 14 15 16).wellFormed = true ∧ encode (.div 14 15 16) = some 0x05CF8018#32 ∧ decode 0x05CF8018#32 = .ok (.div 14 15 16) := by
  decide +kernel

theorem witness_StepKeepsMemoryCanonical :
    Memory.wf State.reset.mem = true ∧ Memory.wf (about 0x05CF8018).mem = true ∧
    (match step ({ State.reset with agenda := [.focus 5] } : State) with
      | .next t => t.cur == 5
      | _ => false) = true := by
  decide +kernel


end Sys2Proof.Tests
end

section
/-! PROOFS. The scalar family (13 R132 to R140): what a register instruction, a shift by a count, a bit-field and a branch do. -/

namespace Sys2Proof.Machine

/-! ## Words: the counts, the flags and the 32-bit forms -/

theorem sh6_eq (b : Word) : sh6 b = b.toNat % 64 := by simp [sh6, bits]
theorem sh5_eq (b : Word) : sh5 b = b.toNat % 32 := by simp [sh5, bits]

theorem shiftLeft_eq_ofNat (x : Word) (n : Nat) : x <<< n = BitVec.ofNat 64 (x.toNat * 2 ^ n) := by
  apply BitVec.eq_of_toNat_eq
  rw [BitVec.toNat_shiftLeft, BitVec.toNat_ofNat, Nat.shiftLeft_eq]

theorem shiftLeft_eq_mul (x : Word) (n : Nat) : x <<< n = x * BitVec.ofNat 64 (2 ^ n) := by
  rw [shiftLeft_eq_ofNat, BitVec.ofNat_mul, BitVec.ofNat_toNat, BitVec.setWidth_eq]

theorem immHi_eq_mul (i : BitVec 21) : immHi i = i.signExtend 64 * 2048#64 := shiftLeft_eq_mul _ 11

theorem bne_eq_decide_ne (x y : Word) : (x != y) = decide (x ≠ y) := by
  rw [bne, beq_eq_decide, decide_not]

theorem not_slt_eq_decide (x y : Word) : (!x.slt y) = decide (y.toInt ≤ x.toInt) := by
  rw [BitVec.slt_eq_decide, ← decide_not, decide_eq_decide, not_lt]

theorem slt_immS (x : Word) (i : BitVec 16) : x.slt (immS i) = decide (x.toInt < i.toInt) := by
  rw [BitVec.slt_eq_decide, immS, BitVec.toInt_signExtend_of_le (by decide)]

theorem not_ult_eq_decide (x y : Word) : (!x.ult y) = decide (y.toNat ≤ x.toNat) := by
  rw [BitVec.ult_eq_decide, ← decide_not, decide_eq_decide, not_lt]

/-- The flag of a test that decides a proposition. -/
theorem b2w_eq_flag {b : Bool} {p : Prop} [Decidable p] (h : b = decide p) : b2w b = Spec.flag p := by
  by_cases hp : p <;> simp [b2w, Spec.flag, h, hp]

theorem sxw_low32_add (x y : Word) : sxw (low32 x + low32 y) = Spec.wide (Spec.low (x + y)) :=
  congrArg Spec.wide (BitVec.setWidth_add x y (by decide)).symm

theorem sxw_low32_mul (x y : Word) : sxw (low32 x * low32 y) = Spec.wide (Spec.low (x * y)) :=
  congrArg Spec.wide (BitVec.setWidth_mul x y (by decide)).symm

theorem sxw_low32_sub (x y : Word) : sxw (low32 x - low32 y) = Spec.wide (Spec.low (x - y)) := by
  have h : low32 x - low32 y = Spec.low (x - y) := by
    simp only [low32, Spec.low, BitVec.truncate_eq_setWidth]
    bv_omega
  exact congrArg Spec.wide h

/-- The sign is the same at both widths, so the shift may come before the extension or after it. -/
theorem sxw_sshiftRight (v : Lane) (n : Nat) : sxw (v.sshiftRight n) = (Spec.wide v).sshiftRight n := by
  apply BitVec.eq_of_toInt_eq
  simp [sxw, Spec.wide, BitVec.toInt_signExtend_of_le, BitVec.toInt_sshiftRight]

/-! ## Choosing the lesser and the greater (R132)

The model chooses by `<` and the statement by `≤`: they differ where the two are equal, and there both choices are the same word. -/

theorem ite_lt_eq_ite_le {α : Type} [LinearOrder α] {m n : α} {u v : Word} (h : m = n → u = v) :
    (if m < n then u else v) = if m ≤ n then u else v := by
  rcases lt_trichotomy m n with hlt | heq | hgt
  · rw [if_pos hlt, if_pos hlt.le]
  · rw [if_neg heq.not_lt, if_pos heq.le, h heq]
  · rw [if_neg hgt.not_gt, if_neg hgt.not_ge]

theorem ite_slt_eq_ite_le {x y u v : Word} (h : x = y → u = v) : (if x.slt y then u else v) = if x.toInt ≤ y.toInt then u else v :=
  (if_congr BitVec.slt_iff_toInt_lt rfl rfl).trans (ite_lt_eq_ite_le fun e => h (BitVec.toInt_inj.mp e))

theorem ite_ult_eq_ite_le {x y u v : Word} (h : x = y → u = v) : (if x.ult y then u else v) = if x.toNat ≤ y.toNat then u else v :=
  (if_congr BitVec.ult_iff_lt rfl rfl).trans (ite_lt_eq_ite_le (m := x.toNat) (n := y.toNat) fun e => h (BitVec.toNat_inj.mp e))

/-! ## Products and quotients (R133) -/

theorem mul_eq_ofInt (x y : Word) : x * y = BitVec.ofInt 64 (x.toInt * y.toInt) := by
  rw [BitVec.ofInt_mul, BitVec.ofInt_toInt, BitVec.ofInt_toInt]

/-- -2^63 by -1 included: the quotient 2^63 wraps on both sides. -/
theorem sdiv_eq_ofInt (x y : Word) : x.sdiv y = BitVec.ofInt 64 (x.toInt.tdiv y.toInt) :=
  BitVec.eq_of_toInt_eq (by rw [BitVec.toInt_sdiv, BitVec.toInt_ofInt])

theorem srem_eq_ofInt (x y : Word) : x.srem y = BitVec.ofInt 64 (x.toInt - x.toInt.tdiv y.toInt * y.toInt) := by
  rw [mul_comm, ← Int.tmod_def, ← BitVec.toInt_srem, BitVec.ofInt_toInt]

theorem udiv_eq_ofNat (x y : Word) : x / y = BitVec.ofNat 64 (x.toNat / y.toNat) := by
  rw [← BitVec.toNat_udiv, BitVec.ofNat_toNat, BitVec.setWidth_eq]

theorem umod_eq_ofNat (x y : Word) : x % y = BitVec.ofNat 64 (x.toNat % y.toNat) := by
  rw [← BitVec.toNat_umod, BitVec.ofNat_toNat, BitVec.setWidth_eq]

/-! ## Counting bits (R132) -/

/-- CLZ from bit n - 1 down: the bits between are zero, and the bit at the count, where there is one, is set. -/
theorem clzGo_spec (v : Word) (n : Nat) (hn : n ≤ 64) :
    clzGo v n ≤ 64 ∧ (∀ k, 64 - n ≤ k → k < clzGo v n → v.getLsbD (63 - k) = false) ∧
      (clzGo v n < 64 → v.getLsbD (63 - clzGo v n) = true) := by
  induction n with
  | zero => exact ⟨le_rfl, fun k hk hlt => absurd hlt hk.not_gt, fun h => absurd h (lt_irrefl 64)⟩
  | succ n ih =>
    obtain ⟨hle, hzero, hone⟩ := ih (by omega)
    by_cases hb : v.getLsbD n = true
    · simp only [clzGo, hb, if_true]
      exact ⟨by omega, fun k _ _ => by omega, fun _ => by rwa [show 63 - (63 - n) = n by omega]⟩
    · simp only [clzGo, hb, if_false, Bool.false_eq_true]
      refine ⟨hle, fun k hk hlt => ?_, hone⟩
      by_cases hkn : k = 63 - n
      · rw [hkn, show 63 - (63 - n) = n by omega]
        simpa using hb
      · exact hzero k (by omega) hlt

/-- CTZ from bit k up, with n bits left. -/
theorem ctzGo_spec (v : Word) (n k : Nat) (hn : n + k = 64) :
    ctzGo v n k ≤ 64 ∧ (∀ j, k ≤ j → j < ctzGo v n k → v.getLsbD j = false) ∧
      (ctzGo v n k < 64 → v.getLsbD (ctzGo v n k) = true) := by
  induction n generalizing k with
  | zero =>
    obtain rfl : k = 64 := by omega
    exact ⟨le_rfl, fun j hj hlt => absurd hlt hj.not_gt, fun h => absurd h (lt_irrefl 64)⟩
  | succ n ih =>
    obtain ⟨hle, hzero, hone⟩ := ih (k + 1) (by omega)
    by_cases hb : v.getLsbD k = true
    · simp only [ctzGo, hb, if_true]
      exact ⟨by omega, fun j _ _ => by omega, fun _ => trivial⟩
    · simp only [ctzGo, hb, if_false, Bool.false_eq_true]
      refine ⟨hle, fun j hj hlt => ?_, hone⟩
      by_cases hjk : j = k
      · rw [hjk]
        simpa using hb
      · exact hzero j (by omega) hlt

theorem popGo_eq_countP (v : Word) (n : Nat) : popGo v n = (List.range n).countP (fun k => v.getLsbD k) := by
  induction n with
  | zero => rfl
  | succ n ih => simp [popGo, ih, List.range_succ, List.countP_append, b2n, List.countP_singleton, Nat.add_comm]

/-! ## Reversals (R132) -/

/-- BREV's first n bits fill the word from the top: below them the sum is zero. -/
theorem two_pow_dvd_brevGo (v : Word) (n : Nat) (hn : n ≤ 64) : 2 ^ (64 - n) ∣ brevGo v n := by
  induction n with
  | zero => exact dvd_zero _
  | succ n ih =>
    have h : 2 ^ (63 - n) ∣ brevGo v n := (pow_dvd_pow 2 (by omega)).trans (ih (by omega))
    rw [show 64 - (n + 1) = 63 - n by omega]
    exact dvd_add (dvd_mul_left _ _) h

theorem testBit_brevGo (v : Word) (n k : Nat) (hn : n ≤ 64) (hk : k < n) :
    (brevGo v n).testBit (63 - k) = v.getLsbD k := by
  induction n with
  | zero => omega
  | succ n ih =>
    obtain ⟨q, hq⟩ := two_pow_dvd_brevGo v n (by omega)
    have hlt : b2n (v.getLsbD n) * 2 ^ (63 - n) < 2 ^ (64 - n) := by
      rw [show 64 - n = (63 - n) + 1 by omega, pow_succ']
      exact Nat.mul_lt_mul_of_pos_right (by unfold b2n; split <;> decide) (by positivity)
    have hbit : ∀ j, (brevGo v (n + 1)).testBit j =
        if j < 64 - n then (b2n (v.getLsbD n) * 2 ^ (63 - n)).testBit j else q.testBit (j - (64 - n)) := by
      intro j
      rw [brevGo, hq, Nat.add_comm, Nat.testBit_two_pow_mul_add _ hlt]
    by_cases hkn : k = n
    · rw [hbit, if_pos (by omega), hkn, Nat.testBit_mul_two_pow]
      cases v.getLsbD n <;> simp [b2n]
    · have hrest : (brevGo v n).testBit (63 - k) = q.testBit (63 - k - (64 - n)) := by
        rw [hq, Nat.testBit_two_pow_mul]
        simp [show 64 - n ≤ 63 - k by omega]
      rw [hbit, if_neg (by omega), ← hrest, ih (by omega) (by omega)]

theorem brev_getLsbD (v : Word) (k : Nat) (hk : k < 64) :
    (BitVec.ofNat 64 (brevGo v 64)).getLsbD (63 - k) = v.getLsbD k := by
  rw [BitVec.getLsbD_ofNat, testBit_brevGo v 64 k le_rfl hk]
  simp [show 63 - k < 64 by omega]

/-- Byte i of a little-endian number is the i-th of its bytes. -/
theorem leNat_div_mod (bs : List Byte) (i : Nat) (hi : i < bs.length) : leNat bs / 256 ^ i % 256 = bs[i].toNat := by
  induction bs generalizing i with
  | nil => simp at hi
  | cons b bs ih =>
    have hb : b.toNat < 256 := b.isLt
    cases i with
    | zero => simp [leNat]; omega
    | succ i =>
      have hdiv : leNat (b :: bs) / 256 = leNat bs := by simp only [leNat]; omega
      rw [pow_succ', ← Nat.div_div_eq_div_mul, hdiv, ih i (by simpa using hi), List.getElem_cons_succ]

theorem getElem_leBytes (n v i : Nat) (hi : i < (leBytes n v).length) : (leBytes n v)[i] = BitVec.ofNat 8 (v / 256 ^ i) := by
  induction n generalizing v i with
  | zero => simp [leBytes] at hi
  | succ n ih =>
    cases i with
    | zero => simp [leBytes]
    | succ i => simp [leBytes, ih, pow_succ', Nat.div_div_eq_div_mul]

/-- Byte k of a word, as a number. -/
theorem toNat_byte (v : Word) (k : Nat) : (v.extractLsb' (8 * k) 8).toNat = v.toNat / 256 ^ k % 256 := by
  rw [BitVec.extractLsb'_toNat, Nat.shiftRight_eq_div_pow, pow_mul, show (2 : Nat) ^ 8 = 256 from rfl]

theorem bswap_byte (v : Word) (k : Nat) (hk : k < 8) :
    (bswap v).extractLsb' (8 * (7 - k)) 8 = v.extractLsb' (8 * k) 8 := by
  have hlen : (leBytes 8 v.toNat).reverse.length = 8 := by simp
  have hmod : ∀ m : Nat, m % 2 ^ 64 / 256 ^ (7 - k) % 256 = m / 256 ^ (7 - k) % 256 := by
    intro m
    rw [show (2 : Nat) ^ 64 = 256 ^ (7 - k) * 256 ^ (k + 1) by rw [← pow_add, show 7 - k + (k + 1) = 8 by omega]; norm_num,
      Nat.mod_mul_right_div_self, Nat.mod_mod_of_dvd _ (dvd_pow_self 256 (by omega))]
  apply BitVec.eq_of_toNat_eq
  calc ((bswap v).extractLsb' (8 * (7 - k)) 8).toNat
      = leNat (leBytes 8 v.toNat).reverse / 256 ^ (7 - k) % 256 := by
        rw [toNat_byte, bswap, BitVec.toNat_ofNat, hmod]
    _ = ((leBytes 8 v.toNat).reverse[7 - k]'(by omega)).toNat := leNat_div_mod _ _ _
    _ = (BitVec.ofNat 8 (v.toNat / 256 ^ k)).toNat := by
        simp [List.getElem_reverse, getElem_leBytes, show 7 - (7 - k) = k by omega]
    _ = (v.extractLsb' (8 * k) 8).toNat := by rw [toNat_byte, BitVec.toNat_ofNat]

/-! ## Bit fields (R138) -/

theorem sext64_bits (v : Word) (l p : Nat) :
    sext64 (bits v (p + l) p) (l + 1) = (BitVec.ofNat (l + 1) (v.toNat / 2 ^ p)).signExtend 64 := by
  have h : BitVec.ofNat (l + 1) (bits v (p + l) p) = BitVec.ofNat (l + 1) (v.toNat / 2 ^ p) := by
    apply BitVec.eq_of_toNat_eq
    simp [bits, show p + l + 1 - p = l + 1 by omega]
  rw [sext64, h]

theorem ofNat_bits (v : Word) (l p : Nat) :
    BitVec.ofNat 64 (bits v (p + l) p) = (BitVec.ofNat (l + 1) (v.toNat / 2 ^ p)).setWidth 64 := by
  apply BitVec.eq_of_toNat_eq
  simp [bits, show p + l + 1 - p = l + 1 by omega]

theorem ofNat_bits_shiftLeft (v : Word) (l p : Nat) :
    BitVec.ofNat 64 (bits v l 0) <<< p = BitVec.ofNat 64 (v.toNat % 2 ^ (l + 1) * 2 ^ p) := by
  rw [shiftLeft_eq_ofNat]
  apply BitVec.eq_of_toNat_eq
  simp [bits, Nat.mod_mul_mod]

/-- A word with the field [p+l:p] replaced, bit by bit. -/
theorem setBits_getLsbD (v : Word) (l p x k : Nat) (hk : k < 64) :
    (setBits v (p + l) p x).getLsbD k = if p ≤ k ∧ k ≤ p + l then x.testBit (k - p) else v.getLsbD k := by
  have hw : p + l + 1 - p = l + 1 := by omega
  simp only [setBits, hw, BitVec.getLsbD_or, BitVec.getLsbD_and, BitVec.getLsbD_not, BitVec.getLsbD_ofNat, Nat.testBit_mul_two_pow,
    Nat.testBit_two_pow_sub_one, Nat.testBit_mod_two_pow, hk]
  by_cases h : p ≤ k ∧ k ≤ p + l
  · simp [h, show k - p < l + 1 by omega]
  · have hout : p ≤ k → ¬ k - p < l + 1 := by omega
    rw [if_neg h]
    by_cases hp : p ≤ k
    · simp [hp, hout hp]
    · simp [hp]

theorem bits_testBit (v : Word) (l j : Nat) (hj : j ≤ l) : (bits v l 0).testBit j = v.getLsbD j := by
  simp [bits, Nat.testBit_mod_two_pow, BitVec.testBit_toNat, Nat.lt_succ_of_le hj]

/-- DEP: the low bits of w in the field [p+l:p] of v. -/
theorem setBits_bits_getLsbD (v w : Word) (l p k : Nat) (hk : k < 64) :
    (setBits v (p + l) p (bits w l 0)).getLsbD k = if p ≤ k ∧ k ≤ p + l then w.getLsbD (k - p) else v.getLsbD k := by
  rw [setBits_getLsbD v l p _ k hk]
  by_cases h : p ≤ k ∧ k ≤ p + l
  · rw [if_pos h, if_pos h, bits_testBit w l _ (by omega)]
  · rw [if_neg h, if_neg h]

end Sys2Proof.Machine

namespace Sys2Proof.Spec
open Sys2Proof.Machine

/-! ## The frame of a register instruction and of a branch -/

/-- A register written and control passed on: all that R106 and R337 say of an instruction that completes. -/
theorem writesOnly_setX_goto (s : State) (d : BitVec 5) (v pc : Word) : WritesOnly s ((s.setX d v).goto pc) d v pc where
  value h := by rw [State.x_goto, State.x_setX_self s h]
  zero := by simp
  others r h := by rw [State.x_goto, State.x_setX_of_ne s h]
  next := State.pc_goto _ _
  counted := by simp
  csrs n h := by rw [State.csr_goto_of_ne _ _ h, State.csr_setX]
  memory a := by simp
  rest := by rw [State.setX_eq]; rfl

theorem writeR_writesOnly (s : State) (d : BitVec 5) (v : Word) :
    ∃ t, writeR s d v = .next t ∧ WritesOnly s t d v (s.pc + 4) :=
  ⟨_, writeR_eq s d v, by rw [State.retire, State.pc_setX]; exact writesOnly_setX_goto s d v _⟩

theorem computes_of_writeR {i : Instr} {d : BitVec 5} {v : State → Word} (h : ∀ s, exec i s = writeR s d (v s)) : Computes i d v :=
  fun s => by rw [h]; exact writeR_writesOnly s d (v s)

/-- Where the statement gives the value in another form than the model. -/
theorem computes_of_writeR_eq {i : Instr} {d : BitVec 5} {v w : State → Word} (h : ∀ s, exec i s = writeR s d (v s))
    (e : ∀ s, v s = w s) : Computes i d w :=
  funext e ▸ computes_of_writeR h

theorem goesTo_of_goto {i : Instr} {p q : State → Word} (h : ∀ s, exec i s = .next (s.goto (p s))) (e : ∀ s, p s = q s) :
    GoesTo i q := fun s => by
  rw [h, e]
  exact ⟨_, rfl, writesOnly_setX_goto s 0#5 0#64 (q s)⟩

/-- A branch by a condition that the statement writes as a proposition. -/
theorem goesTo_of_branch {i : Instr} {o : BitVec 13} {c c' : State → Bool} (h : ∀ s, exec i s = branch s (c s) o) (e : ∀ s, c s = c' s) :
    GoesTo i (fun s => if c' s then s.pc + 4#64 * o.signExtend 64 else s.pc + 4) :=
  goesTo_of_goto h (fun s => by rw [e]; rfl)

/-! ## The obligations -/

/-- Settles O3: a branch and J are a `goto`, so what is left is that each comparison of the model is the statement's. -/
theorem branchesGoToTheirTarget : Obligations.BranchesGoToTheirTarget := by
  intro a b o j
  exact ⟨
    -- B-cond
    goesTo_of_branch (fun _ => rfl) (fun _ => beq_eq_decide _ _),
    goesTo_of_branch (fun _ => rfl) (fun _ => bne_eq_decide_ne _ _),
    goesTo_of_branch (fun _ => rfl) (fun _ => BitVec.slt_eq_decide),
    goesTo_of_branch (fun _ => rfl) (fun _ => not_slt_eq_decide _ _),
    goesTo_of_branch (fun _ => rfl) (fun _ => BitVec.ult_eq_decide),
    goesTo_of_branch (fun _ => rfl) (fun _ => not_ult_eq_decide _ _),
    -- B-zero
    goesTo_of_branch (fun _ => rfl) (fun _ => beq_eq_decide _ _),
    goesTo_of_branch (fun _ => rfl) (fun _ => bne_eq_decide_ne _ _),
    goesTo_of_branch (fun _ => rfl) (fun _ => BitVec.slt_eq_decide),
    goesTo_of_branch (fun _ => rfl) (fun _ => not_slt_eq_decide _ _),
    goesTo_of_branch (fun _ => rfl) (fun _ => BitVec.slt_eq_decide),
    goesTo_of_branch (fun _ => rfl) (fun _ => not_slt_eq_decide _ _),
    -- J (R140)
    goesTo_of_goto (fun _ => rfl) (fun _ => rfl)⟩

/-- Settles O2: each instruction is a `writeR`, so what is left is that the value of the model is the statement's. -/
theorem immediateInstructionsWriteTheirResult : Obligations.ImmediateInstructionsWriteTheirResult := by
  intro d a i h n m l p
  refine ⟨
    -- R134
    computes_of_writeR fun _ => rfl,
    computes_of_writeR fun _ => rfl,
    computes_of_writeR fun _ => rfl,
    computes_of_writeR fun _ => rfl,
    computes_of_writeR_eq (fun _ => rfl) (fun s => b2w_eq_flag (slt_immS _ i)),
    computes_of_writeR_eq (fun _ => rfl) (fun _ => b2w_eq_flag BitVec.ult_eq_decide),
    -- R135, of 64 bits
    computes_of_writeR_eq (fun _ => rfl) (fun _ => shiftLeft_eq_ofNat _ _),
    computes_of_writeR fun _ => rfl,
    computes_of_writeR fun _ => rfl,
    computes_of_writeR fun _ => rfl,
    -- R135, of 32 bits
    computes_of_writeR fun _ => rfl,
    computes_of_writeR fun _ => rfl,
    computes_of_writeR_eq (fun _ => rfl) (fun _ => sxw_sshiftRight _ _),
    computes_of_writeR fun _ => rfl,
    -- R136
    computes_of_writeR_eq (fun _ => rfl) (fun _ => immHi_eq_mul h),
    computes_of_writeR_eq (fun _ => rfl) (fun _ => congrArg (_ + ·) (immHi_eq_mul h)),
    -- R137
    computes_of_writeR_eq (fun _ => rfl) (fun _ => congrArg (· ||| immZ i) (shiftLeft_eq_mul _ 16)),
    -- R138
    fun _ => ⟨
      computes_of_writeR_eq (fun _ => rfl) (fun _ => sext64_bits _ _ _),
      computes_of_writeR_eq (fun _ => rfl) (fun _ => ofNat_bits _ _ _),
      computes_of_writeR_eq (fun _ => rfl) (fun _ => ofNat_bits_shiftLeft _ _ _),
      fun s => ?_⟩⟩
  obtain ⟨t, ht, hw⟩ := writeR_writesOnly s d (setBits (s.x d) (p.toNat + l.toNat) p.toNat (bits (s.x a) l.toNat 0))
  exact ⟨_, t, ht, hw, setBits_bits_getLsbD (s.x d) (s.x a) l.toNat p.toNat⟩

/-- Settles O1: each instruction is a `writeR`, so what is left is that the value of the model is the statement's. -/
theorem aluInstructionsWriteTheirResult : Obligations.AluInstructionsWriteTheirResult := by
  refine ⟨fun d a b => ⟨
    -- sums and logic
    computes_of_writeR fun _ => rfl,
    computes_of_writeR fun _ => rfl,
    computes_of_writeR fun _ => rfl,
    computes_of_writeR fun _ => rfl,
    computes_of_writeR fun _ => rfl,
    computes_of_writeR fun _ => rfl,
    computes_of_writeR fun _ => rfl,
    computes_of_writeR fun _ => rfl,
    -- shifts and rotations by a register, whose count is its low six bits
    computes_of_writeR_eq (fun _ => rfl) (fun _ => by simp only [shiftLeft_eq_ofNat, sh6_eq]),
    computes_of_writeR_eq (fun _ => rfl) (fun _ => by simp only [sh6_eq]),
    computes_of_writeR_eq (fun _ => rfl) (fun _ => by simp only [sh6_eq]),
    computes_of_writeR_eq (fun _ => rfl) (fun _ => by simp only [sh6_eq]),
    computes_of_writeR_eq (fun _ => rfl) (fun _ => by simp only [sh6_eq]),
    -- the lesser and the greater
    computes_of_writeR_eq (fun _ => rfl) (fun _ => ite_slt_eq_ite_le id),
    computes_of_writeR_eq (fun _ => rfl) (fun _ => ite_slt_eq_ite_le Eq.symm),
    computes_of_writeR_eq (fun _ => rfl) (fun _ => ite_ult_eq_ite_le id),
    computes_of_writeR_eq (fun _ => rfl) (fun _ => ite_ult_eq_ite_le Eq.symm),
    -- comparisons
    computes_of_writeR_eq (fun _ => rfl) (fun _ => b2w_eq_flag BitVec.slt_eq_decide),
    computes_of_writeR_eq (fun _ => rfl) (fun _ => b2w_eq_flag BitVec.ult_eq_decide),
    computes_of_writeR_eq (fun _ => rfl) (fun _ => b2w_eq_flag (beq_eq_decide _ _)),
    computes_of_writeR_eq (fun _ => rfl) (fun _ => b2w_eq_flag (bne_eq_decide_ne _ _)),
    -- products
    computes_of_writeR_eq (fun _ => rfl) (fun _ => mul_eq_ofInt _ _),
    computes_of_writeR fun _ => rfl,
    computes_of_writeR fun _ => rfl,
    -- quotients and remainders, with their results for a zero divisor
    computes_of_writeR_eq (fun _ => rfl) (fun _ => by rw [divS, sdiv_eq_ofInt]),
    computes_of_writeR_eq (fun _ => rfl) (fun _ => by rw [remS, srem_eq_ofInt]),
    computes_of_writeR_eq (fun _ => rfl) (fun _ => by rw [divU, udiv_eq_ofNat]),
    computes_of_writeR_eq (fun _ => rfl) (fun _ => by rw [remU, umod_eq_ofNat]),
    -- 32-bit forms
    computes_of_writeR_eq (fun _ => rfl) (fun _ => sxw_low32_add _ _),
    computes_of_writeR_eq (fun _ => rfl) (fun _ => sxw_low32_sub _ _),
    computes_of_writeR_eq (fun _ => rfl) (fun _ => sxw_low32_mul _ _),
    computes_of_writeR_eq (fun _ => rfl) (fun _ => by simp only [sh5_eq]; rfl),
    computes_of_writeR_eq (fun _ => rfl) (fun _ => by simp only [sh5_eq]; rfl),
    computes_of_writeR_eq (fun _ => rfl) (fun _ => by simp only [sh5_eq, sxw_sshiftRight]; rfl)⟩,
    fun d a s => ⟨?clz, ?ctz, ?popc, ?brev, ?bswap⟩⟩
  case clz =>
    obtain ⟨hle, hzero, hone⟩ := clzGo_spec (s.x a) 64 le_rfl
    obtain ⟨t, ht, hw⟩ := writeR_writesOnly s d (BitVec.ofNat 64 (clzGo (s.x a) 64))
    exact ⟨_, t, ht, hw, hle, fun k => hzero k (Nat.zero_le k), hone⟩
  case ctz =>
    obtain ⟨hle, hzero, hone⟩ := ctzGo_spec (s.x a) 64 0 rfl
    obtain ⟨t, ht, hw⟩ := writeR_writesOnly s d (BitVec.ofNat 64 (ctzGo (s.x a) 64 0))
    exact ⟨_, t, ht, hw, hle, fun k => hzero k (Nat.zero_le k), hone⟩
  case popc =>
    rw [← popGo_eq_countP]
    exact writeR_writesOnly s d (BitVec.ofNat 64 (popGo (s.x a) 64))
  case brev =>
    obtain ⟨t, ht, hw⟩ := writeR_writesOnly s d (BitVec.ofNat 64 (brevGo (s.x a) 64))
    exact ⟨_, t, ht, hw, brev_getLsbD (s.x a)⟩
  case bswap =>
    obtain ⟨t, ht, hw⟩ := writeR_writesOnly s d (bswap (s.x a))
    exact ⟨_, t, ht, hw, bswap_byte (s.x a)⟩

end Sys2Proof.Spec
end
